-- ==== Sys2Proof/Word.lean ====
section
/-!
DEFINITION. Sys2Proof/Word.lean: the word types of the module. Multi-byte fields are little-endian and bit 0 is the
least significant bit (R3); the byte-order helpers stand in Machine/Bits.lean.
-/

namespace Sys2Proof

/-- One byte. -/
abbrev Byte := BitVec 8

/-- A 16-bit word: error and status codes (R12). -/
abbrev Code := BitVec 16

/-- A 32-bit word: scalar registers, FP32 lanes, 32-bit registers. -/
abbrev Word := BitVec 32

/-- A 64-bit word: the widest register of the module. -/
abbrev DWord := BitVec 64

end Sys2Proof
end

