-- ==== Sys2Proof/Syntax.lean ====
section
/-!
DEFINITION. Sys2Proof/Syntax.lean: the commands of the block, one constructor for each row of spec/opcode_table.json in
the table's order. The operands are the unit concerned and what the outside world supplies: register fields, data, and
the physical outcome of an event (see the assumption log).
-/

namespace Sys2Proof

/-- The commands of the module. -/
inductive Instr where
  /-- POWER_ON (R626). -/
  | powerOn (answers : Bool) (lanes : BitVec 2) (lane dev : DWord) (ms : Word)
  /-- PERST_DEASSERT (R627). -/
  | perstDeassert (port : Fin 2)
  /-- CONFIGURATION_REQUEST (R627). -/
  | configurationRequest (port : Fin 2) (wr ats pri : Bool)
  /-- FLR (R513). -/
  | flr (port : Fin 2)
  /-- D3HOT_ENTRY (R513). -/
  | d3hotEntry (port : Fin 2)
  /-- PORT_LOSS (R537). -/
  | portLoss (port : Fin 2)
  /-- ADOPT_EXPIRY (R539). -/
  | adoptExpiry (x : Fin 1024)
  /-- APERTURE_WRITE (R525). -/
  | apertureWrite (port : Fin 2) (x : Fin 1024) (slot : Fin 1024) (off : Fin 64) (data : List Byte)
  /-- COMMAND_RECORD (R526). -/
  | commandRecord (port : Fin 2) (x : Fin 1024) (slot : Fin 1024)
  /-- OPEN (R523). -/
  | openContext (port : Fin 2) (x : Fin 1024)
  /-- ADOPT (R538). -/
  | adopt (port : Fin 2) (x : Fin 1024)
  /-- CTX_CTRL_CLOSE (R540). -/
  | ctxCtrlClose (port : Fin 2) (x : Fin 1024)
  /-- FEAT_ACCEPT_WRITE (R521). -/
  | featAcceptWrite (port : Fin 2) (half : Fin 2) (word : DWord)
  /-- RING_HEAD_WRITE (R531). -/
  | ringHeadWrite (port : Fin 2) (x : Fin 1024) (word : Word)
  /-- MSIX_TIMER_EXPIRY (R536). -/
  | msixTimerExpiry (x : Fin 1024)
  /-- BAR4_READ (R520). -/
  | bar4Read (port : Fin 2) (off : Nat) (n : Nat)
  /-- BAR4_WRITE (R520). -/
  | bar4Write (port : Fin 2) (off : Nat) (data : List Byte)
  /-- REGISTER_WRITE (R9). -/
  | registerWrite (port : Fin 2) (addr : Nat) (word : DWord) (width : Fin 2)
  /-- HOST_NOP (R529). -/
  | hostNop (x : Fin 1024) (seq : Nat)
  /-- FENCE (R529). -/
  | fence (x : Fin 1024) (seq : Nat)
  /-- LOAD (R457). -/
  | load (x : Fin 1024) (seq : Nat)
  /-- UNLOAD (R467). -/
  | unload (x : Fin 1024) (seq : Nat)
  /-- RESUME (R465). -/
  | resume (x : Fin 1024) (seq : Nat)
  /-- SUBMIT (R530). -/
  | submit (x : Fin 1024) (seq : Nat)
  /-- CANCEL (R433). -/
  | cancel (x : Fin 1024) (seq : Nat)
  /-- REOPEN (R433). -/
  | reopen (x : Fin 1024) (seq : Nat)
  /-- CAVE_WRITE (R529). -/
  | caveWrite (x : Fin 1024) (seq : Nat)
  /-- CAVE_READ (R529). -/
  | caveRead (x : Fin 1024) (seq : Nat)
  /-- ARM (R529). -/
  | arm (x : Fin 1024) (seq : Nat)
  /-- DRIP (R529). -/
  | drip (x : Fin 1024) (seq : Nat)
  /-- SET_PTROOT (R559). -/
  | setPtroot (x : Fin 1024) (seq : Nat)
  /-- INVAL (R529). -/
  | inval (x : Fin 1024) (seq : Nat)
  /-- CLOSE (R540). -/
  | close (x : Fin 1024) (seq : Nat)
  /-- FLASH_WRITE (R634). -/
  | flashWrite (x : Fin 1024) (seq bad : Nat)
  /-- FLASH_VERIFY (R635). -/
  | flashVerify (x : Fin 1024) (seq : Nat)
  /-- NONCE (R664). -/
  | nonce (x : Fin 1024) (seq : Nat)
  /-- ADVANCE (R655). -/
  | advance (x : Fin 1024) (seq : Nat) (fuseOk : Bool)
  /-- LC_CHANGE (R667). -/
  | lcChange (x : Fin 1024) (seq : Nat) (fuseOk : Bool)
  /-- ENROLL (R663). -/
  | enroll (x : Fin 1024) (seq : Nat) (fuseOk : Bool)
  /-- REVOKE (R663). -/
  | revoke (x : Fin 1024) (seq : Nat) (fuseOk : Bool)
  /-- PLAN_TABLE (R661). -/
  | planTable (x : Fin 1024) (seq : Nat)
  /-- SUBMIT_TIMEOUT (R578). -/
  | submitTimeout (x : Fin 1024) (seq : Nat) (late : List (Nat × Nat × Nat))
  /-- COMMAND_TIMEOUT (R579). -/
  | commandTimeout (x : Fin 1024) (seq done : Nat)
  /-- DRAIN_DEADLINE (R580). -/
  | drainDeadline (w : Fin 8)
  /-- ISTORE_REWRITE_DONE (R589). -/
  | istoreRewriteDone (w : Fin 8) (v : Fin 32)
  /-- REPLAY (R590). -/
  | replay (w : Fin 8)
  /-- RESET_OVERRUN (R574). -/
  | resetOverrun (w : Fin 8)
  /-- WHEEL_WATCHDOG_EXPIRY (R593). -/
  | wheelWatchdogExpiry (w : Fin 8)
  /-- WHEEL_RESET (R592). -/
  | wheelReset (w : Fin 8)
  /-- WHEEL_RESET_COMPLETE (R592). -/
  | wheelResetComplete (w : Fin 8) (lane dev : BitVec 8)
  /-- CONTROL_CORE_WATCHDOG (R595). -/
  | controlCoreWatchdog (die : Fin 2)
  /-- DIE_RESET (R595). -/
  | dieReset (die : Fin 2)
  /-- TRIER_CTRL_WRITE (R584). -/
  | trierCtrlWrite (word : Word)
  /-- TRIER_DATA_READ (R601). -/
  | trierDataRead
  /-- CUL_CTRL_WRITE (R642). -/
  | culCtrlWrite (word : Word)
  /-- CUL_NODE_WRITE (R641). -/
  | culNodeWrite (word : Word)
  /-- CUL_STATUS_READ (R640). -/
  | culStatusRead
  /-- ENTDAA (R638). -/
  | entdaa (addr : Fin 128) (won : Bool)
  /-- RSTDAA (R638). -/
  | rstdaa
  /-- SETNEWDA (R638). -/
  | setnewda (addr : Fin 128)
  /-- ENEC (R637). -/
  | enec (events : BitVec 8)
  /-- DISEC (R637). -/
  | disec (events : BitVec 8)
  /-- GETPID (R638). -/
  | getpid
  /-- GETBCR (R637). -/
  | getbcr
  /-- GETDCR (R637). -/
  | getdcr
  /-- GETSTATUS (R637). -/
  | getstatus
  /-- SETMWL (R637). -/
  | setmwl (len : BitVec 16)
  /-- GETMWL (R637). -/
  | getmwl
  /-- SETMRL (R637). -/
  | setmrl (len : BitVec 16)
  /-- GETMRL (R637). -/
  | getmrl
  /-- RSTACT (R637). -/
  | rstact (action : BitVec 8)
  /-- PRIVATE_WRITE_SET_ADDRESS (R639). -/
  | privateWriteSetAddress (addr : BitVec 24)
  /-- PRIVATE_WRITE_WORD (R639). -/
  | privateWriteWord (off : BitVec 24) (word : Word)
  /-- PRIVATE_READ (R639). -/
  | privateRead (n : Nat)
  /-- HOT_JOIN (R638). -/
  | hotJoin
  /-- I3C_BUS_FAULT (R643). -/
  | i3cBusFault
  /-- GET_VERSION (R658). -/
  | getVersion (port : Fin 2) (req : List Byte) (late : Bool)
  /-- GET_CAPABILITIES (R659). -/
  | getCapabilities (port : Fin 2) (req : List Byte) (late : Bool)
  /-- NEGOTIATE_ALGORITHMS (R659). -/
  | negotiateAlgorithms (port : Fin 2) (req : List Byte) (late : Bool)
  /-- GET_DIGESTS (R657). -/
  | getDigests (port : Fin 2) (req : List Byte) (late : Bool)
  /-- GET_CERTIFICATE (R657). -/
  | getCertificate (port : Fin 2) (req : List Byte) (late : Bool)
  /-- CHALLENGE (R659). -/
  | challenge (port : Fin 2) (req : List Byte) (late : Bool)
  /-- GET_MEASUREMENTS (R660). -/
  | getMeasurements (port : Fin 2) (req : List Byte) (late : Bool)
  /-- RESPOND_IF_READY (R659). -/
  | respondIfReady (port : Fin 2) (req : List Byte) (late : Bool)
  /-- DOE_DISCOVERY (R658). -/
  | doeDiscovery (port : Fin 2) (index : Byte)
  /-- POWER_SAMPLE (R675). -/
  | powerSample (vin iin die0 die1 mem reg inlet outlet flow : BitVec 16) (rail : Fin 8) (mv da : BitVec 16)
  /-- POWER_INTERVAL (R676). -/
  | powerInterval
  /-- POWER_ALARM (R677). -/
  | powerAlarm
  /-- THERMAL_LIMIT_RECORD (R677). -/
  | thermalLimitRecord
  /-- OVER_TEMPERATURE_SHUTDOWN (R678). -/
  | overTemperatureShutdown
  /-- RAIL_FAULT (R679). -/
  | railFault (rail : Fin 8)
  /-- INPUT_DIP (R673). -/
  | inputDip
  /-- INPUT_SURGE (R673). -/
  | inputSurge
  /-- UNDERVOLTAGE (R673). -/
  | undervoltage
  /-- OVERVOLTAGE (R673). -/
  | overvoltage
  /-- COOLANT_FLOW_LOW (R683). -/
  | coolantFlowLow
  /-- COOLANT_INLET_HOT (R683). -/
  | coolantInletHot
  /-- SENSOR_FAULT (R683). -/
  | sensorFault
  /-- ISLAND_HOLD_LONG (R609). -/
  | islandHoldLong (die : Fin 2) (dom : Fin 256)
  /-- CROSSING_PRESENCE_RESTORE (R618). -/
  | crossingPresenceRestore (die : Fin 2) (dom : Fin 256)
  /-- MEMORY_ACCESS (R551). -/
  | memoryAccess (w : Fin 8) (off : Fin 137438953472) (wr : Bool) (data : BitVec 256) (crc : Fin 6)
  /-- REFRESH (R554). -/
  | refresh (w : Fin 8)
  /-- TEMPERATURE_READ (R554). -/
  | temperatureRead (w : Fin 8) (hot : BitVec 8)
  /-- RETUNE (R554). -/
  | retune (w : Fin 8)
  /-- SCRUB_SECTOR (R558). -/
  | scrubSector (w : Fin 8)
  /-- DISPATCH (R424). -/
  | dispatch (w : Fin 8)
  /-- TOKEN_ARRIVAL (R420). -/
  | tokenArrival (w : Fin 8) (x : Fin 1024) (opid : Fin 16777216) (slot : Fin 16) (iter : Fin 65536)
  /-- OPERAND_STORE_RESUME (R434). -/
  | operandStoreResume (w : Fin 8)
  /-- ENGINE_COMPLETION (R433). -/
  | engineCompletion (w : Fin 8) (cls : Fin 7) (idx : Fin 128)
  /-- LAYER_CLOSURE_REPORT (R461). -/
  | layerClosureReport (w : Fin 8) (x : Fin 1024) (iter layer : Fin 65536)
  /-- LAYER_RELEASE (R432). -/
  | layerRelease (w : Fin 8) (x : Fin 1024) (iter layer : Fin 65536)
  /-- FLOW_SEL_WRITE (R444). -/
  | flowSelWrite (port : Fin 2) (w : Fin 8) (word : Word)
  /-- TRACE_CTRL_WRITE (R444). -/
  | traceCtrlWrite (port : Fin 2) (w : Fin 8) (word : Word)
  /-- HANDLE_PUT (R381). -/
  | handlePut (w : Fin 8) (h : Fin 1024)
  /-- HANDLE_DELIVERED (R382). -/
  | handleDelivered (w : Fin 8) (h : Fin 1024)
  /-- BUFFER_RELEASE (R381). -/
  | bufferRelease (w : Fin 8) (h : Fin 1024)
  /-- FREE_BUFFER_DELIVERED (R382). -/
  | freeBufferDelivered (w : Fin 8) (h : Fin 1024)
  /-- VAT_OPERATION_START (R137). -/
  | vatOperationStart (w : Fin 8) (v : Fin 32)
  /-- VAT_OPERATION_COMPLETE (R153). -/
  | vatOperationComplete (w : Fin 8) (v : Fin 32)
  /-- YIELD_WAIT_EXPIRY (R118). -/
  | yieldWaitExpiry (w : Fin 8) (v : Fin 32)
  /-- PREEMPTION (R122). -/
  | preemption (w : Fin 8) (v : Fin 32)
  /-- SAVE_DONE (R122). -/
  | saveDone (w : Fin 8) (v : Fin 32)
  /-- RESTORE (R124). -/
  | restore (w : Fin 8) (v : Fin 32)
  /-- RING_TRANSFER_ARRIVAL (R114). -/
  | ringTransferArrival (w : Fin 8) (v : Fin 32)
  /-- RING_CREDIT (R114). -/
  | ringCredit (w : Fin 8) (v : Fin 32) (off : Fin 2621440)
  /-- RING_FAULT (R116). -/
  | ringFault (w : Fin 8) (v : Fin 32)
  /-- NOP (R140). -/
  | nop (w : Fin 8) (v : Fin 32) (slot : Fin 4)
  /-- END (R153). -/
  | endOp (w : Fin 8) (v : Fin 32)
  /-- TRAP (R169). -/
  | trap (w : Fin 8) (v : Fin 32) (fa : Fin 32)
  /-- JMP (R153). -/
  | jmp (w : Fin 8) (v : Fin 32) (tgt : Fin 512)
  /-- BNZ (R153). -/
  | bnz (w : Fin 8) (v : Fin 32) (fa : Fin 32) (tgt : Fin 512)
  /-- BZ (R153). -/
  | bz (w : Fin 8) (v : Fin 32) (fa : Fin 32) (tgt : Fin 512)
  /-- LOOP (R153). -/
  | loop (w : Fin 8) (v : Fin 32) (d : Fin 32) (tgt : Fin 512)
  /-- LI (R153). -/
  | li (w : Fin 8) (v : Fin 32) (d : Fin 32) (imm : Word)
  /-- ADD (R153). -/
  | add (w : Fin 8) (v : Fin 32) (d fa fb : Fin 32)
  /-- ADDI (R153). -/
  | addi (w : Fin 8) (v : Fin 32) (d fa : Fin 32) (imm : Word)
  /-- SUB (R153). -/
  | sub (w : Fin 8) (v : Fin 32) (d fa fb : Fin 32)
  /-- MUL (R153). -/
  | mul (w : Fin 8) (v : Fin 32) (d fa fb : Fin 32)
  /-- AND (R153). -/
  | andS (w : Fin 8) (v : Fin 32) (d fa fb : Fin 32)
  /-- OR (R153). -/
  | orS (w : Fin 8) (v : Fin 32) (d fa fb : Fin 32)
  /-- XOR (R153). -/
  | xor (w : Fin 8) (v : Fin 32) (d fa fb : Fin 32)
  /-- SHL (R153). -/
  | shl (w : Fin 8) (v : Fin 32) (d fa fb : Fin 32)
  /-- SHR (R153). -/
  | shr (w : Fin 8) (v : Fin 32) (d fa fb : Fin 32)
  /-- SRA (R153). -/
  | sra (w : Fin 8) (v : Fin 32) (d fa fb : Fin 32)
  /-- MIN (R153). -/
  | min (w : Fin 8) (v : Fin 32) (d fa fb : Fin 32)
  /-- MAX (R153). -/
  | max (w : Fin 8) (v : Fin 32) (d fa fb : Fin 32)
  /-- SLT (R153). -/
  | slt (w : Fin 8) (v : Fin 32) (d fa fb : Fin 32)
  /-- SLTU (R153). -/
  | sltu (w : Fin 8) (v : Fin 32) (d fa fb : Fin 32)
  /-- SEQ (R153). -/
  | seq (w : Fin 8) (v : Fin 32) (d fa fb : Fin 32)
  /-- PAND (R153). -/
  | pand (w : Fin 8) (v : Fin 32) (d fa fb : Fin 8)
  /-- POR (R153). -/
  | por (w : Fin 8) (v : Fin 32) (d fa fb : Fin 8)
  /-- PXOR (R153). -/
  | pxor (w : Fin 8) (v : Fin 32) (d fa fb : Fin 8)
  /-- PNOT (R153). -/
  | pnot (w : Fin 8) (v : Fin 32) (d fa : Fin 8)
  /-- PFIRST (R153). -/
  | pfirst (w : Fin 8) (v : Fin 32) (d : Fin 8) (fa : Fin 32)
  /-- PSET (R153). -/
  | pset (w : Fin 8) (v : Fin 32) (d : Fin 8) (fa fb : Fin 32)
  /-- PCOUNT (R153). -/
  | pcount (w : Fin 8) (v : Fin 32) (d : Fin 32) (fa : Fin 8)
  /-- MCFG (R154). -/
  | mcfg (w : Fin 8) (v : Fin 32) (c : Fin 2) (imm : Word)
  /-- MCLR (R154). -/
  | mclr (w : Fin 8) (v : Fin 32) (c : Fin 2)
  /-- MANC (R155). -/
  | manc (w : Fin 8) (v : Fin 32) (c : Fin 2) (ta tb : Fin 8) (si sj : Fin 32)
  /-- MMA (R156). -/
  | mma (w : Fin 8) (v : Fin 32) (c : Fin 2) (ta tb : Fin 8) (si sj sk sn : Fin 32)
  /-- MCVT (R159). -/
  | mcvt (w : Fin 8) (v : Fin 32) (c : Fin 2) (ty : Byte) (inf : Bool)
  /-- MADDP (R160). -/
  | maddp (w : Fin 8) (v : Fin 32) (c : Fin 2) (ta : Fin 8) (si sj : Fin 32)
  /-- MSEG (R158). -/
  | mseg (w : Fin 8) (v : Fin 32) (c : Fin 2)
  /-- VADD (R61). -/
  | vadd (w : Fin 8) (v : Fin 32) (d fa fb : Fin 32) (pr : Fin 8)
  /-- VSUB (R61). -/
  | vsub (w : Fin 8) (v : Fin 32) (d fa fb : Fin 32) (pr : Fin 8)
  /-- VMUL (R61). -/
  | vmul (w : Fin 8) (v : Fin 32) (d fa fb : Fin 32) (pr : Fin 8)
  /-- VFMA (R61). -/
  | vfma (w : Fin 8) (v : Fin 32) (d fa fb fc : Fin 32) (pr : Fin 8)
  /-- VMIN (R161). -/
  | vmin (w : Fin 8) (v : Fin 32) (d fa fb : Fin 32) (pr : Fin 8)
  /-- VMAX (R161). -/
  | vmax (w : Fin 8) (v : Fin 32) (d fa fb : Fin 32) (pr : Fin 8)
  /-- VABS (R61). -/
  | vabs (w : Fin 8) (v : Fin 32) (d fa : Fin 32) (pr : Fin 8)
  /-- VNEG (R61). -/
  | vneg (w : Fin 8) (v : Fin 32) (d fa : Fin 32) (pr : Fin 8)
  /-- VEXP2 (R64). -/
  | vexp2 (w : Fin 8) (v : Fin 32) (d fa : Fin 32) (pr : Fin 8)
  /-- VLOG2 (R64). -/
  | vlog2 (w : Fin 8) (v : Fin 32) (d fa : Fin 32) (pr : Fin 8)
  /-- VRCP (R64). -/
  | vrcp (w : Fin 8) (v : Fin 32) (d fa : Fin 32) (pr : Fin 8)
  /-- VRSQ (R64). -/
  | vrsq (w : Fin 8) (v : Fin 32) (d fa : Fin 32) (pr : Fin 8)
  /-- VTANH (R64). -/
  | vtanh (w : Fin 8) (v : Fin 32) (d fa : Fin 32) (pr : Fin 8)
  /-- VERF (R64). -/
  | verf (w : Fin 8) (v : Fin 32) (d fa : Fin 32) (pr : Fin 8)
  /-- VCMPLT (R161). -/
  | vcmplt (w : Fin 8) (v : Fin 32) (d : Fin 8) (fa fb : Fin 32) (pr : Fin 8)
  /-- VCMPLE (R161). -/
  | vcmple (w : Fin 8) (v : Fin 32) (d : Fin 8) (fa fb : Fin 32) (pr : Fin 8)
  /-- VCMPEQ (R161). -/
  | vcmpeq (w : Fin 8) (v : Fin 32) (d : Fin 8) (fa fb : Fin 32) (pr : Fin 8)
  /-- VCMPUN (R161). -/
  | vcmpun (w : Fin 8) (v : Fin 32) (d : Fin 8) (fa fb : Fin 32) (pr : Fin 8)
  /-- VIADD (R150). -/
  | viadd (w : Fin 8) (v : Fin 32) (d fa fb : Fin 32) (pr : Fin 8)
  /-- VISUB (R150). -/
  | visub (w : Fin 8) (v : Fin 32) (d fa fb : Fin 32) (pr : Fin 8)
  /-- VIMUL (R150). -/
  | vimul (w : Fin 8) (v : Fin 32) (d fa fb : Fin 32) (pr : Fin 8)
  /-- VAND (R150). -/
  | vand (w : Fin 8) (v : Fin 32) (d fa fb : Fin 32) (pr : Fin 8)
  /-- VOR (R150). -/
  | vor (w : Fin 8) (v : Fin 32) (d fa fb : Fin 32) (pr : Fin 8)
  /-- VXOR (R150). -/
  | vxor (w : Fin 8) (v : Fin 32) (d fa fb : Fin 32) (pr : Fin 8)
  /-- VSHL (R150). -/
  | vshl (w : Fin 8) (v : Fin 32) (d fa : Fin 32) (imm : Fin 32) (pr : Fin 8)
  /-- VSHR (R150). -/
  | vshr (w : Fin 8) (v : Fin 32) (d fa : Fin 32) (imm : Fin 32) (pr : Fin 8)
  /-- VSRA (R150). -/
  | vsra (w : Fin 8) (v : Fin 32) (d fa : Fin 32) (imm : Fin 32) (pr : Fin 8)
  /-- VIMIN (R150). -/
  | vimin (w : Fin 8) (v : Fin 32) (d fa fb : Fin 32) (pr : Fin 8)
  /-- VIMAX (R150). -/
  | vimax (w : Fin 8) (v : Fin 32) (d fa fb : Fin 32) (pr : Fin 8)
  /-- VICMPLT (R161). -/
  | vicmplt (w : Fin 8) (v : Fin 32) (d : Fin 8) (fa fb : Fin 32) (pr : Fin 8)
  /-- VCVT (R162). -/
  | vcvt (w : Fin 8) (v : Fin 32) (d fa : Fin 32) (src dst : Byte) (inf : Bool) (pr : Fin 8)
  /-- VMXQ (R163). -/
  | vmxq (w : Fin 8) (v : Fin 32) (d fa : Fin 32) (ty : Byte) (pr : Fin 8)
  /-- VMXD (R163). -/
  | vmxd (w : Fin 8) (v : Fin 32) (d fa : Fin 32) (ty : Byte) (pr : Fin 8)
  /-- VBCAST (R150). -/
  | vbcast (w : Fin 8) (v : Fin 32) (d fa : Fin 32) (pr : Fin 8)
  /-- VSEL (R150). -/
  | vsel (w : Fin 8) (v : Fin 32) (d fa fb : Fin 32) (pr : Fin 8)
  /-- VRSUM (R164). -/
  | vrsum (w : Fin 8) (v : Fin 32) (d fa : Fin 32) (pr : Fin 8)
  /-- VRMAX (R164). -/
  | vrmax (w : Fin 8) (v : Fin 32) (d fa : Fin 32) (pr : Fin 8)
  /-- VLANE (R150). -/
  | vlane (w : Fin 8) (v : Fin 32) (d : Fin 32) (pr : Fin 8)
  /-- VLD (R165). -/
  | vld (w : Fin 8) (v : Fin 32) (d : Fin 32) (fa : Fin 16) (imm : Word)
  /-- VST (R165). -/
  | vst (w : Fin 8) (v : Fin 32) (fa : Fin 16) (fb : Fin 32) (imm : Word) (pr : Fin 8)
  /-- VLDXB (R165). -/
  | vldxb (w : Fin 8) (v : Fin 32) (d : Fin 32) (fa : Fin 16) (fc : Fin 32) (imm : Word)
  /-- VLDXE (R165). -/
  | vldxe (w : Fin 8) (v : Fin 32) (d : Fin 32) (fa fb : Fin 16) (imm : Word)
  /-- VXLD (R165). -/
  | vxld (w : Fin 8) (v : Fin 32) (d fa : Fin 32)
  /-- STOV (R150). -/
  | stov (w : Fin 8) (v : Fin 32) (d fa : Fin 32) (lane : Fin 64)
  /-- VTOS (R150). -/
  | vtos (w : Fin 8) (v : Fin 32) (d fa : Fin 32) (lane : Fin 64)
  /-- AADD (R150). -/
  | aadd (w : Fin 8) (v : Fin 32) (d fa : Fin 16) (imm : Word)
  /-- AADDS (R150). -/
  | aadds (w : Fin 8) (v : Fin 32) (d fa : Fin 16) (fb : Fin 32)
  /-- AMOV (R150). -/
  | amov (w : Fin 8) (v : Fin 32) (d : Fin 16) (fa fb : Fin 32)
  /-- ATOS (R150). -/
  | atos (w : Fin 8) (v : Fin 32) (d : Fin 32) (fa : Fin 16)
  /-- MSTO (R166). -/
  | msto (w : Fin 8) (v : Fin 32) (t : Fin 8) (si sj : Fin 32)
  /-- MSTP (R166). -/
  | mstp (w : Fin 8) (v : Fin 32) (t : Fin 8) (c : Fin 2) (si sj : Fin 32)
  /-- HTAKE (R168). -/
  | htake (w : Fin 8) (v : Fin 32) (d : Fin 16) (fb : Fin 32) (q : Fin 4)
  /-- HREL (R168). -/
  | hrel (w : Fin 8) (v : Fin 32) (q : Fin 4)
  /-- HGET (R168). -/
  | hget (w : Fin 8) (v : Fin 32) (d : Fin 16) (q : Fin 4)
  /-- HPUT (R168). -/
  | hput (w : Fin 8) (v : Fin 32) (fb : Fin 32) (q : Fin 4)
  /-- RSEND (R167). -/
  | rsend (w : Fin 8) (v : Fin 32) (fa : Fin 16) (fb : Fin 32) (fc : Fin 16)
  /-- CURD (R174). -/
  | curd (w : Fin 8) (p : Fin 12) (hold : Bool)
  /-- PRED_NOP (R200). -/
  | predNop (w : Fin 8) (p : Fin 12) (d a b : Fin 16) (k : Bool) (imm : Word)
  /-- LDC (R203). -/
  | ldc (w : Fin 8) (p : Fin 12) (d a b : Fin 16) (k : Bool) (imm : Word)
  /-- LDK (R200). -/
  | ldk (w : Fin 8) (p : Fin 12) (d a b : Fin 16) (k : Bool) (imm : Word)
  /-- LDNULL (R200). -/
  | ldnull (w : Fin 8) (p : Fin 12) (d a b : Fin 16) (k : Bool) (imm : Word)
  /-- MOV (R200). -/
  | mov (w : Fin 8) (p : Fin 12) (d a b : Fin 16) (k : Bool) (imm : Word)
  /-- PRED_ADD (R200). -/
  | predAdd (w : Fin 8) (p : Fin 12) (d a b : Fin 16) (k : Bool) (imm : Word)
  /-- PRED_SUB (R200). -/
  | predSub (w : Fin 8) (p : Fin 12) (d a b : Fin 16) (k : Bool) (imm : Word)
  /-- PRED_MUL (R200). -/
  | predMul (w : Fin 8) (p : Fin 12) (d a b : Fin 16) (k : Bool) (imm : Word)
  /-- BAND (R200). -/
  | band (w : Fin 8) (p : Fin 12) (d a b : Fin 16) (k : Bool) (imm : Word)
  /-- BOR (R200). -/
  | bor (w : Fin 8) (p : Fin 12) (d a b : Fin 16) (k : Bool) (imm : Word)
  /-- BXOR (R200). -/
  | bxor (w : Fin 8) (p : Fin 12) (d a b : Fin 16) (k : Bool) (imm : Word)
  /-- PRED_SHR (R200). -/
  | predShr (w : Fin 8) (p : Fin 12) (d a b : Fin 16) (k : Bool) (imm : Word)
  /-- PRED_SHL (R200). -/
  | predShl (w : Fin 8) (p : Fin 12) (d a b : Fin 16) (k : Bool) (imm : Word)
  /-- FADD (R200). -/
  | fadd (w : Fin 8) (p : Fin 12) (d a b : Fin 16) (k : Bool) (imm : Word)
  /-- FSUB (R200). -/
  | fsub (w : Fin 8) (p : Fin 12) (d a b : Fin 16) (k : Bool) (imm : Word)
  /-- FMUL (R200). -/
  | fmul (w : Fin 8) (p : Fin 12) (d a b : Fin 16) (k : Bool) (imm : Word)
  /-- ITOF (R200). -/
  | itof (w : Fin 8) (p : Fin 12) (d a b : Fin 16) (k : Bool) (imm : Word)
  /-- FABS (R200). -/
  | fabs (w : Fin 8) (p : Fin 12) (d a b : Fin 16) (k : Bool) (imm : Word)
  /-- EQ (R200). -/
  | eq (w : Fin 8) (p : Fin 12) (d a b : Fin 16) (k : Bool) (imm : Word)
  /-- NE (R200). -/
  | ne (w : Fin 8) (p : Fin 12) (d a b : Fin 16) (k : Bool) (imm : Word)
  /-- LT (R200). -/
  | lt (w : Fin 8) (p : Fin 12) (d a b : Fin 16) (k : Bool) (imm : Word)
  /-- LE (R200). -/
  | le (w : Fin 8) (p : Fin 12) (d a b : Fin 16) (k : Bool) (imm : Word)
  /-- GT (R200). -/
  | gt (w : Fin 8) (p : Fin 12) (d a b : Fin 16) (k : Bool) (imm : Word)
  /-- GE (R200). -/
  | ge (w : Fin 8) (p : Fin 12) (d a b : Fin 16) (k : Bool) (imm : Word)
  /-- LTU (R200). -/
  | ltu (w : Fin 8) (p : Fin 12) (d a b : Fin 16) (k : Bool) (imm : Word)
  /-- LEU (R200). -/
  | leu (w : Fin 8) (p : Fin 12) (d a b : Fin 16) (k : Bool) (imm : Word)
  /-- FEQ (R202). -/
  | feq (w : Fin 8) (p : Fin 12) (d a b : Fin 16) (k : Bool) (imm : Word)
  /-- FNE (R202). -/
  | fne (w : Fin 8) (p : Fin 12) (d a b : Fin 16) (k : Bool) (imm : Word)
  /-- FLT (R202). -/
  | flt (w : Fin 8) (p : Fin 12) (d a b : Fin 16) (k : Bool) (imm : Word)
  /-- FLE (R202). -/
  | fle (w : Fin 8) (p : Fin 12) (d a b : Fin 16) (k : Bool) (imm : Word)
  /-- FGT (R202). -/
  | fgt (w : Fin 8) (p : Fin 12) (d a b : Fin 16) (k : Bool) (imm : Word)
  /-- FGE (R202). -/
  | fge (w : Fin 8) (p : Fin 12) (d a b : Fin 16) (k : Bool) (imm : Word)
  /-- LAND (R201). -/
  | land (w : Fin 8) (p : Fin 12) (d a b : Fin 16) (k : Bool) (imm : Word)
  /-- LOR (R201). -/
  | lor (w : Fin 8) (p : Fin 12) (d a b : Fin 16) (k : Bool) (imm : Word)
  /-- LNOT (R201). -/
  | lnot (w : Fin 8) (p : Fin 12) (d a b : Fin 16) (k : Bool) (imm : Word)
  /-- ISNULL (R200). -/
  | isnull (w : Fin 8) (p : Fin 12) (d a b : Fin 16) (k : Bool) (imm : Word)
  /-- ISNOTNULL (R200). -/
  | isnotnull (w : Fin 8) (p : Fin 12) (d a b : Fin 16) (k : Bool) (imm : Word)
  /-- ISTRUE (R200). -/
  | istrue (w : Fin 8) (p : Fin 12) (d a b : Fin 16) (k : Bool) (imm : Word)
  /-- STREQ (R200). -/
  | streq (w : Fin 8) (p : Fin 12) (d a b : Fin 16) (k : Bool) (imm : Word)
  /-- STRPFX (R200). -/
  | strpfx (w : Fin 8) (p : Fin 12) (d a b : Fin 16) (k : Bool) (imm : Word)
  /-- BETWEEN (R200). -/
  | between (w : Fin 8) (p : Fin 12) (d a b : Fin 16) (k : Bool) (imm : Word)
  /-- FBETWEEN (R200). -/
  | fbetween (w : Fin 8) (p : Fin 12) (d a b : Fin 16) (k : Bool) (imm : Word)
  /-- PRESS_CANCEL (R212). -/
  | pressCancel (w : Fin 8) (p : Fin 12)
  /-- FEATURE (R235). -/
  | feature (w : Fin 8) (p : Fin 12)
  /-- BUILD (R253). -/
  | build (w : Fin 8) (p : Fin 12)
  /-- PROBE (R255). -/
  | probe (w : Fin 8) (p : Fin 12)
  /-- PARTITION (R258). -/
  | partition (w : Fin 8) (p : Fin 12)
  /-- AGG (R259). -/
  | agg (w : Fin 8) (p : Fin 12)
  /-- AGG_EMIT (R262). -/
  | aggEmit (w : Fin 8) (p : Fin 12)
  /-- HLL (R263). -/
  | hll (w : Fin 8) (p : Fin 12)
  /-- POOL (R310). -/
  | pool (w : Fin 8) (l : Fin 8)
  /-- UPDATE (R330). -/
  | update (w : Fin 8) (l : Fin 8)
  /-- NORMS (R331). -/
  | norms (w : Fin 8) (l : Fin 8)
  /-- REPLACE (R321). -/
  | replace (w : Fin 8) (l : Fin 8)
  /-- ROW_RETRY_WAIT_EXPIRY (R317). -/
  | rowRetryWaitExpiry (w : Fin 8) (l : Fin 8)
  /-- COPY_INVALIDATION (R334). -/
  | copyInvalidation (w : Fin 8) (l : Fin 8)
  /-- LADLE_CANCEL (R322). -/
  | ladleCancel (w : Fin 8) (l : Fin 8)
  /-- MIGRATION_PERIOD (R324). -/
  | migrationPeriod (die : Fin 2) (base : Fin 1099511627776) (size : Fin 137438953472)
  /-- LDL_SAMPLE_READ (R345). -/
  | ldlSampleRead (w : Fin 8)
  /-- SORT (R357). -/
  | sort (w : Fin 8) (g : Fin 4)
  /-- SELECT (R358). -/
  | select (w : Fin 8) (g : Fin 4)
  /-- MERGE (R361). -/
  | merge (w : Fin 8) (g : Fin 4)
  /-- GRADER_CANCEL (R369). -/
  | graderCancel (w : Fin 8) (g : Fin 4)
  /-- STREAM_ARM (R387). -/
  | streamArm (w : Fin 8) (c : Fin 128)
  /-- STREAM_DATA_RETURN (R393). -/
  | streamDataReturn (w : Fin 8) (c : Fin 128)
  /-- PAGE_WALK_COMPLETE (R399). -/
  | pageWalkComplete (w : Fin 8) (c : Fin 128)
  /-- CH_CTRL_RESUME (R402). -/
  | chCtrlResume (port : Fin 2) (w : Fin 8) (c : Fin 128) (ctx : Fin 1024)
  /-- CH_CTRL_ABORT (R402). -/
  | chCtrlAbort (port : Fin 2) (w : Fin 8) (c : Fin 128) (ctx : Fin 1024)
  /-- ATS_TRANSLATION_COMPLETION (R400). -/
  | atsTranslationCompletion (w : Fin 8) (c : Fin 128) (ok : Bool) (addr : Fin 144115188075855872) (log2 : Fin 64) (rd wr : Bool)
  /-- PRG_RESPONSE (R400). -/
  | prgResponse (w : Fin 8) (c : Fin 128) (code : Fin 16)
  /-- ATS_INVALIDATE_REQUEST (R400). -/
  | atsInvalidateRequest (port : Fin 2) (base size : Fin 18446744073709551616) (tag : Fin 32)
  /-- STREAM_CANCEL (R404). -/
  | streamCancel (w : Fin 8) (c : Fin 128)
  /-- STREAM_COMPLETE (R388). -/
  | streamComplete (w : Fin 8) (c : Fin 128)
  /-- DRIP_OPERATION (R396). -/
  | dripOperation (w : Fin 8) (ok : Bool) (hpa : Fin 144115188075855872)
  /-- DRIP_CREDIT_MESSAGE (R394). -/
  | dripCreditMessage (w : Fin 8)
  /-- DRIP_PUT_MESSAGE (R394). -/
  | dripPutMessage (w : Fin 8)
  /-- MOULD_SEARCH (R280). -/
  | mouldSearch (w : Fin 8) (share : Fin 5) (ctx : Fin 1024) (key : BitVec 128)
  /-- MOULD_UPDATE (R285). -/
  | mouldUpdate (w : Fin 8)
  /-- MOULD_SWEEP (R288). -/
  | mouldSweep (w : Fin 8)
  /-- MOULD_SCRUB (R284). -/
  | mouldScrub (w : Fin 8)
  /-- LINK_RETRY (R471). -/
  | linkRetry (e : Fin 8) (ok fault : Bool)
  /-- LINK_DOWN (R471). -/
  | linkDown (e : Fin 8)
  /-- NEIGHBOR_REFRESH (R473). -/
  | neighborRefresh (e : Fin 8)
  /-- ARP_REQUEST (R474). -/
  | arpRequest (e : Fin 8) (target sender : BitVec 32)
  /-- NEIGHBOR_SOLICITATION (R474). -/
  | neighborSolicitation (e : Fin 8) (target sender : BitVec 128)
  /-- ECHO_REQUEST (R474). -/
  | echoRequest (e : Fin 8) (v6 : Bool) (target : BitVec 128) (data : List Byte)
  /-- PAUSE (R472). -/
  | pause (e : Fin 8)
  /-- FOREIGN_FRAME (R474). -/
  | foreignFrame (e : Fin 8)
  /-- SYNC (R484). -/
  | sync (e : Fin 8) (off : BitVec 64) (two : Bool) (time : DWord)
  /-- SYNC_TIMEOUT (R484). -/
  | syncTimeout (e : Fin 8)
  /-- HOLDOVER_EXPIRY (R484). -/
  | holdoverExpiry (e : Fin 8)
  /-- ANNOUNCE_RECEIPT_TIMEOUT (R482). -/
  | announceReceiptTimeout (e : Fin 8)
  /-- TRANSMIT_WINDOW (R491). -/
  | transmitWindow (e : Fin 8) (x : Fin 1024) (k : Fin 16384)
  /-- SLACK (R491). -/
  | slack (e : Fin 8)
  /-- RETRANSMIT_TIMEOUT (R493). -/
  | retransmitTimeout (e : Fin 8) (x : Fin 1024) (flow : Fin 16384)
  /-- DATA (R495). -/
  | data (e : Fin 8) (hdr : BitVec 256) (data : List Byte) (good : Bool)
  /-- ACK (R492). -/
  | ack (e : Fin 8) (hdr : BitVec 256) (data : List Byte) (good : Bool)
  /-- NACK (R491). -/
  | nack (e : Fin 8) (hdr : BitVec 256) (data : List Byte) (good : Bool)
  /-- NOTICE (R501). -/
  | notice (e : Fin 8) (hdr : BitVec 256) (data : List Byte) (good : Bool)
  /-- NOTICE_ACK (R501). -/
  | noticeAck (e : Fin 8) (hdr : BitVec 256) (data : List Byte) (good : Bool)
  /-- STATUS (R492). -/
  | status (e : Fin 8) (hdr : BitVec 256) (data : List Byte) (good : Bool)
  /-- CTRL (R505). -/
  | ctrl (e : Fin 8) (hdr : BitVec 256) (data : List Byte) (good : Bool)
  /-- CTRL_ACK (R505). -/
  | ctrlAck (e : Fin 8) (hdr : BitVec 256) (data : List Byte) (good : Bool)
  /-- WINDOW_DEADLINE (R498). -/
  | windowDeadline (e : Fin 8) (w : Fin 8) (x : Fin 1024) (flow : Fin 16384) (node : Fin 4096)
  /-- ACK_CREDIT_TIMER (R498). -/
  | ackCreditTimer (e : Fin 8) (w : Fin 8) (x : Fin 1024) (flow : Fin 16384) (node : Fin 4096)
  /-- NOTICE_REPEAT (R501). -/
  | noticeRepeat (e : Fin 8) (x : Fin 1024) (node : Fin 4096) (num : Word)
  /-- CTRL_REPEAT (R505). -/
  | ctrlRepeat (e : Fin 8) (node : Fin 4096) (num : Word) (data : List Byte)
  /-- LATE_TRANSFER (R500). -/
  | lateTransfer (e : Fin 8) (w : Fin 8) (x : Fin 1024) (flow : Fin 16384) (node : Fin 4096)
  /-- ANNOUNCE (R482). -/
  | announce (e : Fin 8)
  /-- FOLLOW_UP (R482). -/
  | followUp (e : Fin 8) (off : BitVec 64)
  /-- DELAY_RESP (R484). -/
  | delayResp (e : Fin 8) (off : BitVec 64)
  /-- ARP_REPLY (R473). -/
  | arpReply (e : Fin 8) (a : BitVec 32) (mac : BitVec 48)
  /-- NEIGHBOR_ADVERTISEMENT (R473). -/
  | neighborAdvertisement (e : Fin 8) (a : BitVec 128) (mac : BitVec 48)
  /-- COMPLETION_TIMEOUT (R400). -/
  | completionTimeout (port : Fin 2) (strm : Bool) (a : Fin 1024) (b : Nat)
  /-- PERST_ASSERT (R644). -/
  | perstAssert (port : Fin 2)
  /-- PCIE_LINK_UP (R539). -/
  | pcieLinkUp (port : Fin 2)
  /-- SUPPLY_DROOP (R606). -/
  | supplyDroop (die : Fin 2) (dom : Fin 256) (need : Nat)
  /-- DROOP_RECOVERY (R606). -/
  | droopRecovery (die : Fin 2) (dom : Fin 256) (need : Nat)
  /-- ALERT_PIN_FAULT (R643). -/
  | alertPinFault
  /-- SHUTDOWN_HOLD_RELEASE (R680). -/
  | shutdownHoldRelease
  /-- AUXILIARY_INPUT_LOSS (R680). -/
  | auxiliaryInputLoss
  /-- MSIX_UNMASK (R536). -/
  | msixUnmask (port : Fin 2) (v : Fin 2048)
  /-- LOW_WORD_READ (R128): a read at an address, of one word or, with the Bool, of 64 bits. -/
  | lowWordRead (port : Fin 2) (addr : Nat × Bool)
  deriving DecidableEq, Repr

end Sys2Proof
end

