-- ==== Sys2Proof/Config.lean ====
section
/-!
DEFINITION. Sys2Proof/Config.lean: what the spec leaves open. Each constant has no body that a proof can see: a statement
about the model holds whatever their values are.
-/

namespace Sys2Proof.Config

/-- A fresh open value: the argument is the state's counter of the free values used so far. -/
opaque free : Nat → BitVec 64

/-- The bucket of BWIDTH where the quotient of R238 is NaN or its floor lies outside the 32-bit range: of the value, lo
and width (R236 gives no constraint on width). -/
opaque bucket : Nat → Nat → Nat → BitVec 32

/-- ROW_BASE in the headers that AGG_EMIT writes (R229, R262): of the first line emitted. -/
opaque emitBase : Nat → BitVec 64

/-- A byte that data read from a dictionary region or a table gives where another press writes it meanwhile (R213, R257):
of the operation's open number and the byte's place. -/
opaque torn : Nat → Nat → BitVec 8

/-- The form of a selection vector that reads as a bitmap and as an index list alike (R206, R228): of its rows and its
selected count; 1 is the bitmap. -/
opaque selForm : Nat → Nat → BitVec 1

/-- ROW_BASE in the error header of an operator whose input headers did not arrive (R194, R266). -/
opaque lostBase : BitVec 64

/-- The code of an element whose row has SCALE 0 after rounding while its values differ (R332 divides by SCALE there):
of the element, OFFSET and the format. -/
opaque rowCode : Nat → Nat → Nat → BitVec 8

/-- The code of a SORT or SELECT whose KEYS input ends before NIN keys: R370 lists none for it. -/
opaque shortKeys : Nat

/-- The face of the device that holds a sector, which no rule maps (R550): of the sector's device physical address. -/
opaque memFace : Nat → BitVec 1

/-- A word of a trier slot behind the end of its sample (R583): of the sample's seed and the word's number. -/
opaque trierWord : Nat → Nat → BitVec 64

/-- The length in 8-byte words of a section whose entries R586 does not size: of its TYPE and its entries' fields. -/
opaque sectionWords : Nat → List (List Nat) → Nat

/-- A word of a section of a trier sample: R586 names the fields of an entry, and not their places. Of the section's TYPE, its
entries' fields, and the word's number. -/
opaque sectionWord : Nat → List (List Nat) → Nat → BitVec 64

/-- The public keys in the boot ROM (R652), as little-endian numbers of their 133 bytes: 0 to 3 Umlia firmware, 4 Umlia
culture, 5 and 6 Umlia authorisation. -/
opaque romKey : Nat → BitVec 1064

/-- SHA-512 of the boot ROM (R660), as a little-endian number of its 64 bytes. -/
opaque romDigest : BitVec 512

/-- A signature made with the Alias key (R656): of whether the device secret is destroyed, the firmware's digest, the
message, and a number that makes it fresh; as a little-endian number of its 132 bytes. -/
opaque aliasSign : Bool → List Byte → List Byte → Nat → BitVec 1056

/-- The certificates of slot 0 after its root hash (R657): of whether the secret is destroyed, the serial number, the
ordering code, and the digests of measurement indices 2 and 3. -/
opaque certificates : Bool → Nat → Bool → List Byte → List Byte → List Byte

/-- SHA-512 of Umlia's root certificate, which the module does not hold (R657). -/
opaque rootHash : BitVec 512

end Sys2Proof.Config
end

