-- ==== Sys2Proof/Machine/Bits.lean ====
section
/-!
DEFINITION. Sys2Proof/Machine/Bits.lean: bit fields, two's complement and byte order (R3), and the small sequences the
other files use. Everything here is on plain numbers and lists.
-/

namespace Sys2Proof.Machine

/-- Bits [hi:lo] of a number, both ends included (R3). -/
def bits (x hi lo : Nat) : Nat := x / 2 ^ lo % 2 ^ (hi + 1 - lo)

/-- Bit k of a number. -/
def bitAt (x k : Nat) : Bool := x / 2 ^ k % 2 == 1

/-- A Bool as a one-bit number. -/
def b2n (b : Bool) : Nat := if b then 1 else 0

/-- The two's complement value of the low `n` bits of a number. -/
def sext (n x : Nat) : Int :=
  let y := x % 2 ^ n
  if y < 2 ^ (n - 1) then (y : Int) else (y : Int) - (2 ^ n : Nat)

/-- The low `n` bits of an integer, as a number. -/
def wrapInt (n : Nat) (x : Int) : Nat := (x % ((2 ^ n : Nat) : Int)).toNat

/-- The number held by bytes, the first byte least significant (R3). -/
def leNat : List Byte → Nat
  | [] => 0
  | b :: r => b.toNat + 256 * leNat r

/-- `n` bytes of a number, the least significant first (R3). -/
def leBytes : Nat → Nat → List Byte
  | 0, _ => []
  | n + 1, x => BitVec.ofNat 8 x :: leBytes n (x / 256)

/-- The little-endian number in `n` bytes at offset `o` of a byte string. -/
def leAt (bs : List Byte) (o n : Nat) : Nat := leNat ((bs.drop o).take n)

/-- The numbers below `n`, rising. -/
def upto (n : Nat) : List Nat := List.range n

/-- `xs` with its element `i` replaced; `xs` itself where `i` is out of range. -/
def putAt {α : Type} (xs : List α) (i : Nat) (x : α) : List α :=
  match xs, i with
  | [], _ => []
  | _ :: r, 0 => x :: r
  | y :: r, i + 1 => y :: putAt r i x

/-- Element `i`, or `d` where the list is shorter. -/
def nth {α : Type} (d : α) (xs : List α) (i : Nat) : α := (xs[i]?).getD d

/-- The first `n` elements, padded with `d`. -/
def takePad {α : Type} (d : α) : Nat → List α → List α
  | 0, _ => []
  | n + 1, [] => d :: takePad d n []
  | n + 1, x :: r => x :: takePad d n r

/-- Split a list in chunks of `n` (the last may be shorter); at most `fuel` chunks. -/
def chunksOf {α : Type} (n : Nat) : Nat → List α → List (List α)
  | 0, _ => []
  | _, [] => []
  | fuel + 1, xs => xs.take n :: chunksOf n fuel (xs.drop n)

/-- Ceiling division. -/
def cdiv (a b : Nat) : Nat := (a + b - 1) / b

/-- A number rounded up to a multiple of `k`. -/
def alignUp (a k : Nat) : Nat := cdiv a k * k

/-- The floor of the square root, by bits from `k` down (the root must be below 2^(k+1)). -/
def isqrtFrom (n : Nat) : Nat → Nat → Nat
  | 0, r => if (r + 1) * (r + 1) ≤ n then r + 1 else r
  | k + 1, r =>
    let c := r + 2 ^ (k + 1)
    isqrtFrom n k (if c * c ≤ n then c else r)

/-- The floor of the square root of a number. -/
def isqrt (n : Nat) : Nat := isqrtFrom n (Nat.log2 n / 2 + 1) 0

/-- Floor of `n / d` for integers with a positive natural denominator. -/
def floorDiv (n : Int) (d : Nat) : Int := n.fdiv (d : Int)

/-- `num / den` rounded to the nearest integer, ties to even. -/
def rneNat (num den : Nat) : Nat :=
  let q := num / den
  let r := num % den
  if 2 * r < den then q
  else if den < 2 * r then q + 1
  else if q % 2 = 0 then q else q + 1

/-- `num / den` rounded to the nearest integer, ties to even, for a signed numerator. -/
def rneInt (num : Int) (den : Nat) : Int :=
  if num < 0 then - (rneNat num.natAbs den : Int) else (rneNat num.natAbs den : Int)

/-- Insert a value in a rising list of numbers without repeats. -/
def insertNat (x : Nat) : List Nat → List Nat
  | [] => [x]
  | y :: r => if x < y then x :: y :: r else if x = y then y :: r else y :: insertNat x r

/-- A stable insertion sort by a "comes strictly before" relation. -/
def insertBy {α : Type} (before : α → α → Bool) (x : α) : List α → List α
  | [] => [x]
  | y :: r => if before x y then x :: y :: r else y :: insertBy before x r

/-- The list in rising order of `before`; equal elements keep their order. -/
def sortBy {α : Type} (before : α → α → Bool) (xs : List α) : List α :=
  xs.foldl (fun acc x => insertBy before x acc) []

end Sys2Proof.Machine
end

