-- ==== Sys2Proof/Machine/State.lean ====
section
/-!
DEFINITION. Sys2Proof/Machine/State.lean: the state of the module as plain data, the fault and refusal reasons, and the
state after reset. Tables are lists of (key, value) pairs with rising keys in which an unlisted key reads as the table's
default (Machine/Ops.lean); memories are lists of Host.Cell of the same form. Registers of one block are a table from
byte offset to value; a register that only shows other state is computed when it is read (Machine/Regs.lean).
-/

namespace Sys2Proof.Machine

open Sys2Proof

/-- Why the block stops. -/
inductive Fault where
  /-- Raised by `exec` for a command whose operands are ill-formed (Sys2Proof/WellFormed.lean): a data length outside
  what the command can carry. No such command exists on the hardware's interfaces. Safe. -/
  | malformed
  deriving DecidableEq, Repr

/-- Why a command has no meaning. -/
inductive Refusal where
  /-- Raised only by an arm of Machine/Dispatch.lean whose command has no meaning yet. Safe. -/
  | notModelled (mnemonic : String)
  deriving DecidableEq, Repr

/-- The registers of one block: byte offset, value. -/
abbrev Regs := List (Nat × DWord)

/-- An engine unit of a wheel: its class code (R418) and its number. -/
structure UnitId where
  cls : Nat
  idx : Nat
  deriving DecidableEq, Repr

/-- An instance in service: context, OPID, ITER (R413), physical flow, priority, layer, and the dispatch it runs under. -/
structure OpRef where
  ctx : Nat
  opid : Nat
  iter : Nat
  flow : Nat
  prio : Nat
  layer : Nat
  disp : Nat
  deriving DecidableEq, Repr

/-- A buffer handle (R380). -/
structure Handle where
  err : Bool
  last : Bool
  hoop : Nat
  len : Nat
  addr : Nat
  deriving DecidableEq, Repr

/-- A hoop and its pool (R378, R381): the handles queued, the free buffers in the order they were released, the puts not
yet acknowledged (R383) and the releases under way, the bound producer and consumer, the owning context, the waiting
take and obtain; and the two crossing counts of the pool's credits, which wrap modulo 2^16: buffers released, and buffers
obtained by the producer (R613, R5). -/
structure Hoop where
  owner : Option Nat := none
  pool : Nat := 0
  stride : Nat := 0
  units : Nat := 0
  nbuf : Nat := 0
  q : List Handle := []
  free : List Nat := []
  puts : List (UnitId × Handle) := []
  rels : List Nat := []
  prod : Option UnitId := none
  cons : Option UnitId := none
  credits : List Nat := []
  relCnt : BitVec 16 := 0
  obtCnt : BitVec 16 := 0
  deriving DecidableEq, Repr

/-- How a unit's operation ended: the code, the bundle index or column, and the trap value or page ordinal. -/
structure Ended where
  code : Nat
  place : Nat
  value : Nat
  deriving DecidableEq, Repr

/-! ## Vats (R103, R137–R148, R168) -/

/-- One output of a tile: its 96-bit entry (R106, R107), its flags and its anchor, absent or present (R147). -/
structure TileOut where
  w : BitVec 96 := 0
  flags : BitVec 4 := 0
  anchor : Option Int := none
  deriving DecidableEq, Repr

/-- The operands captured by a tile's last MANC (R172): descriptor slots and origins. -/
structure MancOps where
  ta : Nat
  tb : Nat
  i0 : Nat
  j0 : Nat
  deriving DecidableEq, Repr

/-- An accumulator tile (R146, R147): `outs` holds the entries that differ from the cleared one; `parityBad` lists the
outputs whose entry fails its parity bit (R136). -/
structure Tile where
  cfg : Word := 0
  outs : List (Nat × TileOut) := []
  anchored : Bool := false
  count : Nat := 0
  nextk : Nat := 0
  short : Bool := false
  manc : Option MancOps := none
  parityBad : List Nat := []
  deriving DecidableEq, Repr

/-- The staging buffer (R148): the output type and shape, and its bytes. -/
structure Staging where
  ty : Nat
  shape : Nat
  tile : Nat
  inf : Bool
  bytes : List Byte
  deriving DecidableEq, Repr

/-- A hoop port of a vat operation (R137, R168): the hoop, none when unbound, the handles taken and not released, the
buffers obtained and not put, and the counts. -/
structure VPort where
  hoop : Option Nat := none
  taken : List Handle := []
  got : List Nat := []
  deriving DecidableEq, Repr

/-- The program-visible registers of a vat (Registers and state of chapter 5). -/
structure VatProg where
  s : List (Nat × Word) := []
  a : List (Nat × DWord) := []
  v : List (Nat × Word) := []
  p : List (Nat × DWord) := []
  c0 : Tile := {}
  c1 : Tile := {}
  staging : Option Staging := none
  t : List (Nat × List Byte) := []
  inP : List (Nat × VPort) := []
  outP : List (Nat × VPort) := []
  pc : Nat := 0
  deriving DecidableEq, Repr

/-- A bundle in issue: the registers as they were in its issue clock (R150), the slots that have taken effect, the next
bundle, whether the bundle holds END, the value of its TRAP, and the reduction indices that its MMA has applied before a
pre-emption stopped it part-way (R157). -/
structure Issue where
  snap : VatProg
  done : List Nat := []
  next : Nat
  ending : Bool := false
  trap : Option Nat := none
  mma : Nat := 0
  deriving DecidableEq, Repr

/-- A wait of the move slot: an HTAKE on an empty hoop or an HGET without a free buffer (R168), with the registers it
will write. -/
structure VWait where
  take : Bool
  port : Nat
  d : Nat
  fb : Nat
  deriving DecidableEq, Repr

inductive VatSt where
  | idle | run | handleWait | save | restore | fenced | outOfService
  deriving DecidableEq, Repr

/-- A ring transfer under way (R113, R167), with the operation whose RSEND started it and the index of that bundle
(R116, R169). -/
structure RingOut where
  src : Nat
  dst : Nat
  len : Nat
  op : Option OpRef
  pc : Nat
  deriving DecidableEq, Repr

/-- A slice buffer of this bank that its vat has not released (R114): the ring-in port writes no other slice into it. The
transfer's bytes arrived, or it was cut off (`failed`, R116). `sent`: the operation that sends it on, until it finishes; `used`: an
operation that read or sent it has finished. -/
structure Slice where
  dst : Nat
  len : Nat
  failed : Bool := false
  sent : Option OpRef := none
  used : Bool := false
  deriving DecidableEq, Repr

/-- A saved operation (R122, R123, R172): the slot's operation, registers and issue state as the vat restores them, the
Cave address of its record, and how it ends when its ring transfer failed (R116) or it was cancelled (R125) meanwhile. -/
structure SavedOp where
  op : OpRef
  prog : VatProg
  issue : Option Issue
  wait : Option VWait
  yielded : Bool
  irrev : Bool
  record : Nat
  fault : Option Ended := none
  deriving DecidableEq, Repr

structure Vat where
  st : VatSt := .idle
  op : Option OpRef := none
  prog : VatProg := {}
  issue : Option Issue := none
  wait : Option VWait := none
  fin : Option Ended := none
  closed : Bool := false
  irrev : Bool := false
  record : Nat := 0
  started : Bool := false
  restoring : Option Nat := none
  saved : List (Nat × SavedOp) := []
  saving : Option (Nat × Bool) := none
  istore : List (Nat × BitVec 256) := []
  istoreBad : List Nat := []
  ring : Option RingOut := none
  slices : List Slice := []
  regs : Regs := []
  deriving DecidableEq, Repr

/-! ## Presses, ladles and graders -/

inductive EngSt where
  | idle | check | run | inWait | outWait | rowWait | drain | fenced | outOfService
  deriving DecidableEq, Repr

/-- What an engine has taken on one input port: the bytes up to the first that is lost, the count of bytes taken, and
whether LAST, ERR or an uncorrectable error was met. -/
structure InPort where
  bytes : List Byte := []
  got : Nat := 0
  last : Bool := false
  err : Bool := false
  lost : Bool := false
  deriving DecidableEq, Repr

/-- One output stream an engine has formed: the port, the bytes of each buffer to put, and whether the final buffer
carries LAST and ERR. An eager stream's buffers are put one by one as they are obtained (R256, R309); `fill` zeroes the
bytes of a buffer after the stream's. -/
structure OutStream where
  port : Nat
  bufs : List (List Byte)
  last : Bool := true
  err : Bool := false
  eager : Bool := false
  fill : Bool := false
  deriving DecidableEq, Repr

/-- A lane of a predicate register: none is null (R197). -/
abbrev Lane := Option DWord

/-- A decoded value: null, a fixed-width bit pattern, or bytes. -/
inductive Val where
  | null
  | fixed (x : Nat)
  | str (b : List Byte)
  deriving DecidableEq, Repr

/-- A decoded column of a curd: its values in row order and, for dictionary columns, the codes. -/
structure ColData where
  vals : List Val
  codes : List (Option Nat)
  deriving DecidableEq, Repr

/-- A press's work on a curd (R197, R209): the columns decoded so far, the program bytes, the groups that can run now, the
group and instruction reached, the row registers of the group (keyed by 64 × register + lane), the selection so far, the
first failure, whether the limit is where the input at hand ends, and the pages counted. An operator's work (R266): also
the outputs of each FEATURE step so far, and the pairs of PROBE not yet put with the ordinal of their buffer. -/
structure PWork where
  cols : List ColData := []
  prog : List Byte := []
  limit : Nat := 0
  group : Nat := 0
  ip : Nat := 0
  q : List (Nat × Lane) := []
  sel : List Bool := []
  fail : Option Ended := none
  more : Bool := false
  pages : Nat := 0
  steps : List (List (List Val)) := []
  pairs : List Nat := []
  ord : Nat := 0
  deriving DecidableEq, Repr

/-- A translation run: the page's virtual base, size, physical base and permissions (R398, R400). -/
structure Run where
  va : Nat
  size : Nat
  pa : Nat
  r : Bool
  w : Bool
  deriving DecidableEq, Repr

/-- A ladle's progress through its operation (R315–R322, R333, R334, R695): whether the block's entries are counted, the
entry, touched key or record reached, the bags pooled, the unit keys read in the window and in the bag with their rows, the
rows of the unit in progress, the Cave copies by key with the physical rows they hold and their lines, the pooled bytes not
yet put and the count of those handed over, the translation run with the sweeps seen, the retries used for the row in
progress and whether a swap of it failed, the row held odd with the version to leave, whether a row was left unchanged as
not finite, and a cancellation that waits for the boundary. -/
structure LWork where
  begun : Bool := false
  pos : Nat := 0
  bags : Nat := 0
  part : List (Nat × List (List Byte)) := []
  bag : List (Nat × List (List Byte)) := []
  half : List (List Byte) := []
  copies : List (Nat × List Nat × List Nat) := []
  out : List Byte := []
  put : Nat := 0
  run : Option Run := none
  swept : Nat := 0
  tries : Nat := 0
  swap : Bool := false
  lock : Option (Nat × Nat × Nat) := none
  nonfin : Bool := false
  cancel : Bool := false
  deriving DecidableEq, Repr

/-- A press, ladle or grader: state, operation, descriptor, ports, the input taken, the buffers held, the output formed,
the end, and its registers. Of a press also the group in progress when a cancellation came (R212), the columns whose
dictionary page is in its region (R190), the table header as it was checked or initialised (R257), and the open number of
an operation whose region another press uses at the same time (R213, R257). `store` is an error in the engine's working
memory: correctable (1) or uncorrectable (2) (R218, R338, R369). -/
structure Eng where
  st : EngSt := .idle
  op : Option OpRef := none
  sub : Nat := 0
  desc : List Byte := []
  descAddr : Nat := 0
  inP : List (Nat × Nat) := []
  outP : List (Nat × Nat) := []
  acc : List (Nat × InPort) := []
  held : List (Nat × Nat) := []
  outs : List OutStream := []
  fin : Option Ended := none
  pend : Option Ended := none
  prog : List Byte := []
  work : Option PWork := none
  lw : LWork := {}
  col : Nat := 0
  irrev : Bool := false
  cancel : Option Nat := none
  dicts : List Nat := []
  tbl : List Byte := []
  torn : Option Nat := none
  store : Nat := 0
  regs : Regs := []
  deriving DecidableEq, Repr

/-! ## The Mould (R271–R290) -/

/-- An entry: the compare array's key, mask and valid bit, the verification copy with its valid bit (R284), the values of the plan's list that the
firmware rewrites it from (R283), poison, and the array's errors: a parity failure of the compare array, a correctable
(1) or uncorrectable (2) error of the copy (R281). -/
structure MEntry where
  key : BitVec 128 := 0
  mask : BitVec 128 := 0
  valid : Bool := false
  ckey : BitVec 128 := 0
  cmask : BitVec 128 := 0
  cvalid : Bool := false
  cres : DWord := 0
  lkey : BitVec 128 := 0
  lmask : BitVec 128 := 0
  lres : DWord := 0
  poison : Bool := false
  parityBad : Bool := false
  copyBad : Nat := 0
  deriving DecidableEq, Repr

/-- A held range of a context: share, first entry, entries (R277). -/
structure MRange where
  share : Nat
  ctx : Nat
  lo : Nat
  n : Nat
  deriving DecidableEq, Repr

/-- An update that waits: a rewrite from the plan's lists of a poisoned entry (R283), the scrub's rewrite of a compare array
from its copy (R284), or a translation install with the number of sweeps started before its walk, and the entry that
refused (R278, R289, R398). -/
inductive MUpd where
  | unpoison (i : Nat)
  | scrub (i : Nat)
  | install (key mask : BitVec 128) (res : DWord) (sweeps : Nat) (at_ : Option Nat)
  deriving DecidableEq, Repr

/-- A sweep: share, key and care mask (R288); for freed held ranges the range it covers, of the share. -/
structure MSweep where
  share : Nat
  key : BitVec 128
  care : BitVec 128
  range : Option (Nat × Nat) := none
  deriving DecidableEq, Repr

/-- What a search answers (R274, R282, R283). -/
inductive MResp where
  | miss
  | hit (i : Nat) (res : DWord)
  | fail (code : Nat)
  deriving DecidableEq, Repr

/-- A Mould: share sizes (R275), entries, held ranges, the install and scrub pointers, the waiting updates, the sweeps
requested and not completed, the count of translation sweeps started, the last response, and its registers. -/
structure Mould where
  shares : List Nat := [768, 128, 512, 512, 128]
  entries : List (Nat × MEntry) := []
  ranges : List MRange := []
  rr : Nat := 0
  scrub : Nat := 0
  upds : List MUpd := []
  sweeps : List MSweep := []
  swept : Nat := 0
  resp : Option MResp := none
  regs : Regs := []
  deriving DecidableEq, Repr

/-! ## Whey engine (R378–R405) -/

inductive ChSt where
  | idle | run | creditWait | walk | faulted | priWait | ending | fenced
  deriving DecidableEq, Repr

/-- Who started a stream or drip operation: an instance of a plan, or a host command (context, sequence number). -/
inductive Owner where
  | inst (op : OpRef)
  | cmd (ctx seq : Nat)
  deriving DecidableEq, Repr

/-- Where a stream delivers: nowhere yet, a hoop of this wheel, a hoop of another wheel, memory, or a Creamery flow. -/
inductive ChDst where
  | none
  | hoop (h : Nat)
  | rhoop (w h : Nat)
  | mem
  | net (flow : Nat)
  deriving DecidableEq, Repr

/-- A stream channel: the copied descriptors (R100), the elements moved, the buffer being filled (its Cave address and
the bytes in it), the handles put, the bytes taken from the source hoop and not yet placed, the source handles held with
the count of source bytes each ends at, the bytes taken and placed, the index bytes and the index handles held, the index
words read, the translation runs of source and destination with the sweeps seen, what a walk or an ATS translation is
for, the free buffers held beside the one being filled, the bytes of a NET message and its progress, the end (code and the
index position of R92 or the elements), whether a buffer for the ERR handle is awaited, what a replay needs, whether its own
state or the hoop store met an uncorrectable error (0x060E of R406), and the registers of R411. -/
structure Chan where
  st : ChSt := .idle
  own : Option Owner := none
  ctx : Nat := 0
  flow : Nat := 0
  sd : List Byte := []
  src : List Byte := []
  dst : List Byte := []
  out : ChDst := .none
  pos : Nat := 0
  fill : Option (Nat × Nat) := none
  puts : Nat := 0
  inBuf : List Byte := []
  inLast : Bool := false
  inErr : Bool := false
  taken : List (Handle × Nat) := []
  srcIn : Nat := 0
  srcOut : Nat := 0
  ixBytes : List Byte := []
  ixLast : Bool := false
  ixTaken : List (Handle × Nat) := []
  ixR : List (Nat × Nat) := []
  ixW : List (Nat × Nat) := []
  runR : Option Run := none
  runW : Option Run := none
  swept : Nat := 0
  missAddr : Nat := 0
  missDst : Bool := false
  missWrite : Bool := false
  missRead : Bool := false
  missAt : Option Nat := none
  ats : Bool := false
  credits : List Nat := []
  net : List Byte := []
  netAcked : Nat := 0
  netDone : Bool := false
  code : Nat := 0
  value : Nat := 0
  errPut : Bool := false
  irrev : Bool := false
  hist : Option (OpRef × Nat) := none
  uncorr : Bool := false
  faultSpace : Nat := 0
  faultAddr : Nat := 0
  faultWrite : Bool := false
  savedPos : List Nat := []
  savedOff : Nat := 0
  savedPuts : Nat := 0
  savedIx : Nat := 0
  deriving DecidableEq, Repr

/-- A drip operation in service (R396). -/
structure Drip where
  own : Owner
  ctx : Nat
  flow : Nat
  record : List Byte
  deriving DecidableEq, Repr

/-- A drip message on the mesh (R394, R421, R461); `wheel` is the wheel it goes to and `src` the wheel that sent it. -/
inductive MeshMsg where
  /-- to channel `chan` of a wheel: a free buffer of hoop `hoop` of wheel `src` -/
  | credit (wheel chan src hoop buf : Nat)
  /-- a handle to a hoop of the consumer wheel -/
  | put (wheel src hoop : Nat) (h : Handle)
  /-- a token to a successor on another wheel -/
  | token (wheel src ctx opid slot iter : Nat)
  /-- a release of a layer to a wheel of the part, from its anchor wheel -/
  | release (wheel src ctx iter layer : Nat)
  /-- to ladle `ladle` of a wheel: drop any copy of a row; `src` is the ladle that waits (R334) -/
  | invalidate (wheel ladle ctx table row src : Nat)
  deriving DecidableEq, Repr

/-- A completed stream or drip operation whose completion Rennet or the host interface has not taken yet: the channel
(0xFF for a drip), its owner, code, elements moved, handles put, and the index position of R92. -/
structure WheyDone where
  chan : Nat
  own : Owner
  code : Nat
  moved : Nat
  puts : Nat
  value : Nat
  deriving DecidableEq, Repr

/-- A whey engine: its state, channels, the dispatched stream operations waiting to arm, the drip operations, the
completions to take, and the channel-window and whey-window registers. -/
structure Whey where
  st : Nat := 0
  chans : List (Nat × Chan) := []
  arms : List (Owner × Nat × Nat × Nat) := []
  drips : List Drip := []
  dones : List WheyDone := []
  hoopSel : Nat := 0
  sweeps : Nat := 0
  regs : Regs := []
  deriving DecidableEq, Repr

/-! ## Rennet (R413–R437) -/

/-- An operation record's header as Rennet holds it (R417), its Cave address and its context. -/
structure OpRec where
  ctx : Nat
  opid : Nat
  cls : Nat
  prio : Nat
  any : Bool
  target : Nat
  slots : List Nat
  succ : List Nat
  body : Nat
  layer : Nat
  flow : Nat
  addr : Nat
  deriving DecidableEq, Repr

inductive FlowSt where
  | free | openF | cancelled | failed
  deriving DecidableEq, Repr

/-- An entry of the flow table (R414, R433, R439). -/
structure Flow where
  st : FlowSt := .free
  ctx : Nat := 0
  atomic : Bool := false
  quota : Nat := 0
  failCode : Nat := 0
  failOpid : Nat := 0
  dispatched : Word := 0
  completed : Word := 0
  cancelled : Word := 0
  failed : Word := 0
  deriving DecidableEq, Repr

/-- Where an instance stands: collecting operands, in service on a unit, or saved on its vat (R428). -/
inductive InstSt where
  | waiting
  | service (u : UnitId) (disp : Nat)
  | saved (vat : Nat) (yielded : Bool)
  deriving DecidableEq, Repr

/-- An instance (R413): its operands stored, its ready time, its place. -/
structure Inst where
  ctx : Nat
  opid : Nat
  iter : Nat
  filled : List Nat := []
  ready : Option Nat := none
  st : InstSt := .waiting
  replay : Bool := false
  deriving DecidableEq, Repr

/-- An open pass of a context on a wheel (R430, R431): the released layer and the completions of each layer; of a resumed
pass also the layer after which it was resumed, the slots of each operation that count as filled, and the operations whose
instance they are still to open (R465). -/
structure Pass where
  ctx : Nat
  iter : Nat
  released : Nat
  counts : List (Nat × Nat) := []
  closed : Nat := 0
  resumed : Option Nat := none
  given : List (Nat × List Nat) := []
  toOpen : List Nat := []
  deriving DecidableEq, Repr

structure Token where
  ctx : Nat
  opid : Nat
  slot : Nat
  iter : Nat
  deriving DecidableEq, Repr

/-- What a completion carries besides its code, for the last operation that returned a value (R262, R363): context, OPID,
ITER and the value. -/
structure DoneValue where
  ctx : Nat
  opid : Nat
  iter : Nat
  value : Nat
  deriving DecidableEq, Repr

structure Rennet where
  st : Nat := 0
  ops : List OpRec := []
  flows : List (Nat × Flow) := []
  insts : List Inst := []
  passes : List Pass := []
  tokq : List Token := []
  intr : List (UnitId × Nat × Nat × Nat) := []
  nextDisp : Nat := 0
  roles : List (Nat × Nat) := []
  trace : List (BitVec 128) := []
  lost : Bool := false
  flowSel : Nat := 0
  value : Option DoneValue := none
  storeBad : List (Nat × Nat × Nat) := []
  burst : List (BitVec 128) := []
  regs : Regs := []
  deriving DecidableEq, Repr

/-! ## GDDR7 (R547–R573) -/

/-- A wheel's memory controller: the contents by offset within the wheel (unlisted bytes read 0), the sectors whose
on-die ECC reports a corrected (1) or uncorrectable (2) error, the sectors whose last transfer exhausted its repeats
(R555), the state code of MEM_STATUS, the positions above the normal temperature (R554), the wash mark (R566), the scrub
period and pointer, the training results (R553), the exhausted transfers of each position with their times (R555), and
the registers. -/
structure Mem where
  cells : List Host.Cell := []
  bad : List (Nat × Nat) := []
  crcFail : List Nat := []
  st : Nat := 1
  hot : Nat := 0
  unwashed : Bool := false
  scrubHours : Nat := 24
  scrub : Nat := 0
  laneFail : Nat := 0
  devFail : Nat := 0
  posOk : Nat := 0
  exh : List (Nat × Nat) := []
  resetReq : Bool := false
  regs : Regs := []
  deriving DecidableEq, Repr

/-- A sample of a ladle row access (R323): context, table and physical row, and the physical ranges of the row and whether
its table has MIGR_OK, as the firmware knows them from the plan and its page tables. -/
structure Sample where
  ctx : Nat
  table : Nat
  row : Nat
  home : List (Nat × Nat)
  ok : Bool
  deriving DecidableEq, Repr

/-- A wheel's ladle window and shard state (R323–R327, R345): the load counter and its flag in `regs`, the sample FIFO,
the context of the sample last popped, the rows migrated into the wheel's memory, the bytes of its pool in use, whether
migration stopped, and the load at the last period. -/
structure LdlWin where
  regs : Regs := []
  samples : List Sample := []
  sampleCtx : Nat := 0
  migrated : Nat := 0
  poolUsed : Nat := 0
  stopped : Bool := false
  lastLoad : Nat := 0
  deriving DecidableEq, Repr

/-- A wheel's standing (R30, R592): in service, behind a rind and being reset, or out of service. -/
inductive Svc where
  | inService | resetting | out
  deriving DecidableEq, Repr

/-- One wheel (R14). `cave` is keyed by Cave address (R175) and unlisted bytes read 0; `caveBad` holds the bank words
with a single-bit (1) or double-bit (2) error (R112); `unseen` holds the bytes that the running program of a bank's vat
still reads where other data has come through the ring-in or the wheel port (R152). `prec` is the record of the Cave ranges that plans' CAVE sections
wrote: context, address, length (R696). `aggHi` holds what an aggregate's sum and count exceed the 16 bytes of its state
by, keyed by the state's Cave address (R259, R260). `saveSlots` and `yieldWait` are VAT_CONFIG's fields (R131). -/
structure Wheel where
  svc : Svc := .inService
  saveSlots : Nat := 1
  yieldWait : Nat := 0x100
  cave : List Host.Cell := []
  caveBad : List (Nat × Nat) := []
  unseen : List (Nat × Byte) := []
  vats : List (Nat × Vat) := []
  presses : List (Nat × Eng) := []
  ladles : List (Nat × Eng) := []
  graders : List (Nat × Eng) := []
  hoops : List (Nat × Hoop) := []
  whey : Whey := {}
  rnt : Rennet := {}
  mld : Mould := {}
  mem : Mem := {}
  ldl : LdlWin := {}
  prec : List (Nat × Nat × Nat) := []
  aggHi : List (Nat × Int × Nat) := []
  deriving DecidableEq, Repr

/-! ## Host ports, contexts and commands (R512–R546) -/

/-- A completion record before it gets its PHASE (R532). -/
structure Cpl where
  kind : Nat
  code : Nat
  seq : Nat := 0
  flow : Nat := 0
  iter : Nat := 0
  opid : Nat := 0
  d0 : Nat := 0
  d1 : Nat := 0
  deriving DecidableEq, Repr

/-- A record buffer of a port (R525): context, slot, its bytes, and the bytes of word 0x38 that have arrived. -/
structure RecBuf where
  ctx : Nat
  slot : Nat
  bytes : List Byte
  mask : Nat := 0
  deriving DecidableEq, Repr

/-- An aperture write that a port withholds (R525): every record buffer is in use, its slot's complete record has no
decision yet, or it lies behind such a write. -/
structure WaitWrite where
  ctx : Nat
  slot : Nat
  off : Nat
  bytes : List Byte
  deriving DecidableEq, Repr

/-- An accepted command record (R524, R526): its 64 bytes, the order of its acceptance across the module (R459), whether
it has started, whether it is taken, and the words it carries while it is in progress. -/
structure HCmd where
  seq : Nat
  raw : List Byte
  order : Nat
  started : Bool := false
  taken : Bool := false
  info : List Nat := []
  deriving DecidableEq, Repr

/-- A SUBMIT whose timer still runs for the pass it feeds (R528, R578). -/
structure SubmitT where
  seq : Nat
  iter : Nat
  expired : Bool := false
  deriving DecidableEq, Repr

/-- A layer of the barrier list (R460): RESTART, the counts per logical wheel, the hoops by logical wheel. -/
structure LayerRec where
  restart : Bool
  counts : List Nat
  hoops : List (Nat × Nat)
  deriving DecidableEq, Repr

/-- A window record (R488). -/
structure WinRec where
  flow : Nat
  port : Nat
  start : Nat
  len : Nat
  deriving DecidableEq, Repr

/-- The parts of a slot table that the module works by (R486): EPOCH_NS, SLACK_NS, PATH_NS and the windows. -/
structure SlotTab where
  epoch : Nat
  slack : Nat
  path : Nat
  wins : List WinRec
  deriving DecidableEq, Repr

/-- A loaded plan (R447–R458): the image's address and length, the measurement, header fields, the placement, the layers,
the flows (physical wheel, logical flow, entry of the flow table), the claimed channels, instruction-store ranges and Cave ranges by physical wheel, and the reports and notices of its open
passes (R461). -/
structure Plan where
  image : Nat
  bytes : Nat
  hash : List Byte
  planId : Nat
  lmod : Nat
  nmod : Nat
  timeout : Nat
  features : Nat
  wmap : List (Nat × Nat)
  nodes : List Nat
  layers : List LayerRec
  flows : List (Nat × Nat × Nat) := []
  channels : List (Nat × Nat) := []
  istore : List (Nat × Nat × Nat × Nat) := []
  caveR : List (Nat × Nat × Nat) := []
  reports : List (Nat × Nat × Nat) := []
  notices : List (Nat × Nat × Nat) := []
  slot : Option SlotTab := none
  deriving DecidableEq, Repr

inductive CtxSt where
  | free | openC | closing | orphaned
  deriving DecidableEq, Repr

/-- A context (R515): state and owner, the completion ring, E and T, the accepted records not completed, the records held
for the ring, the records since the last message, whether its port is gone, whether its CLOSED event is produced, the SEQ of the CLOSE, the page-table root
(R559), the plan, and the submissions whose timers run. -/
structure Ctx where
  st : CtxSt := .free
  owner : Nat := 0
  base : Nat := 0
  log2 : Nat := 0
  irq : Nat := 0x10000
  head : Nat := 0
  tail : Nat := 0
  nextSeq : Nat := 0
  taken : Nat := 0
  cmds : List HCmd := []
  held : List Cpl := []
  since : Nat := 0
  gone : Bool := false
  closed : Bool := false
  stall : Bool := false
  closeSeq : Nat := 0
  root : Option (Nat × Nat) := none
  plan : Option Plan := none
  submits : List SubmitT := []
  deriving DecidableEq, Repr

/-- A host port (R512, R544): its registers, the accepted features (R521), the record buffers, the withheld aperture writes, the MSI-X table by word, the
unmasked and the pending vectors, whether its link is up, whether it is lost (R537), whether PERST# is asserted, and the ATS and PRI enables of its function. -/
structure Port where
  regs : Regs := []
  accept : Nat := 0
  bufs : List RecBuf := []
  waits : List WaitWrite := []
  msix : Regs := []
  unmasked : List Nat := []
  pba : List Nat := []
  up : Bool := false
  lost : Bool := false
  perst : Bool := true
  ats : Bool := false
  pri : Bool := false
  latch : List (Nat × Nat) := []
  deriving DecidableEq, Repr

/-- A DATA packet of a transfer that no ACK covers yet (R490, R491): its numbers, whether it ends its message and its
transfer, its bytes, and whether it has been sent. -/
structure TxPkt where
  seq : Nat
  msg : Nat
  off : Nat
  lmsg : Bool
  last : Bool
  bytes : List Byte
  sent : Bool := false
  deriving DecidableEq, Repr

/-- The transmit state of a flow of a loaded part (R487, R490–R493): the record (with the sending wheel and the receiving
node), the channel whose transfer is under way, the next SEQ and MSG, the credit limit, the packets not acknowledged, and
whether a wheel reset left it stale (R502), and whether its staging met an uncorrectable error (0x0809 of R506). -/
structure TxFlow where
  ctx : Nat
  flow : Nat
  wheel : Nat
  peer : Nat
  peerWheel : Nat
  sport : Nat
  dport : Nat
  chan : Option Nat := none
  seq : Nat := 0
  msg : Nat := 0
  limit : Nat
  pkts : List TxPkt := []
  stale : Bool := false
  uncorr : Bool := false
  deriving DecidableEq, Repr

/-- A retransmission that is due (R491, R493): context, flow, SEQ, and whether it carries WEND. -/
structure Retx where
  ctx : Nat
  flow : Nat
  seq : Nat
  wend : Bool := false
  deriving DecidableEq, Repr

/-- A receive record of a loaded part (R487), with its physical wheel and its peer's node. -/
structure RxRec where
  ctx : Nat
  flow : Nat
  wheel : Nat
  anySrc : Bool
  node : Nat
  combine : Bool
  hoop : Nat
  lflow : Nat
  init : Nat
  msgBytes : Nat
  stale : Bool := false
  deriving DecidableEq, Repr

/-- A message being received: its number, its buffer (in a combine group the group holds it), the bytes received, its
length once its LMSG packet has come, and whether it ends the transfer. -/
structure RxMsg where
  msg : Nat
  buf : Nat
  got : Nat := 0
  len : Option Nat := none
  last : Bool := false
  deriving DecidableEq, Repr

/-- The receive state of one source of a flow (R495): NEXT, the SEQ values received beyond it, the credit limit, the
messages in progress, the next message without a buffer, the buffers handed to the consumer, the packets since the last
ACK, whether the credit limit has changed since, whether packets of a window came without WEND, the SEQ last NACKed in
this epoch, the port its data arrives on, whether the state met an uncorrectable error (0x0809 of R506), and whether a
transfer has begun whose last message is not complete (R500). -/
structure RxSrc where
  wheel : Nat
  ctx : Nat
  flow : Nat
  node : Nat
  next : Nat := 0
  got : List Nat := []
  limit : Nat
  msgs : List RxMsg := []
  mnext : Nat := 0
  bufs : List Nat := []
  since : Nat := 0
  credit : Bool := false
  winOpen : Bool := false
  nacked : Option Nat := none
  port : Nat := 0
  uncorr : Bool := false
  mid : Bool := false
  deriving DecidableEq, Repr

/-- A message of a combine group (R497): wheel, hoop, number, buffer, and each source that is complete with its length
and LAST. -/
structure GrpMsg where
  wheel : Nat
  hoop : Nat
  msg : Nat
  buf : Nat
  done : List (Nat × Nat × Nat × Bool) := []
  deriving DecidableEq, Repr

/-- A NOTICE not acknowledged yet (R501): context, node, number, ITER and LAYER. -/
structure NoticeOut where
  ctx : Nat
  node : Nat
  num : Nat
  iter : Nat
  layer : Nat
  deriving DecidableEq, Repr

/-- A Creamery packet's frame (R472, R473, R478, R481): the port, the MAC address of the next hop, VLAN_ID and the PCP and
DSCP of its class, the IP version, the addresses, the UDP ports, the time to live, whether DF is set, the ECN field, and the
UDP payload. The checksums and the FCS are those of the standards. -/
structure PktFrame where
  port : Nat
  mac : Nat
  vlan : Nat
  pcp : Nat
  dscp : Nat
  v6 : Bool
  srcIp : Nat
  dstIp : Nat
  sport : Nat
  dport : Nat
  ttl : Nat
  df : Bool
  ecn : Nat
  data : List Byte
  deriving DecidableEq, Repr

/-- An Ethernet port (R471, R473): link, lane fault, the resolved next hops, oldest first, and the frames that wait for the
resolution of their next hop. -/
structure EPort where
  link : Bool := false
  fault : Bool := false
  neigh : List (Nat × Nat) := []
  wait : List (Nat × PktFrame) := []
  deriving DecidableEq, Repr

/-- The module's time (R482–R484): 0 UNSYNC, 1 HOLDOVER, 2 LOCKED; the offset estimate in ns, the consecutive Sync
messages within ±40 ns, the active port, the announce timeouts, whether a Follow_Up is awaited, and the time. -/
structure Ptp where
  sync : Nat := 0
  offset : Int := 0
  run : Nat := 0
  port : Nat := 0
  misses : Nat := 0
  two : Bool := false
  time : Nat := 0
  deriving DecidableEq, Repr

/-- The Creamery of the module: the windows' state code and registers of each die, the ports, the time, the flows, the
retransmissions due in the order of their NACKs, the receive records and states, the combine groups, the notices sent and
seen, the notice numbers, and the control packets sent and seen. -/
structure Crm where
  st : List (Nat × Nat) := []
  regs : List (Nat × Regs) := []
  ports : List (Nat × EPort) := []
  ptp : Ptp := {}
  txs : List TxFlow := []
  retx : List Retx := []
  rxs : List RxRec := []
  srcs : List RxSrc := []
  grps : List GrpMsg := []
  notes : List NoticeOut := []
  noteNum : List (Nat × Nat) := []
  noteSeen : List (Nat × Nat × Nat) := []
  ctrls : List (Nat × Nat × List Byte × Nat) := []
  ctrlSeen : List (Nat × Nat) := []
  deriving DecidableEq, Repr
/-- A host's memory as the module reaches it: its contents (unlisted bytes read 0) and the addresses at which a read
returns an error completion or poisoned data. -/
structure HostMem where
  cells : List Host.Cell := []
  bad : List Nat := []
  deriving DecidableEq, Repr

/-- What leaves the module, in order: MSI-X messages, page requests and invalidation completions (R400), Creamery packets,
the contents of other Ethernet frames with their PCP, I3C answers and in-band interrupts, SPDM and DOE answers. -/
inductive Out where
  | msix (port vector : Nat)
  | pageRequest (port ctx addr : Nat)
  | invalDone (port tag : Nat)
  | packet (f : PktFrame)
  | frame (port kind pcp : Nat) (data : List Byte)
  | i3c (kind : Nat) (data : List Byte)
  | ibi (code wheel : Nat)
  | doe (port : Nat) (data : List Byte)
  deriving DecidableEq, Repr

/-- A migrated row (R325–R328): its context, table and row, the physical ranges of its home, the physical address of its
copy, and its bytes. -/
structure MigRec where
  ctx : Nat
  table : Nat
  row : Nat
  home : List (Nat × Nat)
  copy : Nat
  rb : Nat
  deriving DecidableEq, Repr

/-! ## Reset and recovery (R574–R603) -/

/-- An engine behind a rind (R580, R587): its wheel and unit, the code that started the reset, the context and SEQ of the
command that expired, whether a replay is ruled out (R588), and the code of an instance that is lost. -/
structure Fence where
  wheel : Nat
  unit : UnitId
  cause : Nat
  ctx : Nat
  seq : Nat
  noReplay : Bool
  lost : Nat
  deriving DecidableEq, Repr

/-- A vat whose instruction store the firmware rewrites (R589): wheel, vat. -/
structure Rewrite where
  wheel : Nat
  vat : Nat
  deriving DecidableEq, Repr

/-- A replayable instance of a suspect context (R590): the wheel, the instance, its engine, the SEQ of the command that
expired, and whether its replay has been dispatched. -/
structure Replay where
  ctx : Nat
  wheel : Nat
  opid : Nat
  iter : Nat
  unit : UnitId
  seq : Nat
  running : Bool := false
  deriving DecidableEq, Repr

/-- A section of a trier sample (R586): its TYPE, and its entries as the lists of the fields that R586 names. -/
structure TSec where
  type : Nat
  entries : List (List Nat)
  deriving DecidableEq, Repr

/-- A trier sample (R583–R586): the fields of its header, its sections, and the seed of the words that it does not fill. -/
structure TSample where
  level : Nat
  cls : Nat
  wheel : Nat
  die : Nat
  engine : Nat
  cause : Nat
  time : Nat := 0
  pinned : Bool := false
  ctx : Option Nat := none
  flow : Nat := 0
  opid : Nat := 0
  iter : Nat := 0
  order : Nat := 0
  seed : Nat := 0
  secs : List TSec := []
  deriving DecidableEq, Repr

/-- The reset controllers and the trier stores: the module window, the samples by 8 × die + slot, RST_TRIER_SEL, the start
times of each wheel's last resets in powered time (kept in flash), RST_W_LAST of each wheel, the engines behind rinds, the
rewrites, the suspects, the contexts whose reset left instances on engines, the wheels and dies being reset with their
causes, and the fault log in flash (R584). -/
structure Rst where
  regs : Regs := [(0x008, 0x000F0003)]
  trier : List (Nat × TSample) := []
  sel : Nat := 0
  starts : List (Nat × List Nat) := []
  last : List (Nat × Nat) := []
  fences : List Fence := []
  rewrites : List Rewrite := []
  replays : List Replay := []
  ctxs : List Nat := []
  wheels : List (Nat × Nat) := []
  dies : List (Nat × Nat) := []
  faultLog : List TSample := []
  deriving DecidableEq, Repr

/-! ## Clock islands (R604–R623) -/

/-- A die's clock domains: the periods that the supply needs of each island (R606), the longest periods under droop since
the last die reset, the islands that hold their clock, the domains that are absent to their crossings, CAP, the longest
target since the last die reset, and the window. -/
structure Clk where
  need : List (Nat × Nat) := []
  maxp : List (Nat × Nat) := []
  held : List Nat := []
  absent : List Nat := []
  cap : Nat := 16
  maxTarget : Nat := 16
  regs : Regs := []
  deriving DecidableEq, Repr

/-! ## Start-up, flash and the management bus (R624–R648) -/

/-- The flash (unlisted bytes read 0xFF) and whether it answers, the last step of the start begun and START_DONE, whether the
node number has been taken or written and whether it is pinned, CUL_VERSIONS and CUL_START_MS, the management endpoint:
dynamic address, MWL, MRL, the enabled events, the management address, ALERT#, the last RSTACT action, whether a Hot-Join
is due, whether the bus has failed, the high words that 32-bit reads latched (R128); whether the next start follows a
module reset; and the CUL_ window. -/
structure Cul where
  flash : List Host.Cell := []
  noFlash : Bool := false
  step : Nat := 1
  done : Bool := false
  node : Bool := false
  pinned : Bool := false
  versions : Nat := 0
  startMs : Nat := 0
  da : Option Nat := none
  mwl : Nat := 256
  mrl : Nat := 256
  events : Nat := 9
  addr : Nat := 0
  alert : Bool := false
  rstact : Nat := 0
  hotJoin : Bool := false
  busFault : Bool := false
  latch : List (Nat × Nat) := []
  restart : Bool := false
  regs : Regs := []
  deriving DecidableEq, Repr

/-! ## The Seals (R649–R672) -/

/-- A port's SPDM state (R662): GET_VERSION, GET_CAPABILITIES and NEGOTIATE_ALGORITHMS served, whether the algorithms of
signatures and digests were selected, and the measurement specification with its hash, the transcript, and a response that
was not ready with its token. -/
structure Spdm where
  phase : Nat := 0
  selected : Bool := false
  meas : Bool := false
  transcript : List Byte := []
  ready : Option (Nat × List Byte) := none
  deriving DecidableEq, Repr

/-- The Seals: the fuses of die 0 (life cycle, refurbishments, counters, revocations, owner keys by slot, whether the
secret is destroyed), the ports' nonces, their SPDM states, SEA_LC_RESULT, the digests of the images read at the start,
LC_BUSY with the target of the change in progress, and the window of each die. -/
structure Seal where
  lc : Nat := 0
  refurb : Nat := 0
  fwSvn : Nat := 0
  culSvn : Nat := 0
  fwRevoked : Nat := 0
  ownerValid : Nat := 0
  ownerRevoked : Nat := 0
  ownerKeys : List (Nat × List Byte) := []
  noSecret : Bool := false
  nonces : List (Nat × List Byte) := []
  spdm : List (Nat × Spdm) := []
  lcResult : Nat := 0
  fwDigest : List Byte := []
  culDigest : List Byte := []
  busy : Bool := false
  target : Nat := 0
  regs : List (Nat × Regs) := []
  deriving DecidableEq, Repr

/-! ## Power (R673–R690) -/

/-- A sample of the power controller (R675): input voltage (10 mV) and current (10 mA), the hot spots of the dies and the
hottest GDDR7 device (0.1 °C). -/
structure PSample where
  vin : Nat
  iin : Nat
  die0 : Int
  die1 : Int
  gddr : Int
  deriving DecidableEq, Repr

/-- The power controller: whether the module is off and held off (R680), the samples of the interval, the mean power of the
last interval (0.1 mW), the calm intervals that count towards a raise of CAP, the power alarm and the thermal record with
the intervals that count towards their onset and end, the samples above a shutdown limit, whether a sensor failed in the
interval, whether power and temperature called for the last lowering, PWR_LAST_FAULT, PWR_RAIL_SEL, the energy below 1 mJ
(10 nJ), the sums of the 1 s mean and its last value (0.1 W), the telemetry read and shown, by register offset, rail k at
0x100 + 4k, and the window. -/
structure Pwr where
  off : Bool := false
  hold : Bool := false
  samples : List PSample := []
  mean : Nat := 0
  calm : Nat := 0
  alarm : Bool := false
  alarmRun : Nat := 0
  alarmGone : Nat := 0
  thermal : Bool := false
  thermRun : Nat := 0
  thermGone : Nat := 0
  hotRun : Nat := 0
  sensor : Bool := false
  byPower : Bool := false
  byTemp : Bool := false
  lastFault : Nat := 0
  railSel : Nat := 0
  energy : Nat := 0
  avgSum : Nat := 0
  avgN : Nat := 0
  avg : Nat := 0
  stage : Regs := []
  tele : Regs := []
  regs : Regs := [(0x008, 0x4E2)]
  deriving DecidableEq, Repr

/-- The whole module. `small` is the OX2-512 product (R549); `now` counts the 100 µs intervals of powered time (R676, R585);
`dieDown` lists the dies whose half of the bridge is not present (R31); `rdVal` is the value the last register read
returned, `rdBytes` and `rdCode` what the last BAR4, configuration or aperture read did. -/
structure State where
  pending : List Instr := []
  wheels : List (Nat × Wheel) := []
  mesh : List MeshMsg := []
  free : Nat := 0
  small : Bool := false
  now : Nat := 0
  dieDown : List Nat := []
  ctxs : List (Nat × Ctx) := []
  ports : List (Nat × Port) := []
  hosts : List (Nat × HostMem) := []
  out : List Out := []
  crm : Crm := {}
  culture : List Byte := []
  order : Nat := 0
  offer : Nat := 0
  assign : List Nat := [2, 2, 2, 2, 2, 2, 2, 2]
  adoptMs : Nat := 0
  recovery : Bool := false
  outOfService : Bool := false
  node : Nat := 0xFFF
  signedPlans : Bool := false
  migs : List MigRec := []
  migrEn : Bool := false
  migrImbal : Nat := 25
  serial : DWord := 0
  unwashedFlash : List Nat := []
  rst : Rst := {}
  clks : List (Nat × Clk) := []
  cul : Cul := {}
  sea : Seal := {}
  pwr : Pwr := {}
  rdVal : DWord := 0
  rdBytes : List Byte := []
  rdCode : Nat := 0
  deriving DecidableEq, Repr

/-- The module right after reset. -/
def State.reset : State := {}

end Sys2Proof.Machine
end

