-- ==== Sys2Proof/Machine/Ops.lean ====
section
/-!
DEFINITION. Sys2Proof/Machine/Ops.lean: the named operations over tables, memories, registers, hoops and the units of a
wheel. A table is a list of (key, value) pairs with rising keys and no entry equal to the default; a memory is such a
table of bytes.
-/

namespace Sys2Proof.Machine

/-! ## Tables -/

/-- The value at a key; the default where the key is not listed. -/
def tget {V : Type} (d : V) : List (Nat × V) → Nat → V
  | [], _ => d
  | (a, v) :: r, k => if a = k then v else tget d r k

/-- The entries but those of a key. -/
def tdel {V : Type} (t : List (Nat × V)) (k : Nat) : List (Nat × V) := t.filter (fun c => c.1 != k)

/-- An entry laid before the first entry of a higher key. -/
def tins {V : Type} (k : Nat) (v : V) : List (Nat × V) → List (Nat × V)
  | [] => [(k, v)]
  | (a, x) :: r => if k < a then (k, v) :: (a, x) :: r else (a, x) :: tins k v r

/-- Put a value at a key, keeping the canonical form: writing the default removes the entry. -/
def tset {V : Type} [DecidableEq V] (d : V) (t : List (Nat × V)) (k : Nat) (v : V) : List (Nat × V) :=
  if v = d then tdel t k else tins k v (tdel t k)

/-- The canonical form of a table from key `lo` on. -/
def twfFrom {V : Type} [DecidableEq V] (d : V) : Nat → List (Nat × V) → Bool
  | _, [] => true
  | lo, (a, v) :: r => decide (lo ≤ a) && decide (v ≠ d) && twfFrom d (a + 1) r

/-- The canonical form: keys rise strictly and no entry holds the default. -/
def twf {V : Type} [DecidableEq V] (d : V) (t : List (Nat × V)) : Bool := twfFrom d 0 t

/-- Apply a function at a key. -/
def tmod {V : Type} [DecidableEq V] (d : V) (t : List (Nat × V)) (k : Nat) (f : V → V) : List (Nat × V) :=
  tset d t k (f (tget d t k))

/-! ## Memories -/

/-- A memory is in canonical form: addresses rise strictly and no cell holds what an unlisted address reads as. -/
def Memory.wf (d : Byte) (m : List Host.Cell) : Bool := twf d m

/-- One byte of a memory whose unlisted bytes read as `d`. -/
def rdByte (d : Byte) (m : List Host.Cell) (a : Nat) : Byte := tget d m a

/-- The bytes of a window from the cells that lie in it. -/
def readCells (d : Byte) (cs : List Host.Cell) : Nat → Nat → List Byte
  | 0, _ => []
  | n + 1, a =>
    match cs with
    | (k, b) :: r => if k = a then b :: readCells d r n (a + 1) else d :: readCells d ((k, b) :: r) n (a + 1)
    | [] => d :: readCells d [] n (a + 1)

/-- `n` bytes from address `a`. -/
def rdMem (d : Byte) (m : List Host.Cell) (a n : Nat) : List Byte :=
  readCells d (m.filter (fun c => a ≤ c.1 && c.1 < a + n)) n a

/-- The cells of bytes laid from address `a`, without those equal to the default. -/
def cellsOf (d : Byte) : Nat → List Byte → List Host.Cell
  | _, [] => []
  | a, b :: r => if b = d then cellsOf d (a + 1) r else (a, b) :: cellsOf d (a + 1) r

/-- Write bytes from address `a`. -/
def wrMem (d : Byte) (m : List Host.Cell) (a : Nat) (bs : List Byte) : List Host.Cell :=
  m.filter (fun c => c.1 < a) ++ cellsOf d a bs ++ m.filter (fun c => a + bs.length ≤ c.1)

/-- A little-endian number of `n` bytes in memory (R3). -/
def rdLE (d : Byte) (m : List Host.Cell) (a n : Nat) : Nat := leNat (rdMem d m a n)

/-! ## Registers, errors and statistics -/

def regGet (r : Regs) (o : Nat) : Nat := (tget 0 r o).toNat
def regSet (r : Regs) (o x : Nat) : Regs := tset 0 r o (BitVec.ofNat 64 x)

/-- The first-error pattern every block shares (R133, R219, R409, …): ERR_STATUS at 0x00C gets the bits of `mask`;
ERR_INFO at 0x010 and ERR_DETAIL at 0x014 are recorded only while ERR_STATUS is all zero. -/
def errSet (r : Regs) (mask info detail : Nat) : Regs :=
  let r' := if regGet r 0x00C = 0 then regSet (regSet r 0x010 info) 0x014 detail else r
  regSet r' 0x00C (regGet r 0x00C ||| mask)

/-- ERR_INFO of an operation error: FLOW in [29:16], CODE in [15:0]. -/
def errInfo (flow code : Nat) : Nat := flow % 2 ^ 14 * 2 ^ 16 + code % 2 ^ 16

/-- Add to a statistics counter (R5): at its end it wraps and sets its sticky overflow flag. -/
def bumpAt (r : Regs) (ovf bit off n : Nat) : Regs :=
  let x := regGet r off + n
  let r' := regSet r off (x % 2 ^ 64)
  if x < 2 ^ 64 then r' else regSet r' ovf (regGet r' ovf ||| 2 ^ bit)

/-- Statistics counter k of a block: at 0x040 + 8k, its flag bit k of the register at 0x020. -/
def bump (r : Regs) (k n : Nat) : Regs := bumpAt r 0x020 k (0x040 + 8 * k) n

/-- A saturating 32-bit counter (R5, R7): the new value, and whether this increment brought it to its maximum. -/
def satBump (x : Word) : Word × Bool :=
  if x = 0xFFFFFFFF then (x, false) else (x + 1, x + 1 = 0xFFFFFFFF)

/-! ## Wheels and their units -/

def wheelOf (s : State) (w : Nat) : Wheel := tget {} s.wheels w
def setWheel (s : State) (w : Nat) (x : Wheel) : State := { s with wheels := tset {} s.wheels w x }
def onWheel (s : State) (w : Nat) (f : Wheel → Wheel) : State := setWheel s w (f (wheelOf s w))

def vatOf (x : Wheel) (v : Nat) : Vat := tget {} x.vats v
def setVat (x : Wheel) (v : Nat) (y : Vat) : Wheel := { x with vats := tset {} x.vats v y }
def onVat (x : Wheel) (v : Nat) (f : Vat → Vat) : Wheel := setVat x v (f (vatOf x v))

def pressOf (x : Wheel) (p : Nat) : Eng := tget {} x.presses p
def setPress (x : Wheel) (p : Nat) (e : Eng) : Wheel := { x with presses := tset {} x.presses p e }
def ladleOf (x : Wheel) (p : Nat) : Eng := tget {} x.ladles p
def setLadle (x : Wheel) (p : Nat) (e : Eng) : Wheel := { x with ladles := tset {} x.ladles p e }
def graderOf (x : Wheel) (p : Nat) : Eng := tget {} x.graders p
def setGrader (x : Wheel) (p : Nat) (e : Eng) : Wheel := { x with graders := tset {} x.graders p e }

def chanOf (x : Wheel) (c : Nat) : Chan := tget {} x.whey.chans c
def setChan (x : Wheel) (c : Nat) (y : Chan) : Wheel :=
  { x with whey := { x.whey with chans := tset {} x.whey.chans c y } }

def hoopOf (x : Wheel) (h : Nat) : Hoop := tget {} x.hoops h
def setHoop (x : Wheel) (h : Nat) (y : Hoop) : Wheel := { x with hoops := tset {} x.hoops h y }
def onHoop (x : Wheel) (h : Nat) (f : Hoop → Hoop) : Wheel := setHoop x h (f (hoopOf x h))

/-! ## The Cave (R112, R145, R175) -/

def bankBytes : Nat := 0x280000
def caveBytes : Nat := 32 * bankBytes
def saveSlotBytes : Nat := 111104

/-- The first bank offset beyond the program-visible part (R145). -/
def visibleEnd (saveSlots : Nat) : Nat := bankBytes - saveSlots * saveSlotBytes

/-- The Cave address of offset `o` of bank `v`. -/
def bankAddr (v o : Nat) : Nat := v * bankBytes + o

/-- A region lies within the Cave and outside every bank's save slots (R175, R145). A region may span banks only where
no save slot lies between. -/
def caveRangeOk (x : Wheel) (a n : Nat) : Bool :=
  let last := a + n - 1
  decide (0 < n) && decide (a + n ≤ caveBytes) && decide (a % bankBytes < visibleEnd x.saveSlots)
    && decide (last % bankBytes < visibleEnd x.saveSlots)
    && (decide (a / bankBytes = last / bankBytes) || decide (x.saveSlots = 0))

/-- A Cave address of a descriptor (R175): a multiple of 32 bytes, its region within the Cave and outside the save
slots. -/
def caveAddrOk (x : Wheel) (a n : Nat) : Bool := decide (a % 32 = 0) && caveRangeOk x a n

/-- A read of `n` bytes at `a` meets a double-bit error (R112). -/
def caveUncorr (x : Wheel) (a n : Nat) : Bool :=
  x.caveBad.any (fun c => c.2 == 2 && decide (a / 8 ≤ c.1) && decide (c.1 * 8 < a + n))

/-- The single-bit errors a read of `n` bytes at `a` corrects (R112), by bank word. -/
def caveSingles (x : Wheel) (a n : Nat) : List Nat :=
  (x.caveBad.filter (fun c => c.2 == 1 && decide (a / 8 ≤ c.1) && decide (c.1 * 8 < a + n))).map (·.1)

def caveRead (x : Wheel) (a n : Nat) : List Byte := rdMem 0 x.cave a n

/-- The bytes from `a`, those of a table in their places. -/
def overlay (cs : List (Nat × Byte)) (a : Nat) : List Byte → List Byte
  | [] => []
  | b :: r =>
    match cs with
    | (k, v) :: q => if k = a then v :: overlay q (a + 1) r else b :: overlay ((k, v) :: q) (a + 1) r
    | [] => b :: r

/-- The bytes of a range as the program of the bank's vat sees them (R152). -/
def seenRead (x : Wheel) (a n : Nat) : List Byte :=
  overlay (x.unseen.filter (fun c => a ≤ c.1 && c.1 < a + n)) a (caveRead x a n)

/-- A program is in service on the vat of a bank: it has started and not ended. -/
def bankRuns (x : Wheel) (v : Nat) : Bool := (vatOf x v).op.isSome && (vatOf x v).started && !(vatOf x v).closed

/-- The bytes outside a range that programs still see otherwise. -/
def seeRange (x : Wheel) (a n : Nat) : List (Nat × Byte) := x.unseen.filter (fun c => c.1 < a || a + n ≤ c.1)

/-- What programs see in place of the bytes that come into a range through the ring-in or the wheel port (R152): while a
bank's vat runs a program, what that program has read there. -/
def keepSeen (x : Wheel) (a : Nat) (bs : List Byte) : List (Nat × Byte) :=
  if x.vats.any (fun p => decide (a < (p.1 + 1) * bankBytes) && decide (p.1 * bankBytes < a + bs.length) && bankRuns x p.1) then
    x.unseen.filter (fun c => c.1 < a)
      ++ (((seenRead x a bs.length).zip bs).zipIdx.filter (fun p =>
          p.1.1 ≠ p.1.2 && bankRuns x ((a + p.2) / bankBytes))).map (fun p => (a + p.2, p.1.1))
      ++ x.unseen.filter (fun c => a + bs.length ≤ c.1)
  else seeRange x a bs.length

/-- Write Cave bytes that the bank's program sees at once: its own (R152). A bank word written whole is free of errors
afterwards. -/
def caveStore (x : Wheel) (a : Nat) (bs : List Byte) : Wheel :=
  { x with
    cave := wrMem 0 x.cave a bs
    caveBad := x.caveBad.filter (fun c => !(decide (a ≤ c.1 * 8) && decide (c.1 * 8 + 8 ≤ a + bs.length)))
    unseen := seeRange x a bs.length }

/-- Write Cave bytes through the wheel port or the ring-in port. -/
def caveWrite (x : Wheel) (a : Nat) (bs : List Byte) : Wheel :=
  { caveStore x a bs with unseen := keepSeen x a bs }

/-- Data in a range becomes visible to the bank's program: at dispatch, or at HTAKE of the handle naming it (R152). -/
def caveShow (x : Wheel) (a n : Nat) : Wheel := { x with unseen := seeRange x a n }

/-- Correct the single-bit errors a read met: write them back corrected and count each in VAT_CAVE_CORRECTED of the
bank's vat, with CAVE_CORR in VAT_ERR_STATUS (R112, R132, R133). -/
def caveCorrect (x : Wheel) (a n : Nat) : Wheel :=
  (caveSingles x a n).foldl (fun y k =>
    let v := k * 8 / bankBytes
    onVat { y with caveBad := y.caveBad.filter (fun c => c.1 ≠ k) } v (fun t =>
      { t with regs := errSet (bump t.regs 7 1) 0x2 0 0 })) x

/-! ## Absence across a crossing (R616, R617) -/

/-- A crossing cell of a die answers a request ABSENT: the answer is counted, and the register holds the absent domain and
0x0C01. -/
def absentAt (s : State) (die dom : Nat) : State :=
  { s with clks := tmod {} s.clks die (fun c => { c with regs := errSet (bump c.regs 2 1) 0x4 (dom * 2 ^ 16 + 0x0C01) 0 }) }

/-! ## Hoops (R378–R383) -/

/-- The Cave address of buffer i of a hoop's pool. -/
def bufAddr (h : Hoop) (i : Nat) : Nat := h.pool + 256 * h.stride * i

/-- The buffer of a pool at a Cave address. -/
def bufIndex (h : Hoop) (a : Nat) : Nat := if h.stride = 0 then 0 else (a - h.pool) / (256 * h.stride)

def bufBytes (h : Hoop) : Nat := h.units * 256

/-- Start the put of a handle; it enters the queue when its bytes are acknowledged (HANDLE_PUT, R383). -/
def hoopPut (x : Wheel) (h : Nat) (u : UnitId) (hd : Handle) : Wheel :=
  onHoop x h (fun y => { y with puts := y.puts ++ [(u, hd)] })

/-- Start the release of a buffer (BUFFER_RELEASE completes it, R381). -/
def hoopRelease (x : Wheel) (h i : Nat) : Wheel := onHoop x h (fun y => { y with rels := y.rels ++ [i] })

/-- Return a buffer to its pool without a put: it joins the end of the free order (R381). -/
def hoopReturn (x : Wheel) (h i : Nat) : Wheel := onHoop x h (fun y => { y with free := y.free ++ [i], relCnt := y.relCnt + 1 })

/-- Obtain the first k free buffers of a pool: the producer counts them (R382, R613). -/
def hoopObtain (x : Wheel) (h k : Nat) : Wheel :=
  onHoop x h (fun y => { y with free := y.free.drop k, obtCnt := y.obtCnt + BitVec.ofNat 16 (min k y.free.length) })

/-- A unit may bind a side of a hoop (R694): its own context's plan claims the hoop and no other unit holds the side. -/
def canBind (side : Option UnitId) (u : UnitId) : Bool :=
  match side with
  | none => true
  | some v => v = u

def hoopOwned (x : Wheel) (h ctx : Nat) : Bool := (hoopOf x h).owner = some ctx

/-- Bind the producer or the consumer side of a hoop. The producer's crossing counts start anew: its credits are the free
buffers (R613, R618). -/
def bindProd (x : Wheel) (h : Nat) (u : UnitId) : Wheel :=
  onHoop x h (fun y => { y with prod := some u, relCnt := BitVec.ofNat 16 y.free.length, obtCnt := 0 })
def bindCons (x : Wheel) (h : Nat) (u : UnitId) : Wheel := onHoop x h (fun y => { y with cons := some u })

/-- End every binding of a unit (R381). -/
def unbindAll (x : Wheel) (u : UnitId) : Wheel :=
  { x with hoops := x.hoops.map (fun (k, y) =>
      (k, { y with prod := if y.prod = some u then none else y.prod,
                   cons := if y.cons = some u then none else y.cons })) }

/-- Puts of a unit that are not acknowledged yet. -/
def putsOpen (x : Wheel) (u : UnitId) : Bool := x.hoops.any (fun (_, y) => y.puts.any (fun p => p.1 = u))

end Sys2Proof.Machine
end

