-- ==== Sys2Proof/Machine/Mould.lean ====
section
/-!
DEFINITION. Sys2Proof/Machine/Mould.lean: the Mould's match rule, searches, verification, updates, sweeps and the scrub
(R271–R290). Searches that other commands need call `mldSearch`; MOULD_SEARCH issues one on its own.
-/

namespace Sys2Proof.Machine

open Sys2Proof

def onMld (x : Wheel) (f : Mould → Mould) : Wheel := { x with mld := f x.mld }
def mEntry (m : Mould) (i : Nat) : MEntry := tget {} m.entries i
def setEntry (m : Mould) (i : Nat) (e : MEntry) : Mould := { m with entries := tset {} m.entries i e }

/-- The first entry of a share and its size (R275, R276). -/
def shareLo (m : Mould) (share : Nat) : Nat := (m.shares.take share).foldl (· + ·) 0
def shareSize (m : Mould) (share : Nat) : Nat := nth 0 m.shares share
def shareOf (m : Mould) (i : Nat) : Nat := ((upto 5).find? (fun s => decide (i < shareLo m s + shareSize m s))).getD 4

/-- Held shares are 1, 2 and 3; 0 and 4 are live (R276). -/
def shareHeld (share : Nat) : Bool := decide (1 ≤ share) && decide (share ≤ 3)

/-- The ranges a search covers (R277, R278). -/
def searchRanges (m : Mould) (share ctx : Nat) : List (Nat × Nat) :=
  if shareHeld share then
    (m.ranges.filter (fun r => r.share == share && r.ctx == ctx)).map (fun r => (r.lo, r.n))
  else [(shareLo m share, shareSize m share)]

def inRanges (rs : List (Nat × Nat)) (i : Nat) : Bool := rs.any (fun r => decide (r.1 ≤ i) && decide (i < r.1 + r.2))

/-- The match rule (R272). -/
def entryMatches (key : BitVec 128) (e : MEntry) : Bool := e.valid && (key ^^^ e.key) &&& e.mask == 0

def onesOf (x : BitVec 128) : Nat := ((upto 128).filter (fun k => x.getLsbD k)).length

/-- The winner: most mask ones, then the lowest index (R273). Entries are in rising order of index. -/
def winnerOf (key : BitVec 128) (es : List (Nat × MEntry)) : Option (Nat × MEntry) :=
  es.foldl (fun best p =>
    if entryMatches key p.2 then
      match best with
      | none => some p
      | some q => if onesOf q.2.mask < onesOf p.2.mask then some p else best
    else best) none

/-- MLD_ERR_INFO's value (R297). -/
def mldInfo (share i code : Nat) : Nat := share * 2 ^ 29 + i % 2048 * 2 ^ 16 + code
def mldErr (m : Mould) (mask share i code : Nat) : Mould := { m with regs := errSet m.regs mask (mldInfo share i code) 0 }
def mldBump (m : Mould) (k : Nat) : Mould := { m with regs := bump m.regs k 1 }

/-- Invalidate an entry. -/
def mldInvalidate (m : Mould) (i : Nat) : Mould :=
  setEntry m i {}

/-- An uncorrectable verification copy (R283): a live entry is invalidated; a held one is poisoned, and the firmware asks
for its rewrite, ahead of its other updates, none of which waits (`mldSettle`). An entry that no list holds is cleared. -/
def mldUncorr (m : Mould) (share i : Nat) : Mould :=
  let e := mEntry m i
  if shareHeld share && (e.valid || e.cvalid) then
    if e.poison then m
    else
      let m1 := setEntry m i { e with poison := true }
      mldErr { m1 with upds := m1.upds ++ [.unpoison i] } 0x4 share i 0x0302
  else mldInvalidate m i

/-- Rewrite an entry's compare array from its verification copy (R282, R284, R285). -/
def mldRewrite (m : Mould) (share i : Nat) : Mould :=
  let e := mEntry m i
  if e.copyBad = 2 then mldUncorr m share i
  else
    let m1 := mldBump (setEntry m i { e with key := e.ckey, mask := e.cmask, valid := e.cvalid, parityBad := false, copyBad := 0 }) 10
    if e.copyBad = 1 then mldErr m1 0x8 share i 0 else m1

/-- Confirm a winner (R281): the copy passes or is corrected, and it matches. -/
def copyConfirms (key : BitVec 128) (e : MEntry) : Bool := (key ^^^ e.ckey) &&& e.cmask == 0

/-- One pass of a search: its outcome, or the entry of a false hit. -/
inductive MPass where
  | done (m : Mould) (r : MResp)
  | falseHit (m : Mould) (i : Nat)

/-- One pass (R281): the parity of every entry of the range is checked, then the winner's copy. -/
def mldPass (m : Mould) (share ctx : Nat) (key : BitVec 128) : MPass :=
  let rs := searchRanges m share ctx
  let es := m.entries.filter (fun p => inRanges rs p.1)
  let wrong := fun (m : Mould) (i : Nat) => MPass.falseHit (mldErr (mldBump m 11) 0x1 share i 0) i
  match es.find? (fun p => p.2.parityBad) with
  | some p => wrong m p.1
  | none =>
    match winnerOf key es with
    | none => .done m .miss
    | some (i, e) =>
      if e.poison then .done (mldErr m 0x4 share i 0x0302) (.fail 0x0302)
      else if e.copyBad = 2 then .done (mldUncorr m share i) (if shareHeld share then .fail 0x0302 else .miss)
      else
        let m1 := if e.copyBad = 1 then mldErr (setEntry m i { e with copyBad := 0 }) 0x8 share i 0 else m
        if copyConfirms key e then .done (mldBump m1 (2 * share + 1)) (.hit i e.cres) else wrong m1 i

/-- A false hit on entry i (R282, R283): the rewrite, or the outcome where the copy that the rewrite reads is
uncorrectable; the failing entry takes the place of the winner. -/
def mldFalse (m : Mould) (share i : Nat) : Mould × Option MResp :=
  let e := mEntry m i
  if e.poison then (mldErr m 0x4 share i 0x0302, some (.fail 0x0302))
  else if e.copyBad = 2 then
    let m1 := mldUncorr m share i
    (m1, some (if (mEntry m1 i).poison then .fail 0x0302 else .miss))
  else (mldRewrite m share i, none)

/-- A search of a share for a context (R272–R274, R277, R278, R281–R283). -/
def mldSearch (m0 : Mould) (share ctx : Nat) (key : BitVec 128) : Mould × MResp :=
  let m := mldBump m0 (2 * share)
  match mldPass m share ctx key with
  | .done m1 r => (m1, r)
  | .falseHit m1 i =>
    match mldFalse m1 share i with
    | (m2, some r) => (m2, r)
    | (m2, none) =>
      match mldPass m2 share ctx key with
      | .done m3 r => (m3, r)
      | .falseHit m3 j =>
        if shareHeld share then (mldErr m3 0x2 share j 0x0301, .fail 0x0301) else (mldInvalidate m3 j, .miss)

/-- MOULD_SEARCH: one request on a share's port; the response is held. -/
def execMouldSearch (w : Fin 8) (share : Fin 5) (ctx : Fin 1024) (key : BitVec 128) (s : State) :
    Host.Outcome State Fault Refusal :=
  .next (onWheel s w (fun x => onMld x (fun m =>
    let r := mldSearch m share ctx key
    { r.1 with resp := some r.2 })))

/-! ## Updates (R283, R285, R289) -/

/-- Write an entry whole: compare array and copy. A key bit under a zero mask bit is stored as 0 (R271). -/
def mldWrite (m : Mould) (i : Nat) (key mask : BitVec 128) (res : DWord) : Mould :=
  let k := key &&& mask
  mldBump (setEntry m i { key := k, mask := mask, valid := true, ckey := k, cmask := mask, cvalid := true, cres := res,
                          lkey := k, lmask := mask, lres := res }) 10

/-- A translation install (R278): at the round-robin pointer, or in place of the entry that refused (R398). -/
def mldInstall (m : Mould) (key mask : BitVec 128) (res : DWord) (at_ : Option Nat) : Mould :=
  let size := shareSize m 0
  if size = 0 then m
  else
    let i := at_.getD (m.rr % size)
    let m1 := if (mEntry m i).valid then mldBump m 13 else m
    let m2 := mldWrite m1 i key mask res
    if at_.isNone then { m2 with rr := (m2.rr + 1) % size } else m2

/-- The scrub's rewrite of a compare array (R284). -/
def scrubFix (m : Mould) (i : Nat) : Mould :=
  let share := shareOf m i
  if (mEntry m i).copyBad = 2 then mldUncorr m share i
  else mldErr (mldBump (mldRewrite m share i) 12) 0x10 share i 0

/-- The next update: the head of the queue. An install waits while a translation sweep is in progress, and one whose walk
began before a sweep started is discarded (R289). -/
def mldUpdate (m : Mould) : Mould :=
  match m.upds with
  | [] => m
  | .unpoison i :: r =>
    let e := mEntry m i
    mldWrite { m with upds := r } i e.lkey e.lmask e.lres
  | .scrub i :: r => scrubFix { m with upds := r } i
  | .install key mask res n at_ :: r =>
    if m.sweeps.any (fun s => s.share == 0) then m
    else if n ≠ m.swept then { m with upds := r }
    else mldInstall { m with upds := r } key mask res at_

def execMouldUpdate (w : Fin 8) (s : State) : Host.Outcome State Fault Refusal :=
  .next (onWheel s w (fun x => onMld x mldUpdate))

/-- Ask for a translation install after a page walk that started when `n` sweeps had started. -/
def askInstall (m : Mould) (key mask : BitVec 128) (res : DWord) (at_ : Option Nat) (n : Nat) : Mould :=
  { m with upds := m.upds ++ [.install key mask res n at_] }

/-! ## Sweeps (R288, R289) -/

/-- Start a sweep. -/
def startSweep (m : Mould) (sw : MSweep) : Mould :=
  { m with sweeps := m.sweeps ++ [sw], swept := if sw.share = 0 then m.swept + 1 else m.swept }

/-- Invalidate the entries of a share whose copy key equals the sweep key on the care mask. -/
def sweepEntries (m : Mould) (sw : MSweep) : Mould :=
  let lo := shareLo m sw.share
  let n := shareSize m sw.share
  let covers := fun (i : Nat) => match sw.range with
    | some r => decide (r.1 ≤ i) && decide (i < r.1 + r.2)
    | none => true
  { m with entries := m.entries.filter (fun p =>
      !(decide (lo ≤ p.1) && decide (p.1 < lo + n) && covers p.1 && p.2.valid && ((p.2.ckey ^^^ sw.key) &&& sw.care) == 0)) }

/-- MOULD_SWEEP: the oldest sweep completes. -/
def mldSweep (m : Mould) : Mould :=
  match m.sweeps with
  | [] => m
  | sw :: r => sweepEntries { m with sweeps := r } sw

def execMouldSweep (w : Fin 8) (s : State) : Host.Outcome State Fault Refusal :=
  .next (onWheel s w (fun x => onMld x mldSweep))

/-! ## Updates that the firmware asks for (R285) -/

/-- The Mould once the updates asked for so far are done: an install that waits for a sweep waits until it completes. -/
def settleUpds : Nat → Mould → Mould
  | 0, m => m
  | n + 1, m =>
    if m.upds.isEmpty then m
    else if m.sweeps.any (fun s => s.share == 0) then settleUpds n (mldSweep m)
    else settleUpds n (mldUpdate m)

/-- All other updates follow in the order requested (R285): an update of the firmware's comes after those that wait. -/
def mldSettle (m : Mould) : Mould := settleUpds (2 * m.upds.length + m.sweeps.length + 1) m

/-- A migration install (R278): the lowest invalid entry of the share, or a refusal that is counted. -/
def mldMigrate (m0 : Mould) (key mask : BitVec 128) (res : DWord) : Mould × Bool :=
  let m := mldSettle m0
  let lo := shareLo m 4
  match (upto (shareSize m 4)).find? (fun k => !(mEntry m (lo + k)).valid) with
  | some k => (mldWrite m (lo + k) key mask res, true)
  | none => (mldBump m 14, false)

/-- The mask of a migration entry: ones on context, table and row (R276). -/
def migrMask : BitVec 128 := BitVec.ofNat 128 (0xFFFF * 2 ^ 96 + 0x3FF * 2 ^ 64 + (2 ^ 64 - 1))

/-- Remove a migration entry by its copy's key. -/
def mldUnmigrate (m0 : Mould) (key : BitVec 128) : Mould :=
  let m := mldSettle m0
  match m.entries.find? (fun e => shareOf m e.1 == 4 && e.2.valid && e.2.ckey == key) with
  | some e => mldInvalidate m e.1
  | none => m

/-! ## The scrub (R284) -/

/-- MOULD_SCRUB: the entry at the scrub pointer is checked against its copy, and the pointer advances. Its rewrite follows
the updates that wait; an entry with an update of its own waiting is skipped. -/
def mldScrub (m0 : Mould) : Mould :=
  let i := m0.scrub
  let m := { m0 with scrub := (i + 1) % 2048 }
  let e := mEntry m i
  let share := shareOf m i
  if m.upds.any (fun u => u == .unpoison i || u == .scrub i) then m
  else if e.copyBad = 2 then mldUncorr m share i
  else
    let m1 := if e.copyBad = 1 then
        mldErr (mldBump (setEntry m i { e with copyBad := 0 }) 12) 0x8 share i 0
      else m
    if e.key = e.ckey ∧ e.mask = e.cmask ∧ e.valid = e.cvalid then m1
    else if m1.upds.isEmpty then scrubFix m1 i
    else { m1 with upds := m1.upds ++ [.scrub i] }

def execMouldScrub (w : Fin 8) (s : State) : Host.Outcome State Fault Refusal :=
  .next (onWheel s w (fun x => onMld x mldScrub))

/-! ## Held ranges (R277) -/

/-- The free spans of a share between its held ranges, rising. -/
def freeSpans (m : Mould) (share : Nat) : List (Nat × Nat) :=
  let lo := shareLo m share
  let hi := lo + shareSize m share
  let used := sortBy (fun (a b : MRange) => decide (a.lo < b.lo)) (m.ranges.filter (fun r => r.share == share && decide (0 < r.n)))
  let r := used.foldl (fun (p : List (Nat × Nat) × Nat) u => (p.1 ++ [(p.2, u.lo - p.2)], u.lo + u.n)) ([], lo)
  (r.1 ++ [(r.2, hi - r.2)]).filter (fun s => decide (0 < s.2))

/-- The lowest free range of `n` consecutive entries. -/
def heldRange (m : Mould) (share n : Nat) : Option Nat :=
  if n = 0 then some (shareLo m share)
  else ((freeSpans m share).find? (fun s => decide (n ≤ s.2))).map (·.1)

/-- The largest free range, the lowest of equals. -/
def largestSpan (m : Mould) (share : Nat) : Nat × Nat :=
  (freeSpans m share).foldl (fun b s => if b.2 < s.2 then s else b) (shareLo m share, 0)

/-- Write a plan's entries in list order from the low end of its range. -/
def fillHeld (m0 : Mould) (share ctx lo : Nat) (es : List (BitVec 128 × BitVec 128 × DWord)) : Mould :=
  let m := mldSettle m0
  let m1 := { m with ranges := m.ranges ++ [⟨share, ctx, lo, es.length⟩] }
  es.zipIdx.foldl (fun m p => mldWrite m (lo + p.2) p.1.1 p.1.2.1 p.1.2.2) m1

/-- The sweep key of a context, and the care mask on it. -/
def ctxKey (ctx : Nat) : BitVec 128 := BitVec.ofNat 128 (ctx * 2 ^ 64)
def ctxCare : BitVec 128 := BitVec.ofNat 128 (1023 * 2 ^ 64)

/-- A waiting install that a sweep of a context's translations has yet to discard (R289). -/
def installOf (m : Mould) (ctx : Nat) (u : MUpd) : Bool :=
  match u with
  | .install key _ _ n _ => n == m.swept && ((key ^^^ ctxKey ctx) &&& ctxCare) == 0
  | _ => false

/-- A share holds a valid entry, or waits for one, under a context. -/
def ctxIn (m : Mould) (share ctx : Nat) : Bool :=
  m.entries.any (fun p => p.2.valid && shareOf m p.1 == share && ((p.2.ckey ^^^ ctxKey ctx) &&& ctxCare) == 0)
    || (share == 0 && m.upds.any (installOf m ctx))

/-- The sweeps that end a context's entries (R288): of its held ranges, and of the live shares named. A sweep that would
meet no entry is not made (DESIGN CHOICE, log 78). -/
def ctxSweeps (m : Mould) (ctx : Nat) (live : List Nat) : List MSweep :=
  (live.filter (fun s => ctxIn m s ctx)).map (fun s => ⟨s, ctxKey ctx, ctxCare, none⟩)
    ++ (m.ranges.filter (fun r => r.ctx == ctx && m.entries.any (fun p => p.2.valid && decide (r.lo ≤ p.1) && decide (p.1 < r.lo + r.n)))).map
      (fun r => ⟨r.share, 0, 0, some (r.lo, r.n)⟩)

/-- Start the sweeps of a context that are not under way. -/
def sweepOut (m : Mould) (ctx : Nat) (live : List Nat) : Mould :=
  ((ctxSweeps m ctx live).filter (fun sw => !(m.sweeps.contains sw))).foldl startSweep m

/-- Nothing of a context is left to sweep. -/
def sweptOut (m : Mould) (ctx : Nat) (live : List Nat) : Bool :=
  (ctxSweeps m ctx live).isEmpty && m.sweeps.all (fun sw => !(sw.care == ctxCare && sw.key == ctxKey ctx)
    && (match sw.range with
      | some r => !(m.ranges.any (fun q => q.ctx == ctx && q.lo == r.1))
      | none => true))

/-- Free a context's held ranges once they are swept (R277). -/
def freeHeld (m : Mould) (ctx : Nat) : Mould :=
  let rs := (m.ranges.filter (fun r => r.ctx == ctx)).map (fun r => (r.lo, r.n))
  { m with
    entries := m.entries.filter (fun p => !(inRanges rs p.1))
    ranges := m.ranges.filter (fun r => r.ctx != ctx)
    upds := m.upds.filter (fun u => match u with
      | .unpoison i => !(inRanges rs i)
      | .scrub i => !(inRanges rs i)
      | .install _ _ _ _ _ => true) }

/-- The wash of every wheel reset (R290). -/
def mldWash (m : Mould) : Mould := { shares := m.shares }

end Sys2Proof.Machine
end

