-- ==== Sys2Proof/Machine/Memory.lean ====
section
/-!
DEFINITION. Sys2Proof/Machine/Memory.lean: GDDR7 behind its controllers (R547–R558), device physical addresses, the page
walk (R559–R563), and reads and writes through device virtual addresses as ladles, drips and streams make them (R695,
R697, R398, R399).
-/

namespace Sys2Proof.Machine

open Sys2Proof

/-! ## The controller (R551, R555, R556) -/

def onMem (x : Wheel) (f : Mem → Mem) : Wheel := { x with mem := f x.mem }
def memBump (m : Mem) (k n : Nat) : Mem := { m with regs := bump m.regs k n }

/-- The position that serves an offset (R550). -/
def positionOf (a : Nat) : Nat := bits a 10 8 ^^^ bits a 18 16

/-- Record an error (R572): ERR_INFO's code and place, ERR_ADDR while ERR_STATUS is all zero. Which face holds a sector is
open (R550, log 58). -/
def memErr (m : Mem) (mask code wheel a : Nat) : Mem :=
  let first := regGet m.regs 0x00C == 0
  let sector := wheel * 2 ^ 37 + a / 32 * 32
  let r := errSet m.regs mask ((Config.memFace sector).toNat * 2 ^ 19 + positionOf a * 2 ^ 16 + code) 0
  { m with regs := if first then regSet r 0x028 sector else r }

def sectorState (m : Mem) (a : Nat) : Nat := tget 0 m.bad (a / 32)

/-- The sectors a range touches. -/
def sectorsOf (a n : Nat) : List Nat := (upto ((a % 32 + n + 31) / 32)).map (fun k => a / 32 * 32 + 32 * k)

/-- A transfer of a sector fails its check `fails` times: repeats are counted, at most four; a fifth failure exhausts them
(0x0A02), and sixteen such transfers of one position within a second ask for a wheel reset (R555). -/
def linkCheck (now wheel : Nat) (m : Mem) (a fails : Nat) : Mem :=
  let m1 := if fails = 0 then m else memErr (memBump m 2 (min fails 4)) 0x1 0 wheel a
  if fails < 5 then m1
  else
    let p := positionOf a
    let exh := (m1.exh.filter (fun e => decide (now < e.2 + 10000))) ++ [(p, now)]
    let many := decide (16 ≤ (exh.filter (fun e => e.1 == p)).length)
    let m2 := memErr { m1 with exh := exh } 0x8 0x0A02 wheel a
    if many && !m2.resetReq then { memErr m2 0x20 0 wheel a with resetReq := true } else m2

/-- The devices' report on a sector that is read: a corrected error is counted, an uncorrectable one counted and recorded
(R556). -/
def eccReport (wheel : Nat) (m : Mem) (s : Nat) : Mem :=
  match sectorState m s with
  | 1 => memErr (memBump m 3 1) 0x2 0 wheel s
  | 2 => memErr (memBump m 4 1) 0x4 0x0A01 wheel s
  | _ => m

/-- Read one sector: the controller's state after it, and 0, 0x0A01 or 0x0A02. -/
def sectorRead (now wheel : Nat) (m : Mem) (s : Nat) : Mem × Nat :=
  if m.crcFail.contains s then (linkCheck now wheel m s 5, 0x0A02)
  else (eccReport wheel m s, if sectorState m s = 2 then 0x0A01 else 0)

/-- A device read through the controller: corrected errors are counted and delivered, uncorrectable ones poison the data
(0x0A01), a transfer whose repeats are exhausted gives 0x0A02; the first such sector decides. -/
def memRead (now wheel : Nat) (m : Mem) (a n : Nat) : Mem × List Byte × Nat :=
  let (m1, code) := (sectorsOf a n).foldl (fun (m, c) s =>
    let (m', c') := sectorRead now wheel m s
    (m', if c = 0 then c' else c)) (memBump m 0 n, 0)
  (m1, rdMem 0 m.cells a n, code)

/-- Bytes stored in one sector, with fresh ECC (R551). -/
def sectorStore (m : Mem) (a : Nat) (bs : List Byte) : Mem :=
  memBump { m with cells := wrMem 0 m.cells a bs, bad := tset 0 m.bad (a / 32) 0 } 1 bs.length

/-- The part of a write that falls in one sector: a whole sector is stored; a narrower write reads the sector first, and is
lost where that read is uncorrectable (R551); a write whose repeats are exhausted is lost (R555). -/
def memWriteSector (now wheel : Nat) (m : Mem) (a : Nat) (bs : List Byte) : Mem × Nat :=
  let s := a / 32 * 32
  if m.crcFail.contains s then (linkCheck now wheel m s 5, 0x0A02)
  else if 32 ≤ bs.length then (sectorStore m a bs, 0)
  else
    let (m1, c) := sectorRead now wheel m s
    if c ≠ 0 then (m1, c) else (sectorStore m1 a bs, 0)

def memWriteGo (now wheel : Nat) : Nat → Mem → Nat → List Byte → Nat → Mem × Nat
  | 0, m, _, _, c => (m, c)
  | n + 1, m, a, bs, c =>
    if bs.isEmpty then (m, c)
    else
      let k := 32 - a % 32
      let (m1, c1) := memWriteSector now wheel m a (bs.take k)
      memWriteGo now wheel n m1 (a + k) (bs.drop k) (if c = 0 then c1 else c)

/-- A device write through the controller; the first code of a sector that was not written, 0 for none. -/
def memWrite (now wheel : Nat) (m : Mem) (a : Nat) (bs : List Byte) : Mem × Nat := memWriteGo now wheel (bs.length + 1) m a bs 0

/-- The indivisible compare-and-swap of an aligned 8-byte word (R319, R551): whether it matched, or a code. -/
def memCas (now wheel : Nat) (m : Mem) (a old new : Nat) : Mem × Except Nat Bool :=
  let (m1, bs, c) := memRead now wheel m a 8
  if c ≠ 0 then (m1, .error c)
  else if leNat bs ≠ old then (m1, .ok false)
  else (sectorStore m1 a (leBytes 8 new), .ok true)

/-! ## Device physical addresses (R549, R31) -/

def backedBytes (s : State) : Nat := if s.small then 2 ^ 36 else 2 ^ 37
def paWheel (pa : Nat) : Nat := bits pa 39 37
def paOff (pa : Nat) : Nat := pa % 2 ^ 37
def backed (s : State) (pa n : Nat) : Bool :=
  decide (pa < 2 ^ 40) && decide (0 < n) && decide (paOff pa + n ≤ backedBytes s)

/-- Why wheel `w` cannot reach the memory of wheel `t` now (R31, R395), 0 where it can. -/
def reachCode (s : State) (w t : Nat) : Nat :=
  if w / 4 ≠ t / 4 ∧ s.dieDown.contains (t / 4) then 0x0002
  else if (wheelOf s t).svc ≠ .inService then 0x0001 else 0

/-- A request that finds its target away is answered ABSENT by a crossing cell: of the target's die, or of the requester's
where the other die's half of the bridge is away (R617). The register holds the domain and 0x0C01. -/
def absentNote (s : State) (w t : Nat) : State :=
  let away := w / 4 != t / 4 && s.dieDown.contains (t / 4)
  let d := if away then w / 4 else t / 4
  absentAt s d (if away then 245 else 239 + t % 4)

/-- Read device memory from wheel `w`: bytes and code. -/
def devRead (s : State) (w pa n : Nat) : State × List Byte × Nat :=
  let t := paWheel pa
  if reachCode s w t ≠ 0 then (absentNote s w t, [], reachCode s w t)
  else
    let (m, bs, c) := memRead s.now t (wheelOf s t).mem (paOff pa) n
    (onWheel s t (fun x => { x with mem := m }), bs, c)

def devWrite (s : State) (w pa : Nat) (bs : List Byte) : State × Nat :=
  let t := paWheel pa
  if reachCode s w t ≠ 0 then (absentNote s w t, reachCode s w t)
  else
    let (m, c) := memWrite s.now t (wheelOf s t).mem (paOff pa) bs
    (onWheel s t (fun x => { x with mem := m }), c)

def devCas (s : State) (w pa old new : Nat) : State × Except Nat Bool :=
  let t := paWheel pa
  if reachCode s w t ≠ 0 then (absentNote s w t, .error (reachCode s w t))
  else
    let (m, r) := memCas s.now t (wheelOf s t).mem (paOff pa) old new
    (onWheel s t (fun x => { x with mem := m }), r)

/-! ## The page walk (R559–R562) -/

/-- What a walk returns. `stop` carries the code of a table that cannot be read. -/
inductive WalkOut where
  | page (pa size : Nat) (r w : Bool)
  | notPresent
  | refused
  | malformed
  | stop (code : Nat)
  deriving DecidableEq, Repr

def pageSize (level : Nat) : Nat := if level = 1 then 2 ^ 30 else if level = 2 then 2 ^ 21 else 2 ^ 16

def walkLevel (w va : Nat) (needR needW : Bool) (rb : Nat) : Nat → Nat → Nat → State → State × WalkOut
  | 0, _, _, s => (s, .malformed)
  | n + 1, level, t, s =>
    let idx := if level = 0 then va / 2 ^ 39 % 2 ^ rb else if level = 1 then va / 2 ^ 30 % 512
      else if level = 2 then va / 2 ^ 21 % 512 else va / 2 ^ 16 % 32
    let (s1, bs, c) := devRead s w (t + 8 * idx) 8
    if c ≠ 0 then (s1, .stop c)
    else
      let e := leNat bs
      let leaf := bitAt e 1
      let addr := bits e 39 8 * 256
      if bitAt e 0 = false then (s1, .notPresent)
      else if bits e 63 40 ≠ 0 ∨ bits e 7 5 ≠ 0 ∨ (level = 0 ∧ leaf) ∨ (level = 3 ∧ leaf = false) then (s1, .malformed)
      else if leaf then
        let size := pageSize level
        if addr % size ≠ 0 ∨ backed s1 addr size = false then (s1, .malformed)
        else if (needR && !(bitAt e 2)) || (needW && !(bitAt e 3)) then (s1, .refused)
        else (s1, .page addr size (bitAt e 2) (bitAt e 3))
      else
        let al := if level = 2 then 256 else 4096
        let tb := if level = 2 then 256 else 4096
        if bits e 4 2 ≠ 0 ∨ addr % al ≠ 0 ∨ backed s1 addr tb = false then (s1, .malformed)
        else walkLevel w va needR needW rb n (level + 1) addr s1

def ctxOf (s : State) (c : Nat) : Ctx := tget {} s.ctxs c

/-- The operation of a press, ladle or grader is cancelled: its flow is CANCELLED (R433), or its context closes (R540). -/
def opCancelled (s : State) (w : Nat) (e : Eng) : Bool :=
  match e.op with
  | some op => (tget {} (wheelOf s w).rnt.flows (op.flow % 2048)).st == .cancelled || (ctxOf s op.ctx).st == .closing
  | none => false

def pageWalk (s : State) (w ctx va : Nat) (needR needW : Bool) : State × WalkOut :=
  match (ctxOf s ctx).root with
  | none => (s, .notPresent)
  | some (root, rb) =>
    if va / 2 ^ (39 + rb) ≠ 0 then (s, .notPresent) else walkLevel w va needR needW rb 4 0 root s

/-! ## Translation (R398, R276, R563) -/

def inRun (r : Run) (va : Nat) : Bool := decide (r.va ≤ va) && decide (va < r.va + r.size)
def runAllows (r : Run) (needR needW : Bool) : Bool := (!needR || r.r) && (!needW || r.w)

/-- The Mould key of a translation search. -/
def transKey (ctx va : Nat) : BitVec 128 := BitVec.ofNat 128 (ctx * 2 ^ 64 + va % 2 ^ 57)

/-- The run a translation entry's result gives. -/
def runOfResult (va res : Nat) : Run :=
  let size := if bits res 61 60 = 2 then 2 ^ 30 else if bits res 61 60 = 1 then 2 ^ 21 else 2 ^ 16
  ⟨va / size * size, size, res % 2 ^ 40, bitAt res 63, bitAt res 62⟩

/-- Ask the wheel's Mould to install a walk's result (R276, R563, R289). -/
def installWalk (x : Wheel) (ctx : Nat) (r : Run) (at_ : Option Nat) (swept : Nat) : Wheel :=
  let mask : BitVec 128 := BitVec.ofNat 128 (1023 * 2 ^ 64 + (2 ^ 57 - r.size))
  let code := if r.size = 2 ^ 30 then 2 else if r.size = 2 ^ 21 then 1 else 0
  let res : DWord := BitVec.ofNat 64 (b2n r.r * 2 ^ 63 + b2n r.w * 2 ^ 62 + code * 2 ^ 60 + r.pa)
  onMld x (fun m => askInstall m (transKey ctx r.va) mask res at_ swept)

/-- Look a page up in the wheel's Mould: a run that allows the access, or a miss with the entry that refused. -/
def mouldRun (s : State) (w ctx va : Nat) (needR needW : Bool) : State × Option Run × Option Nat :=
  let (m, r) := mldSearch (wheelOf s w).mld 0 ctx (transKey ctx va)
  let s1 := onWheel s w (fun x => { x with mld := m })
  match r with
  | .hit i res =>
    let run := runOfResult va res.toNat
    if runAllows run needR needW then (s1, some run, none) else (s1, none, some i)
  | _ => (s1, none, none)

/-- Why a translation did not succeed. -/
inductive TrFail where
  | absent
  | malformed
  | code (c : Nat)
  deriving DecidableEq, Repr

/-- Translate in one go, walking on a miss: ladles and drips do not halt (R695, R697). -/
def translate (s : State) (w ctx va : Nat) (needR needW : Bool) : State × Except TrFail Run :=
  let swept := (wheelOf s w).mld.swept
  match mouldRun s w ctx va needR needW with
  | (s1, some run, _) => (s1, .ok run)
  | (s1, none, at_) =>
    match pageWalk s1 w ctx va needR needW with
    | (s2, .page pa size r wr) =>
      let run : Run := ⟨va / size * size, size, pa, r, wr⟩
      (onWheel s2 w (fun x => installWalk x ctx run at_ swept), .ok run)
    | (s2, .malformed) => (s2, .error .malformed)
    | (s2, .stop c) => (s2, .error (.code c))
    | (s2, _) => (s2, .error .absent)

def runAddr (r : Run) (va : Nat) : Nat := r.pa + (va - r.va)

/-- The same with a run carried along: consecutive accesses to one page share it. -/
def translateRun (s : State) (w ctx : Nat) (run : Option Run) (va : Nat) (needR needW : Bool) :
    State × Except TrFail Run :=
  match run with
  | some r => if inRun r va && runAllows r needR needW then (s, .ok r) else translate s w ctx va needR needW
  | none => translate s w ctx va needR needW

/-! ## Commands of the controller -/

/-- MEMORY_ACCESS: one sector access of a requester that the model does not name, at an offset of the wheel: `crc` is
how many transfers failed their CRC check (five exhaust the four repeats), `store` the bytes written, none for a read
(R551, R555, R556). -/
def memAccess (s : State) (w off : Nat) (store : Option (List Byte)) (crc : Nat) : State :=
  let a := off % backedBytes s / 32 * 32
  onWheel s w (fun x => onMem x (fun m =>
    if m.st ≠ 0 ∧ m.st ≠ 3 then m else
    let m1 := linkCheck s.now w m a crc
    if 5 ≤ crc then { m1 with crcFail := insertNat a m1.crcFail }
    else
      let m2 := { m1 with crcFail := m1.crcFail.filter (· ≠ a) }
      match store with
      | none => (memRead s.now w m2 a 32).1
      | some bs => (memWrite s.now w m2 a (bs.take 32)).1))

def execMemoryAccess (w : Fin 8) (off : Fin 137438953472) (wr : Bool) (data : BitVec 256) (crc : Fin 6) (s : State) :
    Host.Outcome State Fault Refusal :=
  .next (memAccess s w off (if wr then some (leBytes 32 data.toNat) else none) crc)

/-- REFRESH: loses and reorders nothing (R554). -/
def execRefresh (_w : Fin 8) (s : State) : Host.Outcome State Fault Refusal := .next s

/-- TEMPERATURE_READ: the positions above the normal range (R554). -/
def execTemperatureRead (w : Fin 8) (hot : BitVec 8) (s : State) : Host.Outcome State Fault Refusal :=
  .next (onWheel s w (fun x => onMem x (fun m => { m with hot := hot.toNat })))

/-- RETUNE: holds a position's requests for at most 0.5 µs and loses or reorders nothing (R554). -/
def execRetune (_w : Fin 8) (s : State) : Host.Outcome State Fault Refusal := .next s

/-- SCRUB_SECTOR (R558): the next sector is read, and written back when its error was corrected. -/
def scrubSector (s : State) (w : Nat) : State :=
  onWheel s w (fun x => onMem x (fun m =>
    if m.st ≠ 0 then m else
    let a := m.scrub
    let m1 := memBump { m with scrub := if a + 32 < backedBytes s then a + 32 else 0 } 0 32
    if m.crcFail.contains a then linkCheck s.now w m1 a 5
    else match sectorState m a with
    | 1 => memErr (memBump (memBump (memBump { m1 with bad := tset 0 m1.bad (a / 32) 0 } 1 32) 3 1) 5 1) 0x2 0 w a
    | 2 => memErr (memBump m1 4 1) 0x14 0x0A01 w a
    | _ => m1))

def execScrubSector (w : Fin 8) (s : State) : Host.Outcome State Fault Refusal := .next (scrubSector s w)

/-- A wash of a range: zeros with fresh ECC (R565). -/
def memWash (m : Mem) (a n : Nat) : Mem :=
  memBump { m with
    cells := m.cells.filter (fun c => !(decide (a ≤ c.1) && decide (c.1 < a + n)))
    bad := m.bad.filter (fun b => !(decide (a ≤ b.1 * 32) && decide (b.1 * 32 < a + n))) } 1 n

end Sys2Proof.Machine
end

