-- ==== Sys2Proof/Machine/Hash.lean ====
section
/-!
DEFINITION. Sys2Proof/Machine/Hash.lean: the check codes and hashes that the module's own chapters name: CRC-32C
(Castagnoli), the standard CRC-32 as used by gzip, and SHA-512.
-/

namespace Sys2Proof.Machine

/-- One bit of a reflected CRC with polynomial `poly`. -/
def crcBit (poly x : Nat) : Nat := if x % 2 = 1 then (x / 2) ^^^ poly else x / 2

def crcByte (poly x : Nat) (b : Byte) : Nat :=
  (upto 8).foldl (fun y _ => crcBit poly y) (x ^^^ b.toNat)

/-- A reflected 32-bit CRC with initial value and final complement of all ones. -/
def crcOf (poly : Nat) (bs : List Byte) : Nat := (bs.foldl (crcByte poly) 0xFFFFFFFF) ^^^ 0xFFFFFFFF

def crc32c (bs : List Byte) : Nat := crcOf 0x82F63B78 bs
def crc32 (bs : List Byte) : Nat := crcOf 0xEDB88320 bs

/-! ## SHA-512 -/

def shaPrimes : List Nat :=
  [2, 3, 5, 7, 11, 13, 17, 19, 23, 29, 31, 37, 41, 43, 47, 53, 59, 61, 67, 71, 73, 79, 83, 89, 97, 101, 103, 107, 109,
   113, 127, 131, 137, 139, 149, 151, 157, 163, 167, 173, 179, 181, 191, 193, 197, 199, 211, 223, 227, 229, 233, 239,
   241, 251, 257, 263, 269, 271, 277, 281, 283, 293, 307, 311, 313, 317, 331, 337, 347, 349, 353, 359, 367, 373, 379,
   383, 389, 397, 401, 409]

/-- The floor of the cube root, by bits from `k` down. -/
def icbrtFrom (n : Nat) : Nat → Nat → Nat
  | 0, r => if (r + 1) ^ 3 ≤ n then r + 1 else r
  | k + 1, r =>
    let c := r + 2 ^ (k + 1)
    icbrtFrom n k (if c ^ 3 ≤ n then c else r)

/-- The round constants: 64 fraction bits of the cube roots of the first 80 primes. -/
def shaK : List DWord := shaPrimes.map (fun p => BitVec.ofNat 64 (icbrtFrom (p * 2 ^ 192) 68 0))

/-- The initial hash value: 64 fraction bits of the square roots of the first eight primes. -/
def shaH0 : List DWord := (shaPrimes.take 8).map (fun p => BitVec.ofNat 64 (isqrt (p * 2 ^ 128)))

def shaS0 (x : DWord) : DWord := x.rotateRight 28 ^^^ x.rotateRight 34 ^^^ x.rotateRight 39
def shaS1 (x : DWord) : DWord := x.rotateRight 14 ^^^ x.rotateRight 18 ^^^ x.rotateRight 41
def shas0 (x : DWord) : DWord := x.rotateRight 1 ^^^ x.rotateRight 8 ^^^ (x >>> 7)
def shas1 (x : DWord) : DWord := x.rotateRight 19 ^^^ x.rotateRight 61 ^^^ (x >>> 6)

/-- The number of a big-endian byte string. -/
def beNat (bs : List Byte) : Nat := bs.foldl (fun acc b => 256 * acc + b.toNat) 0

/-- `n` bytes of a number, the most significant first. -/
def beBytes (n x : Nat) : List Byte := (leBytes n x).reverse

/-- The padded message (FIPS 180-4). -/
def shaPad (bs : List Byte) : List Byte :=
  let l := bs.length
  bs ++ (0x80 : Byte) :: List.replicate ((111 + 128 - l % 128) % 128) 0 ++ beBytes 16 (8 * l)

/-- The message schedule, newest word first. -/
def shaSchedule (ws : List DWord) : Nat → List DWord
  | 0 => ws.reverse
  | n + 1 =>
    let r := shaSchedule ws n
    (shas1 (nth 0 r 1) + nth 0 r 6 + shas0 (nth 0 r 14) + nth 0 r 15) :: r

def shaRound (st : List DWord) (kw : DWord × DWord) : List DWord :=
  match st with
  | [a, b, c, d, e, f, g, h] =>
    let t1 := h + shaS1 e + ((e &&& f) ^^^ (~~~e &&& g)) + kw.1 + kw.2
    let t2 := shaS0 a + ((a &&& b) ^^^ (a &&& c) ^^^ (b &&& c))
    [t1 + t2, a, b, c, d + t1, e, f, g]
  | s => s

def shaBlock (h : List DWord) (block : List Byte) : List DWord :=
  let ws := (chunksOf 8 16 block).map (fun b => BitVec.ofNat 64 (beNat b))
  let st := (shaK.zip (shaSchedule ws 64).reverse).foldl shaRound h
  List.zipWith (· + ·) h st

/-- SHA-512 of a byte string (64 bytes). -/
def sha512 (bs : List Byte) : List Byte :=
  let p := shaPad bs
  ((chunksOf 128 (p.length + 1) p).foldl shaBlock shaH0).flatMap (fun x => beBytes 8 x.toNat)

end Sys2Proof.Machine
end

