-- ==== Sys2Proof/Machine/Columns.lean ====
section
/-!
DEFINITION. Sys2Proof/Machine/Columns.lean: the decoding of column streams (R179, R181–R193): Arrow sections, the
dictionary region, and Parquet pages with the Thrift compact protocol, LZ4_RAW, the RLE/bit-packed hybrid,
DELTA_BINARY_PACKED and BYTE_STREAM_SPLIT.
-/

namespace Sys2Proof.Machine

/-! ## Column entries (R178) -/

/-- A column entry's fields (R178). -/
structure ColEntry where
  ctype : Nat
  itype : Nat
  width : Nat
  inPort : Nat
  outPort : Nat
  emit : Bool
  nullable : Bool
  keep : Bool
  pageCrc : Bool
  bitOfs : Nat
  codec : Nat
  dictAddr : Nat
  dictBytes : Nat
  skip : Nat
  pages : Nat
  inBytes : Nat
  bad : Bool
  deriving DecidableEq, Repr

def colEntry (bs : List Byte) : ColEntry :=
  let w := leAt bs 0 8
  let d := leAt bs 8 8
  let g := leAt bs 0x10 8
  let n := leAt bs 0x18 8
  { ctype := bits w 63 56, itype := bits w 55 48, width := bits w 47 40, inPort := bits w 39 36, outPort := bits w 35 32
    emit := bitAt w 31, nullable := bitAt w 30, keep := bitAt w 29, pageCrc := bitAt w 28, bitOfs := bits w 27 25
    codec := bits w 24 22, dictAddr := bits d 26 0, dictBytes := bits d 63 32, skip := bits g 31 0, pages := bits g 47 32
    inBytes := bits n 31 0
    bad := bits w 21 0 != 0 || bits d 31 27 != 0 || bits g 63 48 != 0 || bits n 63 32 != 0
      || leNat ((bs.drop 0x20).take 32) != 0 }

/-- A listed column type (R179). -/
def ctypeListed (t : Nat) : Bool := (decide (1 ≤ t) && decide (t ≤ 0x0C)) || t == 0x10 || t == 0x11 || t == 0x12

/-- The types Parquet gives a physical type (R179). -/
def ctypeParquet (t : Nat) : Bool :=
  t == 0x01 || t == 0x04 || t == 0x05 || t == 0x0B || t == 0x0C || t == 0x10 || t == 0x11 || t == 0x12

def ctypeVar (t : Nat) : Bool := t == 0x10 || t == 0x11

/-- Value width in bytes of a fixed-width type; `width` for 0x12 (R179). -/
def ctypeWidth (t width : Nat) : Nat :=
  match t with
  | 0x02 => 1 | 0x06 => 1
  | 0x03 => 2 | 0x07 => 2 | 0x0A => 2
  | 0x04 => 4 | 0x08 => 4 | 0x0B => 4
  | 0x05 => 8 | 0x09 => 8 | 0x0C => 8
  | 0x12 => width
  | _ => 0

def itypeOk (t : Nat) : Bool := (decide (2 ≤ t) && decide (t ≤ 4)) || (decide (6 ≤ t) && decide (t ≤ 8))

/-- A failure of a column: the 64-row group that meets it, the code, and the page ordinal (R209, R211); `cut` says that
it is met because the bytes at hand end there (R698). -/
structure ColFail where
  group : Nat
  code : Nat
  page : Nat
  cut : Bool := false
  deriving DecidableEq, Repr

/-- A decoded column: values and codes of the curd's rows, its failure, the groups at which the pages parsed are reached,
and the bytes that a dictionary page leaves in the region. -/
structure ColRes where
  vals : List Val
  codes : List (Option Nat)
  fail : Option ColFail
  pages : List Nat := []
  region : Option (List Byte) := none
  deriving DecidableEq, Repr

/-! ## The dictionary region (R184) -/

structure Dict where
  count : Nat
  vals : List Val
  deriving DecidableEq, Repr

def align32 (n : Nat) : Nat := alignUp n 32

/-- A fixed-width value from bytes: binary types keep their bytes. -/
def valOfBytes (t : Nat) (bs : List Byte) : Val := if t = 0x12 then .str bs else .fixed (leNat bs)

/-- Consecutive pairs of offsets. -/
def pairsOf : List Int → List (Int × Int)
  | a :: b :: r => (a, b) :: pairsOf (b :: r)
  | _ => []

/-- The values between offsets of a data part. -/
def sliceVals (data : List Byte) (offs : List Int) : List Val :=
  (pairsOf offs).map (fun p => .str ((data.drop p.1.toNat).take (p.2 - p.1).toNat))

/-- Read the dictionary region; none is 0x0204 (R184). A COUNT outside its range counts among those conditions (DESIGN
CHOICE, log 75: the rule gives the range and no code). -/
def readDict (bs : List Byte) (ctype width cap : Nat) : Option Dict :=
  let count := leAt bs 0 4
  let dataBytes := leAt bs 8 4
  if leAt bs 4 1 ≠ ctype ∨ leAt bs 5 1 ≠ width ∨ leAt bs 6 2 ≠ 0 ∨ leNat ((bs.drop 0x0C).take 20) ≠ 0 ∨ count = 0
      ∨ 1048576 < count then none
  else if ctypeVar ctype then
    let olen := align32 (4 * (count + 1))
    if cap < 0x20 + olen + dataBytes then none
    else
      let offs := (upto (count + 1)).map (fun i => sext 32 (leAt bs (0x20 + 4 * i) 4))
      if nth 1 offs 0 ≠ 0 ∨ (pairsOf offs).any (fun p => decide (p.2 < p.1)) ∨ nth 0 offs count ≠ (dataBytes : Int) then none
      else some ⟨count, sliceVals (bs.drop (0x20 + olen)) offs⟩
  else
    let w := ctypeWidth ctype width
    if cap < 0x20 + count * w then none
    else some ⟨count, (chunksOf w count ((bs.drop 0x20).take (count * w))).map (valOfBytes ctype)⟩

/-- Open bytes (R213, R257). -/
def tornBytes (seed a n : Nat) : List Byte := (upto n).map (fun k => Config.torn seed (a + k))

/-- An open value in the place of a dictionary's entry i. -/
def tornVal (seed ctype width cap i : Nat) : Val :=
  let a := 2 ^ 24 * i
  if ctypeVar ctype then .str (tornBytes seed (a + 4) (leNat (tornBytes seed a 4) % (cap + 1)))
  else valOfBytes ctype (tornBytes seed a (ctypeWidth ctype width))

/-- The dictionary as decoded through a region that another press writes meanwhile: its values are open (R213). -/
def tornDict (torn : Option Nat) (ctype width cap : Nat) (d : Dict) : Dict :=
  match torn with
  | none => d
  | some n => { d with vals := d.vals.zipIdx.map (fun p => tornVal n ctype width cap p.2) }

/-- A dictionary region's bytes for decoded values (R190). DATA_BYTES is 0 for fixed-width entries (DESIGN CHOICE, log
75: R184 gives such a region no data part). -/
def dictRegion (ctype width : Nat) (vals : List Val) : List Byte :=
  let bytes := fun (v : Val) => match v with
    | .str b => b
    | .fixed x => leBytes (ctypeWidth ctype width) x
    | .null => []
  let data := vals.flatMap bytes
  let hdr := fun (db : Nat) => leBytes 4 vals.length ++ leBytes 1 ctype ++ leBytes 1 width ++ leBytes 2 0 ++ leBytes 4 db
    ++ List.replicate 20 0
  if ctypeVar ctype then
    let offs := vals.foldl (fun (p : List Nat × Nat) v => (p.1 ++ [p.2 + (bytes v).length], p.2 + (bytes v).length)) ([0], 0)
    hdr data.length ++ takePad 0 (align32 (4 * (vals.length + 1))) (offs.1.flatMap (leBytes 4)) ++ data
  else hdr 0 ++ data

/-! ## Arrow (R181–R184) -/

/-- A bit of a bitmap section at byte offset `o` (R182). -/
def bitmapAt (bs : List Byte) (o i : Nat) : Bool := bitAt (leAt bs (o + i / 8) 1) (i % 8)

/-- One Arrow row: the value, its code for a dictionary column, or a failure code; 0x0205 stands for bytes that are not
at hand. -/
def arrowRow (e : ColEntry) (rows : Nat) (bs : List Byte) (dict : Option Dict) (i : Nat) : Except Nat (Val × Option Nat) :=
  let vlen := if e.nullable then align32 (cdiv (e.bitOfs + rows) 8) else 0
  let var := ctypeVar e.ctype && e.itype == 0
  let olen := if var then align32 (4 * (rows + 1)) else 0
  let have_ := bs.length
  let valid := if e.nullable then bitmapAt bs 0 (e.bitOfs + i) else true
  if e.nullable && decide (have_ ≤ (e.bitOfs + i) / 8) then .error 0x0205
  else if e.itype ≠ 0 then
    let w := ctypeWidth e.itype 0
    let o := vlen + i * w
    if have_ < o + w then .error 0x0205
    else if !valid then .ok (.null, none)
    else
      let raw := leAt bs o w
      let x : Int := if e.itype ≤ 4 then sext (8 * w) raw else raw
      match dict with
      | none => .error 0x0204
      | some d => if x < 0 ∨ (d.count : Int) ≤ x then .error 0x0207 else .ok (nth .null d.vals x.toNat, some x.toNat)
  else if var then
    if have_ < vlen + 4 * (i + 2) then .error 0x0205
    else
      let off := fun k => sext 32 (leAt bs (vlen + 4 * k) 4)
      let o0 := off 0
      if o0 < 0 ∨ off (i + 1) < off i then .error 0x0206
      else if !valid then .ok (.null, none)
      else
        let a := vlen + olen + (off i - o0).toNat
        let n := (off (i + 1) - off i).toNat
        -- a value that ends beyond offset[ROWS] has a decreasing offset after it
        if off rows < off (i + 1) then .error 0x0206
        else if 0 < n ∧ have_ < a + n then .error 0x0205 else .ok (.str ((bs.drop a).take n), none)
  else if e.ctype = 0x01 then
    if have_ ≤ vlen + (e.bitOfs + i) / 8 then .error 0x0205
    else if !valid then .ok (.null, none)
    else .ok (.fixed (b2n (bitmapAt bs vlen (e.bitOfs + i))), none)
  else
    let w := ctypeWidth e.ctype e.width
    let o := vlen + i * w
    if have_ < o + w then .error 0x0205
    else if !valid then .ok (.null, none)
    else .ok (valOfBytes e.ctype ((bs.drop o).take w), none)

/-- The padded sections' sum (R181). -/
def arrowBytes (e : ColEntry) (rows : Nat) (bs : List Byte) : Int :=
  let vlen := if e.nullable then align32 (cdiv (e.bitOfs + rows) 8) else 0
  if e.itype ≠ 0 then vlen + align32 (rows * ctypeWidth e.itype 0)
  else if ctypeVar e.ctype then
    let olen := align32 (4 * (rows + 1))
    let off := fun k => sext 32 (leAt bs (vlen + 4 * k) 4)
    let d := off rows - off 0
    if d < 0 then -1 else vlen + olen + align32 d.toNat
  else if e.ctype = 0x01 then vlen + align32 (cdiv (e.bitOfs + rows) 8)
  else vlen + align32 (rows * ctypeWidth e.ctype e.width)

/-- Rows in order up to the first failure, with that row's number. -/
def rowsUntil {α : Type} (f : Nat → Except Nat α) : Nat → Nat → List α × Option (Nat × Nat)
  | 0, _ => ([], none)
  | n + 1, i =>
    match f i with
    | .error code => ([], some (i, code))
    | .ok v =>
      let r := rowsUntil f n (i + 1)
      (v :: r.1, r.2)

/-- The rows of an Arrow column up to its first failure. -/
def arrowRows (e : ColEntry) (rows : Nat) (bs : List Byte) (dict : Option Dict) : ColRes :=
  let r := rowsUntil (arrowRow e rows bs dict) rows 0
  ⟨r.1.map (·.1), r.1.map (·.2), r.2.map (fun f => ⟨f.1 / 64, f.2, 0xFFFF, f.2 == 0x0205⟩), [], none⟩

def decodeArrow (e : ColEntry) (rows : Nat) (bs region : List Byte) (torn : Option Nat) : ColRes :=
  let dict := if e.itype ≠ 0 then (readDict region e.ctype e.width e.dictBytes).map (tornDict torn e.ctype e.width e.dictBytes)
    else none
  let var := ctypeVar e.ctype && e.itype == 0
  let vlen := if e.nullable then align32 (cdiv (e.bitOfs + rows) 8) else 0
  let fail := fun code cut => (⟨[], [], some ⟨0, code, 0xFFFF, cut⟩, [], none⟩ : ColRes)
  if e.itype ≠ 0 ∧ dict = none then fail 0x0204 false
  else if var ∧ bs.length < vlen + 4 * (rows + 1) then fail 0x0205 true
  else if var ∧ sext 32 (leAt bs vlen 4) < 0 then fail 0x0206 false
  -- a negative data length comes from decreasing offsets, which their row reports
  else if arrowBytes e rows bs ≠ (e.inBytes : Int) ∧ 0 ≤ arrowBytes e rows bs then fail 0x0205 false
  else arrowRows e rows bs dict

/-! ## The Thrift compact protocol (R185, R186) -/

inductive TV where
  | int (z : Int)
  | bool (b : Bool)
  | fields (l : List (Nat × TV))
  | other

/-- An unsigned varint of at most `f` bytes; the error is true where the bytes end before it does. -/
def varintE : Nat → List Byte → Except Bool (Nat × List Byte)
  | 0, _ => .error false
  | _, [] => .error true
  | f + 1, b :: r =>
    if b.toNat < 128 then .ok (b.toNat, r)
    else match varintE f r with
      | .error c => .error c
      | .ok (x, r') => .ok (b.toNat % 128 + 128 * x, r')

/-- A varint of at most ten bytes, none where it is not whole. -/
def varint (f : Nat) (bs : List Byte) : Option (Nat × List Byte) :=
  match varintE f bs with
  | .error _ => none
  | .ok p => some p

def zigzag (x : Nat) : Int := if x % 2 = 0 then (x / 2 : Nat) else -((x / 2 : Nat) : Int) - 1

/-- Drop `n` bytes that must be there. -/
def dropB (n : Nat) (bs : List Byte) : Except Bool (List Byte) := if bs.length < n then .error true else .ok (bs.drop n)

mutual
/-- A value of a compact type; the error is true where the bytes end first, false where they cannot be parsed. -/
def thriftVal (fuel ty : Nat) (bs : List Byte) : Except Bool (TV × List Byte) :=
  match fuel with
  | 0 => .error false
  | f + 1 =>
    match ty with
    | 1 => .ok (.bool true, bs)
    | 2 => .ok (.bool false, bs)
    | 3 => (dropB 1 bs).map (fun r => (.int (sext 8 (leAt bs 0 1)), r))
    | 4 => (varintE 10 bs).map (fun p => (.int (zigzag p.1), p.2))
    | 5 => (varintE 10 bs).map (fun p => (.int (zigzag p.1), p.2))
    | 6 => (varintE 10 bs).map (fun p => (.int (zigzag p.1), p.2))
    | 7 => (dropB 8 bs).map (fun r => (.other, r))
    | 8 =>
      match varintE 10 bs with
      | .error c => .error c
      | .ok (n, r) => (dropB n r).map (fun r => (.other, r))
    | 9 => thriftList f bs
    | 10 => thriftList f bs
    | 11 =>
      match varintE 10 bs with
      | .error c => .error c
      | .ok (0, r) => .ok (.other, r)
      | .ok (n, b :: r) => (thriftMany f n [b.toNat / 16, b.toNat % 16] [] r).map (fun r => (.other, r))
      | .ok (_, []) => .error true
    | 12 => (thriftFields f 0 bs).map (fun p => (.fields p.1, p.2))
    | _ => .error false
/-- A list or set: its values are skipped. -/
def thriftList (fuel : Nat) (bs : List Byte) : Except Bool (TV × List Byte) :=
  match fuel with
  | 0 => .error false
  | f + 1 =>
    match bs with
    | [] => .error true
    | b :: r =>
      let ty := b.toNat % 16
      if b.toNat / 16 < 15 then (thriftMany f (b.toNat / 16) [ty] [] r).map (fun r => (.other, r))
      else match varintE 10 r with
        | .error c => .error c
        | .ok (n, r') => (thriftMany f n [ty] [] r').map (fun r => (.other, r))
/-- `n` rounds of values of the given types; a Boolean element takes one byte. -/
def thriftMany (fuel n : Nat) (tys left : List Nat) (bs : List Byte) : Except Bool (List Byte) :=
  match fuel with
  | 0 => .error false
  | f + 1 =>
    match left with
    | ty :: more =>
      if ty = 1 ∨ ty = 2 then
        match dropB 1 bs with
        | .error c => .error c
        | .ok r => thriftMany f n tys more r
      else match thriftVal f ty bs with
        | .error c => .error c
        | .ok (_, r) => thriftMany f n tys more r
    | [] =>
      match n with
      | 0 => .ok bs
      | k + 1 => thriftMany f k tys tys bs
/-- The fields of a struct up to its stop byte. -/
def thriftFields (fuel last : Nat) (bs : List Byte) : Except Bool (List (Nat × TV) × List Byte) :=
  match fuel with
  | 0 => .error false
  | f + 1 =>
    match bs with
    | [] => .error true
    | b :: r =>
      if b.toNat = 0 then .ok ([], r)
      else
        let ty := b.toNat % 16
        let delta := b.toNat / 16
        let head : Except Bool (Nat × List Byte) :=
          if delta ≠ 0 then .ok (last + delta, r)
          else (varintE 3 r).map (fun p => ((zigzag p.1).toNat, p.2))
        match head with
        | .error c => .error c
        | .ok (id, r1) =>
          match thriftVal f ty r1 with
          | .error c => .error c
          | .ok (v, r2) =>
            match thriftFields f id r2 with
            | .error c => .error c
            | .ok (vs, r3) => .ok ((id, v) :: vs, r3)
end

def tvFind (l : List (Nat × TV)) (id : Nat) : Option TV := (l.find? (fun p => p.1 == id)).map (·.2)

def tvInt (l : List (Nat × TV)) (id : Nat) : Option Int :=
  match tvFind l id with
  | some (.int z) => some z
  | _ => none

def tvFields (l : List (Nat × TV)) (id : Nat) : Option (List (Nat × TV)) :=
  match tvFind l id with
  | some (.fields m) => some m
  | _ => none

/-! ## Page data -/

/-- LZ4_RAW: one block decoded to at most `cap` bytes (R188). -/
def lz4Copy (out : Array Byte) (dist : Nat) : Nat → Array Byte
  | 0 => out
  | n + 1 => lz4Copy (out.push (out.getD (out.size - dist) 0)) dist n

/-- A length nibble extended by bytes of 255. -/
def lz4Len : Nat → Nat → List Byte → Option (Nat × List Byte)
  | 0, _, _ => none
  | _, _, [] => none
  | f + 1, n, b :: r => if b.toNat = 255 then lz4Len f (n + 255) r else some (n + b.toNat, r)

def lz4 (cap : Nat) : Nat → Array Byte → List Byte → Option (List Byte)
  | 0, _, _ => none
  | _, _, [] => none
  | f + 1, out, t :: r =>
    let lit := if t.toNat / 16 = 15 then lz4Len (r.length + 1) 15 r else some (t.toNat / 16, r)
    match lit with
    | none => none
    | some (n, r1) =>
      if r1.length < n ∨ cap < out.size + n then none
      else
        let out1 := (r1.take n).foldl (fun (o : Array Byte) b => o.push b) out
        match r1.drop n with
        | [] => some out1.toList
        | [_] => none
        | d0 :: d1 :: r2 =>
          let dist := d0.toNat + 256 * d1.toNat
          let ml := if t.toNat % 16 = 15 then lz4Len (r2.length + 1) 15 r2 else some (t.toNat % 16, r2)
          match ml with
          | none => none
          | some (m, r3) =>
            if dist = 0 ∨ out1.size < dist ∨ cap < out1.size + m + 4 then none
            else lz4 cap f (lz4Copy out1 dist (m + 4)) r3

/-- A page part decompressed to exactly `size` bytes by the column's codec (R188). -/
def decompress (codec size : Nat) (bs : List Byte) : Option (List Byte) :=
  if codec = 0 then (if bs.length = size then some bs else none)
  else match lz4 size (bs.length + 1) #[] bs with
    | some out => if out.length = size then some out else none
    | none => none

/-- Values of width `bw` packed from bit 0. -/
def unpackBits (bw n : Nat) (bs : List Byte) : List Nat :=
  let x := leNat bs
  (upto n).map (fun i => x / 2 ^ (bw * i) % 2 ^ bw)

/-- The RLE/bit-packed hybrid: `n` values of width `bw`. -/
def hybrid (bw : Nat) : Nat → Nat → List Byte → Option (List Nat)
  | _, 0, _ => some []
  | 0, _, _ => none
  | f + 1, n, bs =>
    match varint 10 bs with
    | none => none
    | some (h, r) =>
      if h % 2 = 1 then
        let groups := h / 2
        let nb := groups * bw
        let k := min n (groups * 8)
        if groups = 0 ∨ r.length < nb then none
        else (hybrid bw f (n - k) (r.drop nb)).map (fun t => unpackBits bw k (r.take nb) ++ t)
      else
        let run := h / 2
        let nb := cdiv bw 8
        let k := min n run
        if run = 0 ∨ r.length < nb then none
        else (hybrid bw f (n - k) (r.drop nb)).map (fun t => List.replicate k (leNat (r.take nb)) ++ t)

/-- BYTE_ARRAY values in PLAIN encoding: a 4-byte length before each. -/
def plainVar : Nat → List Byte → Option (List Val)
  | 0, _ => some []
  | n + 1, bs =>
    let l := leAt bs 0 4
    if bs.length < 4 + l then none
    else (plainVar n (bs.drop (4 + l))).map (fun t => .str ((bs.drop 4).take l) :: t)

/-- PLAIN values of a physical type (R187). -/
def plainVals (ctype width n : Nat) (bs : List Byte) : Option (List Val) :=
  if ctypeVar ctype then plainVar n bs
  else if ctype = 0x01 then
    if bs.length < cdiv n 8 then none else some ((unpackBits 1 n bs).map (fun x => .fixed x))
  else
    let w := ctypeWidth ctype width
    if bs.length < n * w then none else some ((chunksOf w n (bs.take (n * w))).map (valOfBytes ctype))

/-- BYTE_STREAM_SPLIT: byte k of value i lies at k × n + i. -/
def splitVals (ctype width n : Nat) (bs : List Byte) : Option (List Val) :=
  let w := ctypeWidth ctype width
  if bs.length < n * w then none
  else
    let a := bs.toArray
    some ((upto n).map (fun i => valOfBytes ctype ((upto w).map (fun k => a.getD (k * n + i) 0))))

/-- One miniblock after another of a DELTA_BINARY_PACKED block (R187): deltas are added to the last value, wrapping in
the width of the type. -/
def deltaMini (w per : Nat) (minDelta : Int) : List Nat → Nat → Int → List Byte → Except Nat (List Int × Int × Nat × List Byte)
  | [], left, last, bs => .ok ([], last, left, bs)
  | bw :: bws, left, last, bs =>
    if left = 0 then .ok ([], last, 0, bs)
    else if w < bw then .error 0x0215
    else
      let nb := per * bw / 8
      if bs.length < nb then .error 0x0215
      else
        let k := min per left
        let ds := unpackBits bw k (bs.take nb)
        let r := ds.foldl (fun (p : List Int × Int) (d : Nat) =>
          let v := sext w (wrapInt w (p.2 + minDelta + (d : Int)))
          (p.1 ++ [v], v)) ([], last)
        match deltaMini w per minDelta bws (left - k) r.2 (bs.drop nb) with
        | .error e => .error e
        | .ok (vs, l, n, rest) => .ok (r.1 ++ vs, l, n, rest)

def deltaBlocks (w minis per : Nat) : Nat → Nat → Int → List Byte → Except Nat (List Int)
  | _, 0, _, _ => .ok []
  | 0, _, _, _ => .error 0x0215
  | f + 1, left, last, bs =>
    match varint 10 bs with
    | none => .error 0x0215
    | some (z, r) =>
      if r.length < minis then .error 0x0215
      else
        match deltaMini w per (zigzag z) ((r.take minis).map (·.toNat)) left last (r.drop minis) with
        | .error e => .error e
        | .ok (vs, l, n, rest) =>
          match deltaBlocks w minis per f n l rest with
          | .error e => .error e
          | .ok t => .ok (vs ++ t)

/-- DELTA_BINARY_PACKED values: geometry beyond the limits is 0x021A, anything that does not decode is 0x0215. -/
def deltaVals (w n : Nat) (bs : List Byte) : Except Nat (List Val) :=
  match varint 10 bs with
  | none => .error 0x0215
  | some (block, r1) =>
    match varint 10 r1 with
    | none => .error 0x0215
    | some (minis, r2) =>
      match varint 10 r2 with
      | none => .error 0x0215
      | some (total, r3) =>
        match varint 10 r3 with
        | none => .error 0x0215
        | some (z, r4) =>
          if 4096 < block ∨ 64 < minis then .error 0x021A
          else if minis = 0 ∨ block = 0 ∨ block % minis ≠ 0 ∨ total ≠ n then .error 0x0215
          else if n = 0 then .ok []
          else
            let first := sext w (wrapInt w (zigzag z))
            match deltaBlocks w minis (block / minis) (bs.length + 1) (n - 1) first r4 with
            | .error e => .error e
            | .ok vs => .ok ((first :: vs).map (fun v => .fixed (wrapInt w v)))

/-- The values of a data page that are not null: values, and codes for RLE_DICTIONARY (R187, R190). An index not below
COUNT stays in its row, which fails (R209). -/
def pageValues (e : ColEntry) (enc : Int) (n : Nat) (bs : List Byte) (dict : Option Dict) :
    Except Nat (List (Val × Option Nat)) :=
  let plain := fun (o : Option (List Val)) => match o with
    | some vs => .ok (vs.map (fun v => (v, none)))
    | none => .error 0x0215
  match enc with
  | 0 => plain (plainVals e.ctype e.width n bs)
  | 3 =>
    if e.ctype ≠ 0x01 then .error 0x0212
    else if bs.length < 4 ∨ bs.length < 4 + leAt bs 0 4 then .error 0x0215
    else plain ((hybrid 1 (bs.length + 1) n ((bs.drop 4).take (leAt bs 0 4))).map (fun l => l.map (fun x => .fixed x)))
  | 5 =>
    if e.ctype = 0x04 ∨ e.ctype = 0x05 then
      match deltaVals (8 * ctypeWidth e.ctype 0) n bs with
      | .error c => .error c
      | .ok vs => .ok (vs.map (fun v => (v, none)))
    else .error 0x0212
  | 8 =>
    if e.ctype = 0x01 then .error 0x0212
    else match dict with
      | none => .error 0x0218
      | some d =>
        match bs with
        | [] => if n = 0 then .ok [] else .error 0x0215
        | b :: r =>
          if 32 < b.toNat then .error 0x0215
          else match hybrid b.toNat (r.length + 1) n r with
            | none => .error 0x0215
            | some is => .ok (is.map (fun i => (nth .null d.vals i, some i)))
  | 9 =>
    if e.ctype = 0x0B ∨ e.ctype = 0x0C ∨ e.ctype = 0x04 ∨ e.ctype = 0x05 ∨ e.ctype = 0x12 then
      plain (splitVals e.ctype e.width n bs)
    else .error 0x0212
  | _ => .error 0x0212

/-- Lay the non-null values over the definition levels. -/
def layLevels : List Nat → List (Val × Option Nat) → List (Val × Option Nat)
  | [], _ => []
  | 0 :: r, vs => (.null, none) :: layLevels r vs
  | _ :: r, v :: vs => v :: layLevels r vs
  | _ :: r, [] => (.null, none) :: layLevels r []

/-- A parsed page header (R186). -/
structure PageHdr where
  ty : Nat
  usize : Nat
  csize : Nat
  crc : Option Nat
  sub : List (Nat × TV)

/-- Parse a page header: the header and the bytes after it, or the code, and whether the bytes at hand end within it
(R185, R186). -/
def pageHeader (bs : List Byte) : Except (Nat × Bool) (PageHdr × List Byte) :=
  match thriftFields 65536 0 (bs.take 16384) with
  | .error ends => if ends && decide (bs.length < 16384) then .error (0x0205, true) else .error (0x0210, false)
  | .ok (fs, rest) =>
    let used := (bs.take 16384).length - rest.length
    match tvInt fs 1, tvInt fs 2, tvInt fs 3 with
    | some ty, some u, some c =>
      if ty ≠ 0 ∧ ty ≠ 2 ∧ ty ≠ 3 then .error (0x0211, false)
      else if u < 0 ∨ 2097152 < u ∨ c < 0 ∨ 2097152 < c then .error (0x021A, false)
      else
        let id := if ty = 0 then 5 else if ty = 2 then 7 else 8
        match tvFields fs id with
        | none => .error (0x0210, false)
        | some sub => .ok (⟨ty.toNat, u.toNat, c.toNat, (tvInt fs 4).map (fun z => wrapInt 32 z), sub⟩, bs.drop used)
    | _, _, _ => .error (0x0210, false)

/-- A data page's rows (R187–R190): values with codes and the encoding, or the code of its failure. With NULLABLE 0 no
levels are decoded: a v1 level encoding is not looked at, and the definition bytes a v2 header counts are passed over
(DESIGN CHOICE, log 75: R189 says such pages carry none). -/
def dataPage (e : ColEntry) (h : PageHdr) (data : List Byte) (dict : Option Dict) : 
    Except Nat (List (Val × Option Nat) × Int) :=
  if h.ty = 0 then
    match tvInt h.sub 1, tvInt h.sub 2, tvInt h.sub 3 with
    | some n, some enc, some lenc =>
      if n < 0 then .error 0x0215
      else if e.nullable ∧ lenc ≠ 3 then .error 0x0214
      else match decompress e.codec h.usize data with
        | none => .error 0x0215
        | some bs =>
          let n := n.toNat
          if e.nullable then
            if bs.length < 4 ∨ bs.length < 4 + leAt bs 0 4 then .error 0x0215
            else match hybrid 1 (bs.length + 1) n ((bs.drop 4).take (leAt bs 0 4)) with
              | none => .error 0x0215
              | some lv =>
                if lv.any (fun l => decide (1 < l)) then .error 0x0214
                else match pageValues e enc (lv.filter (· = 1)).length (bs.drop (4 + leAt bs 0 4)) dict with
                  | .error c => .error c
                  | .ok vs => .ok (layLevels lv vs, enc)
          else match pageValues e enc n bs dict with
            | .error c => .error c
            | .ok vs => .ok (vs, enc)
    | _, _, _ => .error 0x0210
  else
    match tvInt h.sub 1, tvInt h.sub 2, tvInt h.sub 3, tvInt h.sub 4, tvInt h.sub 5, tvInt h.sub 6 with
    | some n, some nulls, some nrows, some enc, some dl, some rl =>
      if rl ≠ 0 then .error 0x0214
      else if n < 0 ∨ dl < 0 ∨ nrows ≠ n ∨ (h.csize : Int) < dl ∨ (h.usize : Int) < dl then .error 0x0215
      else
        let comp := match tvFind h.sub 7 with
          | some (.bool b) => b
          | _ => true
        let n := n.toNat
        let dl := dl.toNat
        let body := data.drop dl
        match (if comp then decompress e.codec (h.usize - dl) body else some body) with
        | none => .error 0x0215
        | some bs =>
          let lv := if e.nullable then hybrid 1 (dl + 1) n (data.take dl) else some (List.replicate n 1)
          match lv with
          | none => .error 0x0215
          | some lv =>
            if lv.any (fun l => decide (1 < l)) then .error 0x0214
            else if ((lv.filter (· = 0)).length : Int) ≠ nulls then .error 0x0215
            else match pageValues e enc (lv.filter (· = 1)).length bs dict with
              | .error c => .error c
              | .ok vs => .ok (layLevels lv vs, enc)
    | _, _, _, _, _, _ => .error 0x0210

/-- The state of a Parquet column's decoding: rows so far, the dictionary region, whether a dictionary page wrote it, the
pages parsed and the groups that reach them, and the bytes used. -/
structure PqState where
  rows : List (Val × Option Nat) := []
  region : List Byte
  wrote : Bool := false
  page : Nat := 0
  at_ : List Nat := []
  used : Nat := 0

/-- What a Parquet column is decoded with: its entry, the curd's rows, whether its dictionary codes are asked for
(R193), whether the region left by an earlier curd holds an uncorrectable error, and the open number where another press
writes the region (R213). -/
structure PqEnv where
  e : ColEntry
  rows : Nat
  codes : Bool
  lost : Bool
  torn : Option Nat

/-- The group that needs row r of the pages (R192). -/
def pqGroup (v : PqEnv) (r : Nat) : Nat := (r - v.e.skip) / 64

/-- A dictionary page decoded into its region (R190). -/
def dictPage (v : PqEnv) (h : PageHdr) (data : List Byte) : Except Nat (List Byte) :=
  match tvInt h.sub 1, tvInt h.sub 2 with
  | some cnt, some enc =>
    if enc ≠ 0 then .error 0x0212
    else if cnt < 0 then .error 0x0215
    else match decompress v.e.codec h.usize data with
      | none => .error 0x0215
      | some bs =>
        match plainVals v.e.ctype v.e.width cnt.toNat bs with
        | none => .error 0x0215
        | some vs =>
          let reg := dictRegion v.e.ctype v.e.width vs
          if v.e.dictBytes < reg.length ∨ 1048576 < cnt then .error 0x0204 else .ok reg
  | _, _ => .error 0x0210

/-- The dictionary that an RLE_DICTIONARY page uses (R190, R692); none where the region's COUNT is zero. -/
def pageDict (v : PqEnv) (st : PqState) : Except Nat (Option Dict) :=
  if v.lost && !st.wrote then .error 0x020B
  else if leAt st.region 0 4 = 0 then .ok none
  else match readDict st.region v.e.ctype v.e.width v.e.dictBytes with
    | some d => .ok (some (tornDict v.torn v.e.ctype v.e.width v.e.dictBytes d))
    | none => .error 0x0204

/-- A data page's rows, and the first whose index is not below COUNT. -/
def pageRows (v : PqEnv) (st : PqState) (h : PageHdr) (data : List Byte) :
    Except Nat (List (Val × Option Nat) × Int × Option Nat) :=
  let usesDict := (if h.ty = 0 then tvInt h.sub 2 else tvInt h.sub 4) == some 8 && v.e.ctype != 0x01
  match (if usesDict then pageDict v st else .ok none) with
  | .error c => .error c
  | .ok d =>
    match dataPage v.e h data d with
    | .error c => .error c
    | .ok (vs, enc) =>
      let cnt := match d with
        | some d => d.count
        | none => 0
      .ok (vs, enc, if usesDict then firstIx (fun p => match p.2 with
        | some i => decide (cnt ≤ i)
        | none => false) vs else none)
where
  firstIx {α : Type} (f : α → Bool) (l : List α) : Option Nat := (l.zipIdx.find? (fun p => f p.1)).map (·.2)

/-- One page after another (R185, R190–R193). -/
def parquetPages (v : PqEnv) : Nat → PqState → List Byte → PqState × Option ColFail
  | 0, st, bs =>
    if bs.isEmpty && decide (v.e.inBytes ≤ st.used) then (st, none)
    else (st, some ⟨pqGroup v st.rows.length, 0x0205, st.page - 1, bs.isEmpty⟩)
  | n + 1, st, bs =>
    let r0 := st.rows.length
    let fail := fun code cut => (st, some (⟨pqGroup v r0, code, st.page, cut⟩ : ColFail))
    match pageHeader bs with
    | .error (c, cut) => fail c cut
    | .ok (h, r) =>
      if r.length < h.csize then fail 0x0205 true
      else
        let data := r.take h.csize
        let rest := r.drop h.csize
        let next := { st with page := st.page + 1, at_ := st.at_ ++ [pqGroup v r0], used := st.used + (bs.length - rest.length) }
        let crcBad := match h.crc with
          | some c => v.e.pageCrc && crc32 data != c
          | none => false
        if crcBad then fail 0x0216 false
        else if h.ty = 2 then
          if st.page ≠ 0 then fail 0x0218 false
          else match dictPage v h data with
            | .error c => fail c false
            | .ok reg => parquetPages v n { next with region := reg, wrote := true } rest
        else
          match pageRows v st h data with
          | .error c => fail c false
          | .ok (vs, enc, bad) =>
            let supplies := decide (0 < vs.length) && decide (v.e.skip < r0 + vs.length) && decide (r0 < v.e.skip + v.rows)
            if v.codes && supplies && enc != 8 then fail 0x0219 false
            else match bad with
              | some i => ({ next with rows := st.rows ++ vs.take i }, some ⟨pqGroup v (r0 + i), 0x0207, st.page, false⟩)
              | none => parquetPages v n { next with rows := st.rows ++ vs } rest

/-- Decode a Parquet column from the bytes of its stream. -/
def decodeParquet (v : PqEnv) (bs region : List Byte) : ColRes :=
  let (st, f) := parquetPages v v.e.pages { region := region } bs
  let mine := (st.rows.drop v.e.skip).take v.rows
  let short := if st.rows.length < v.e.skip + v.rows then
      some (⟨pqGroup v st.rows.length, 0x0217, 0xFFFF, false⟩ : ColFail) else none
  ⟨mine.map (·.1), mine.map (·.2), (match f with
    | some g => some g
    | none => short), st.at_, if st.wrote then some st.region else none⟩

end Sys2Proof.Machine
end

