-- ==== Sys2Proof/Machine/Engine.lean ====
section
/-!
DEFINITION. Sys2Proof/Machine/Engine.lean: what presses, ladles and graders share: taking input handles (R380, R381,
R698), obtaining output buffers under credits and putting them (R196, R382, R383), and binding ports (R694).
-/

namespace Sys2Proof.Machine

/-- The engine of a press, ladle or grader unit. -/
def engOf (x : Wheel) (u : UnitId) : Eng :=
  match u.cls with
  | 2 => pressOf x u.idx
  | 3 => ladleOf x u.idx
  | _ => graderOf x u.idx

def setEng (x : Wheel) (u : UnitId) (e : Eng) : Wheel :=
  match u.cls with
  | 2 => setPress x u.idx e
  | 3 => setLadle x u.idx e
  | _ => setGrader x u.idx e

def onEng (x : Wheel) (u : UnitId) (f : Eng → Eng) : Wheel := setEng x u (f (engOf x u))

/-- The hoop of a port, none where the record leaves the port unbound. -/
def portHoop (l : List (Nat × Nat)) (p : Nat) : Option Nat := (l.find? (fun q => q.1 == p)).map (·.2)

/-- Bind one port for an operation of context `ctx`; none is a port conflict (R694). -/
def bindPort (x : Wheel) (u : UnitId) (ctx : Nat) (consumer : Bool) (h : Option Nat) : Option Wheel :=
  match h with
  | none => none
  | some h =>
    let y := hoopOf x h
    if y.owner != some ctx then none
    else if consumer then (if canBind y.cons u then some (bindCons x h u) else none)
    else (if canBind y.prod u then some (bindProd x h u) else none)

/-- Bind ports in order, each with the entry it belongs to; the error is the entry of the first port conflict. -/
def bindMany (u : UnitId) (ctx : Nat) (consumer : Bool) : List (Nat × Option Nat) → Wheel → Except Nat Wheel
  | [], x => .ok x
  | (k, h) :: r, x =>
    match bindPort x u ctx consumer h with
    | none => .error k
    | some x' => bindMany u ctx consumer r x'

/-- Count in counter `k`; 16 stands for no counter. -/
def bumpK (r : Regs) (k n : Nat) : Regs := if k < 16 then bump r k n else r

/-! ## Input -/

/-- The offset of the first byte of `n` at `a` that a double-bit error loses (R112). -/
def caveLostAt (x : Wheel) (a n : Nat) : Option Nat :=
  (x.caveBad.find? (fun c => c.2 == 2 && decide (a / 8 ≤ c.1) && decide (c.1 * 8 < a + n))).map (fun c => c.1 * 8 - a)

/-- Take the head handle of a port's hoop: its bytes, up to `need` in all, join the port's input, and the buffer is
released. Of a handle with ERR no byte is used. -/
def engTake (x : Wheel) (u : UnitId) (port h need kIn : Nat) : Wheel :=
  match (hoopOf x h).q with
  | [] => x
  | hd :: r =>
    let e := engOf x u
    let p : InPort := tget {} e.acc port
    let n := min hd.len (need - p.got)
    let lost := caveLostAt x hd.addr n
    let keep := if p.lost || hd.err then 0 else lost.getD n
    let p' : InPort :=
      { bytes := p.bytes ++ caveRead x hd.addr keep, got := p.got + hd.len, last := hd.last || hd.err
        err := p.err || hd.err, lost := p.lost || (lost.isSome && !hd.err) }
    let x1 := caveCorrect (onHoop x h (fun y => { y with q := r })) hd.addr n
    let x2 := hoopRelease x1 h (bufIndex (hoopOf x1 h) hd.addr)
    onEng x2 u (fun e => { e with acc := tset {} e.acc port p', irrev := true, regs := bumpK e.regs kIn n })

/-- The input of a port is complete: `need` bytes, or the end of the transfer. -/
def portDone (e : Eng) (port need : Nat) : Bool :=
  let p : InPort := tget {} e.acc port
  decide (need ≤ p.got) || p.last

/-- Take handles while the port needs bytes and its hoop holds handles. -/
def pullPort (u : UnitId) (port need kIn : Nat) : Nat → Wheel → Wheel
  | 0, x => x
  | n + 1, x =>
    if portDone (engOf x u) port need then x
    else match portHoop (engOf x u).inP port with
      | none => x
      | some h => if (hoopOf x h).q.isEmpty then x else pullPort u port need kIn n (engTake x u port h need kIn)

/-- Take the input of several ports, each with the bytes it needs. -/
def pullAll (u : UnitId) (kIn : Nat) (ps : List (Nat × Nat)) (x : Wheel) : Wheel :=
  ps.foldl (fun x p =>
    match portHoop (engOf x u).inP p.1 with
    | none => x
    | some h => pullPort u p.1 p.2 kIn ((hoopOf x h).q.length + 1) x) x

/-! ## Output -/

/-- The hoop of an output port and the bytes of one of its buffers. -/
def outBytes (x : Wheel) (e : Eng) (port : Nat) : Nat :=
  match portHoop e.outP port with
  | some h => bufBytes (hoopOf x h)
  | none => 0

/-- A stream of bytes cut in buffers of its port's hoop (R196); an empty stream has none. -/
def outStream (x : Wheel) (e : Eng) (port : Nat) (bs : List Byte) : OutStream :=
  let n := outBytes x e port
  { port := port, bufs := if n = 0 then [bs] else chunksOf n (bs.length / n + 1) bs }

/-- The stream needs more buffers than its port's pool holds in total. -/
def outTooLong (x : Wheel) (e : Eng) (o : OutStream) : Bool :=
  match portHoop e.outP o.port with
  | some h => decide ((hoopOf x h).nbuf < o.bufs.length)
  | none => false

/-- Buffers an engine still needs on a port. -/
def outNeed (e : Eng) (port : Nat) : Nat :=
  (e.outs.filter (fun o => o.port == port)).foldl (fun n o => n + o.bufs.length) 0
    - (e.held.filter (fun p => p.1 == port)).length

/-- Obtain one free buffer on a port (R382). -/
def engObtain (x : Wheel) (u : UnitId) (port : Nat) : Wheel :=
  match portHoop (engOf x u).outP port with
  | none => x
  | some h =>
    match (hoopOf x h).free with
    | [] => x
    | i :: _ => onEng (hoopObtain x h 1) u (fun e => { e with held := e.held ++ [(port, i)] })

def obtainPort (u : UnitId) (port : Nat) : Nat → Wheel → Wheel
  | 0, x => x
  | n + 1, x => obtainPort u port n (engObtain x u port)

/-- Obtain every buffer that can be had now. -/
def obtainAll (x : Wheel) (u : UnitId) : Wheel :=
  (engOf x u).outs.foldl (fun x o => obtainPort u o.port (outNeed (engOf x u) o.port) x) x

/-- Every output buffer is held. -/
def outsHeld (e : Eng) : Bool := e.outs.all (fun o => outNeed e o.port == 0)

/-- Write and put one buffer; with `fill` the bytes after `bs` become zero. -/
def putBuffer (x : Wheel) (u : UnitId) (kOut port : Nat) (bs : List Byte) (last err fill : Bool) : Wheel :=
  let e := engOf x u
  match portHoop e.outP port, e.held.find? (fun p => p.1 == port) with
  | some h, some (_, i) =>
    let a := bufAddr (hoopOf x h) i
    let x1 := caveWrite x a (if fill then takePad 0 (outBytes x e port) bs else bs)
    let x2 := hoopPut x1 h u ⟨err, last, h, bs.length, a⟩
    onEng x2 u (fun e => { e with held := e.held.erase (port, i), irrev := true, regs := bumpK e.regs kOut bs.length })
  | _, _ => x

def putBufs (u : UnitId) (kOut : Nat) (o : OutStream) : List (List Byte) → Wheel → Wheel
  | [], x => x
  | [b], x => putBuffer x u kOut o.port b o.last o.err o.fill
  | b :: r, x => putBufs u kOut o r (putBuffer x u kOut o.port b false false o.fill)

/-- Put every stream in order, the buffers of each in stream order. -/
def putAll (x : Wheel) (u : UnitId) (kOut : Nat) : Wheel :=
  let outs := (engOf x u).outs
  onEng (outs.foldl (fun x o => putBufs u kOut o o.bufs x) x) u (fun e => { e with outs := [] })

/-- Return the output buffers an engine holds to their pools. -/
def returnHeld (x : Wheel) (u : UnitId) : Wheel :=
  let e := engOf x u
  onEng (e.held.foldl (fun x p =>
    match portHoop e.outP p.1 with
    | some h => hoopReturn x h p.2
    | none => x) x) u (fun e => { e with held := [] })

/-- Put the buffers of eager streams, each as soon as it is obtained. -/
def eagerPut (u : UnitId) (kOut : Nat) : Nat → Wheel → Wheel
  | 0, x => x
  | n + 1, x =>
    match (engOf x u).outs with
    | [] => x
    | o :: r =>
      if !o.eager then x
      else match o.bufs with
        | [] => eagerPut u kOut n (onEng x u (fun e => { e with outs := r }))
        | b :: bs =>
          let x1 := engObtain x u o.port
          if (engOf x1 u).held.any (fun p => p.1 == o.port) then
            let fin := bs.isEmpty
            let x2 := putBuffer x1 u kOut o.port b (fin && o.last) (fin && o.err) o.fill
            eagerPut u kOut n (onEng x2 u (fun e => { e with outs := { o with bufs := bs } :: r }))
          else x1

def outCount (e : Eng) : Nat := e.outs.foldl (fun n o => n + o.bufs.length + 1) 0

/-- Obtain what can be had: eager streams at the front are put at once, the others wait until every buffer is held. -/
def outAdvance (x : Wheel) (u : UnitId) (kOut : Nat) : Wheel :=
  let x1 := eagerPut u kOut (outCount (engOf x u) + 1) x
  if (engOf x1 u).outs.any (·.eager) then x1 else obtainAll x1 u

def outsReady (e : Eng) : Bool := !(e.outs.any (·.eager)) && outsHeld e

/-- Deliver the formed output: obtain the buffers, and when all are held put them and end with `f`. -/
def deliverOuts (x : Wheel) (u : UnitId) (kOut : Nat) (f : Ended) : Wheel :=
  let x1 := outAdvance x u kOut
  if outsReady (engOf x1 u) then onEng (putAll x1 u kOut) u (fun e => { e with st := .run, fin := some f, pend := none })
  else onEng x1 u (fun e => { e with st := .outWait, pend := some f })

/-! ## Failures -/

/-- The bits of an engine's ERR_STATUS that its completion code sets (R219, R342, R374). Three of a press's bits are for
curds alone. -/
def engMask (cls sub code : Nat) : Nat :=
  if code = 0 then 0
  else
    let between := fun (lo hi : Nat) => decide (lo ≤ code) && decide (code ≤ hi)
    match cls with
    | 2 =>
      if sub ≠ 0 then 1 + (if code = 0x020B then 16 else 0)
      else 1 + (if between 0x0201 0x0203 ∨ code = 0x0208 ∨ code = 0x020A then 2 else 0)
        + (if between 0x0204 0x0207 ∨ code = 0x0209 then 4 else 0)
        + (if between 0x0210 0x021F then 8 else 0) + (if code = 0x020B then 16 else 0)
    | 3 =>
      1 + (if between 0x0402 0x0407 ∨ code = 0x040A ∨ code = 0x040B then 2 else 0) + (if code = 0x0401 then 4 else 0)
        + (if code = 0x0408 then 8 else 0) + (if code = 0x040C then 16 else 0) + (if code = 0x0409 then 32 else 0)
        + (if code = 0x040D then 64 else 0) + (if code = 0x040E then 128 else 0)
    | _ =>
      1 + (if between 0x0501 0x0504 then 2 else 0) + (if between 0x0505 0x050A ∧ code ≠ 0x0508 then 4 else 0)
        + (if code = 0x0508 then 8 else 0)

/-- A reported bag or entry: the 16 bits of the value where one is present. -/
def presentIx (x : Nat) : Nat := if 2 ^ 17 ≤ x then x % 2 ^ 16 else 0

/-- Set bits of an engine's ERR_STATUS for a failure, with its ERR_INFO and ERR_DETAIL (R219, R343, R375); a ladle's carry
the presence of their bag and entry. -/
def endRegs (cls flow mask : Nat) (f : Ended) (r : Regs) : Regs :=
  if f.code = 0 ∨ mask = 0 then r
  else
    let d := match cls with
      | 2 => f.place % 2 ^ 16 * 2 ^ 16 + f.value % 2 ^ 16
      | 3 => presentIx f.place * 2 ^ 16 + presentIx f.value
      | _ => f.place % 16 * 2 ^ 28 + f.value % 2 ^ 28
    let v := if cls = 3 then b2n (decide (2 ^ 17 ≤ f.place)) * 2 ^ 31 + b2n (decide (2 ^ 17 ≤ f.value)) * 2 ^ 30 else 0
    errSet r mask (errInfo flow f.code + v) d

/-- A failure occurs: the bits of its condition are set at once (R218, R342, R374); OP_ERROR follows when the operation
completes. -/
def failNote (x : Wheel) (u : UnitId) (f : Ended) : Wheel :=
  onEng x u (fun e => match e.op with
    | some op => { e with regs := endRegs u.cls op.flow (engMask u.cls e.sub f.code - 1) f e.regs }
    | none => e)

end Sys2Proof.Machine
end

