-- ==== Sys2Proof/Machine/Float.lean ====
section
/-!
DEFINITION. Sys2Proof/Machine/Float.lean: the element formats of R35–R38, exact values, and the one rounding every
engine uses (R56, R57, R61): a value is computed exactly as an integer or a quotient times a power of two and rounded
once to nearest, ties to even. Subnormals are read and written everywhere (R36); a produced NaN is canonical (R37).
-/

namespace Sys2Proof.Machine

/-- One floating-point element format (a row of R35). `maxCode` is the magnitude code of its largest finite value,
`infCode` that of infinity where the format has one, `nanCode` its canonical NaN (R37). -/
structure Fmt where
  width : Nat
  m : Nat
  bias : Nat
  maxCode : Nat
  infCode : Option Nat
  nanCode : Option Nat
  deriving DecidableEq, Repr

def fp32 : Fmt := ⟨32, 23, 127, 0x7F7FFFFF, some 0x7F800000, some 0x7FC00000⟩
def fp64 : Fmt := ⟨64, 52, 1023, 0x7FEFFFFFFFFFFFFF, some 0x7FF0000000000000, some 0x7FF8000000000000⟩
def bf16 : Fmt := ⟨16, 7, 127, 0x7F7F, some 0x7F80, some 0x7FC0⟩
def fp16 : Fmt := ⟨16, 10, 15, 0x7BFF, some 0x7C00, some 0x7E00⟩
def e4m3 : Fmt := ⟨8, 3, 7, 0x7E, none, some 0x7F⟩
def e5m2 : Fmt := ⟨8, 2, 15, 0x7B, some 0x7C, some 0x7E⟩
def e3m2 : Fmt := ⟨6, 2, 3, 0x1F, none, none⟩
def e2m3 : Fmt := ⟨6, 3, 1, 0x1F, none, none⟩
def e2m1 : Fmt := ⟨4, 1, 1, 0x7, none, none⟩

/-- An exact value: (−1)^neg × m × 2^t, an infinity, or NaN. -/
inductive FNum where
  | nan
  | inf (neg : Bool)
  | fin (neg : Bool) (m : Nat) (t : Int)
  deriving DecidableEq, Repr

/-- The value a code of a format stands for (R35). -/
def numOf (f : Fmt) (code : Nat) : FNum :=
  let neg := bitAt code (f.width - 1)
  let mag := code % 2 ^ (f.width - 1)
  if f.infCode = some mag then .inf neg
  else if f.maxCode < mag then .nan
  else
    let e := mag / 2 ^ f.m
    let m := mag % 2 ^ f.m
    if e = 0 then .fin neg m (1 - (f.bias : Int) - f.m)
    else .fin neg (2 ^ f.m + m) ((e : Int) - f.bias - f.m)

/-- The exponent E with 2^E ≤ num/den < 2^(E+1), for a positive quotient. -/
def floorLog2 (num den : Nat) : Int :=
  let e : Int := (Nat.log2 num : Int) - Nat.log2 den
  -- 2^e ≤ num/den fails at most by one
  let ok := if 0 ≤ e then den * 2 ^ e.toNat ≤ num else den ≤ num * 2 ^ (-e).toNat
  if ok then e else e - 1

/-- The magnitude code of num/den × 2^t rounded to nearest even with the format's exponent range unbounded above: the
result is beyond the largest finite value exactly when the code is above `maxCode`. -/
def roundMag (f : Fmt) (num den : Nat) (t : Int) : Nat :=
  if num = 0 then 0 else
    let qmin : Int := 1 - (f.bias : Int) - f.m
    let q : Int := max (floorLog2 num den + t - f.m) qmin
    let d := t - q
    let r := if 0 ≤ d then rneNat (num * 2 ^ d.toNat) den else rneNat num (den * 2 ^ (-d).toNat)
    r + (q - qmin).toNat * 2 ^ f.m

/-- The sign bit of a format, placed. -/
def signBit (f : Fmt) (neg : Bool) : Nat := if neg then 2 ^ (f.width - 1) else 0

/-- The canonical NaN of a format (R37); formats without NaN do not produce one. -/
def nanOf (f : Fmt) : Nat := f.nanCode.getD 0

/-- What an overflow or an infinity becomes (R57): `sat` ± the largest finite value, otherwise ± infinity, or the
canonical NaN where the format has no infinity. -/
def overflowCode (f : Fmt) (sat neg : Bool) : Nat :=
  if sat then signBit f neg + f.maxCode
  else match f.infCode with
    | some c => signBit f neg + c
    | none => match f.nanCode with
      | some n => n
      | none => signBit f neg + f.maxCode

/-- Round a quotient to a format, overflow as `sat` says (R57). -/
def roundQ (f : Fmt) (sat neg : Bool) (num den : Nat) (t : Int) : Nat :=
  let c := roundMag f num den t
  if f.maxCode < c then overflowCode f sat neg else signBit f neg + c

/-- Round an exact value to a format (R56, R57, R61). -/
def roundTo (f : Fmt) (sat : Bool) : FNum → Nat
  | .nan => nanOf f
  | .inf neg => overflowCode f sat neg
  | .fin neg m t => roundQ f sat neg m 1 t

/-- An exact value as an integer rounded to nearest even and saturated to [lo, hi]; NaN gives 0 (R57). -/
def roundInt (lo hi : Int) : FNum → Int
  | .nan => 0
  | .inf neg => if neg then lo else hi
  | .fin neg m t =>
    let a : Nat := if 0 ≤ t then m * 2 ^ t.toNat else rneNat m (2 ^ (-t).toNat)
    let v : Int := if neg then -(a : Int) else a
    max lo (min hi v)

/-- The signed mantissa of a finite value over 2^t0, for t0 at or below its exponent. -/
def alignTo (neg : Bool) (m : Nat) (t t0 : Int) : Int :=
  let a : Nat := m * 2 ^ (t - t0).toNat
  if neg then -(a : Int) else a

/-- An exact signed sum as a value; a zero sum takes the sign `zneg`. -/
def ofSigned (zneg : Bool) (v : Int) (t : Int) : FNum :=
  if v = 0 then .fin zneg 0 t else .fin (v < 0) v.natAbs t

/-- Exact addition with the IEEE special cases (R61): an exact zero sum is +0 unless both operands are −0. -/
def numAdd : FNum → FNum → FNum
  | .nan, _ => .nan
  | _, .nan => .nan
  | .inf a, .inf b => if a = b then .inf a else .nan
  | .inf a, _ => .inf a
  | _, .inf b => .inf b
  | .fin na ma ta, .fin nb mb tb =>
    let t := min ta tb
    ofSigned (na && nb) (alignTo na ma ta t + alignTo nb mb tb t) t

def numNeg : FNum → FNum
  | .nan => .nan
  | .inf a => .inf (!a)
  | .fin n m t => .fin (!n) m t

/-- Exact multiplication with the IEEE special cases (R61). -/
def numMul : FNum → FNum → FNum
  | .nan, _ => .nan
  | _, .nan => .nan
  | .inf a, .inf b => .inf (a != b)
  | .inf a, .fin n m _ => if m = 0 then .nan else .inf (a != n)
  | .fin n m _, .inf b => if m = 0 then .nan else .inf (n != b)
  | .fin na ma ta, .fin nb mb tb => .fin (na != nb) (ma * mb) (ta + tb)

def numIsNan : FNum → Bool
  | .nan => true
  | _ => false

def numIsZero : FNum → Bool
  | .fin _ m _ => m = 0
  | _ => false

def numIsInf : FNum → Bool
  | .inf _ => true
  | _ => false

/-- a < b of two values, false where either is NaN. -/
def numLt : FNum → FNum → Bool
  | .nan, _ => false
  | _, .nan => false
  | .inf a, .inf b => a && !b
  | .inf a, _ => a
  | _, .inf b => !b
  | .fin na ma ta, .fin nb mb tb =>
    let t := min ta tb
    alignTo na ma ta t < alignTo nb mb tb t

/-- a = b of two values (the zeros are equal), false where either is NaN. -/
def numEq : FNum → FNum → Bool
  | .nan, _ => false
  | _, .nan => false
  | .inf a, .inf b => a = b
  | .inf _, _ => false
  | _, .inf _ => false
  | .fin na ma ta, .fin nb mb tb =>
    let t := min ta tb
    alignTo na ma ta t = alignTo nb mb tb t

def numLe (a b : FNum) : Bool := numLt a b || numEq a b

/-- An integer as an exact value. -/
def numOfInt (v : Int) : FNum := ofSigned false v 0

/-- FP addition, multiplication and fused multiply–add in a format with IEEE overflow (R61): each rounds once. -/
def fAdd (f : Fmt) (a b : Nat) : Nat := roundTo f false (numAdd (numOf f a) (numOf f b))
def fSub (f : Fmt) (a b : Nat) : Nat := roundTo f false (numAdd (numOf f a) (numNeg (numOf f b)))
def fMul (f : Fmt) (a b : Nat) : Nat := roundTo f false (numMul (numOf f a) (numOf f b))
def fFma (f : Fmt) (a b c : Nat) : Nat :=
  roundTo f false (numAdd (numMul (numOf f a) (numOf f b)) (numOf f c))

/-- The exact quotient of two finite values, rounded once; the IEEE special cases of a division. -/
def fDiv (f : Fmt) (a b : Nat) : Nat :=
  match numOf f a, numOf f b with
  | .nan, _ => nanOf f
  | _, .nan => nanOf f
  | .inf _, .inf _ => nanOf f
  | .inf na, .fin nb _ _ => overflowCode f false (na != nb)
  | .fin na _ _, .inf nb => signBit f (na != nb)
  | .fin na ma ta, .fin nb mb tb =>
    if mb = 0 then (if ma = 0 then nanOf f else overflowCode f false (na != nb))
    else roundQ f false (na != nb) ma mb (ta - tb)

/-- The square root rounded once: the root of an exact value scaled to enough bits, with a sticky bit. -/
def fSqrt (f : Fmt) (a : Nat) : Nat :=
  match numOf f a with
  | .nan => nanOf f
  | .inf neg => if neg then nanOf f else overflowCode f false false
  | .fin neg m t =>
    if m = 0 then signBit f neg
    else if neg then nanOf f
    else
      let k : Nat := 2 * (f.m + 4) + (if t % 2 = 0 then 0 else 1)
      let n := m * 2 ^ k
      let r := isqrt n
      let sticky := if r * r = n then 0 else 1
      roundQ f false false (2 * r + sticky) 1 ((t - k) / 2 - 1)

/-- Convert a code of one format to another, overflow as `sat` says. -/
def fCvt (src dst : Fmt) (sat : Bool) (a : Nat) : Nat := roundTo dst sat (numOf src a)

/-- The E8M0 block scale of a code: its exponent, none for NaN (R40). -/
def e8m0 (x : Nat) : Option Int := if x = 0xFF then none else some ((x : Int) - 127)

/-- A value multiplied by a power of two. -/
def numScale (x : Int) : FNum → FNum
  | .fin n m t => .fin n m (t + x)
  | v => v

/-- emax of the MX element formats (R41 step 3). -/
def mxEmax (f : Fmt) : Int :=
  if f = e4m3 then 8 else if f = e5m2 then 15 else if f = e3m2 then 4 else 2

/-- The floor of the base-2 logarithm of a non-zero finite value's magnitude. -/
def numLog2 : FNum → Int
  | .fin _ m t => (Nat.log2 m : Int) + t
  | _ => 0

/-- Conversion of a block of up to 32 source values to an MX format (R41): the scale code and the element codes. -/
def mxEncode (f : Fmt) (xs : List FNum) : Nat × List Nat :=
  if xs.any (fun x => numIsNan x || numIsInf x) then (0xFF, xs.map (fun _ => 0))
  else
    let nz := xs.filter (fun x => !numIsZero x)
    match nz with
    | [] => (0, xs.map (fun _ => 0))
    | y :: r =>
      let top := r.foldl (fun acc x => max acc (numLog2 x)) (numLog2 y)
      let X := max (-127) (min 127 (top - mxEmax f))
      let enc := fun x =>
        let c := roundTo f true (numScale (-X) x)
        if c % 2 ^ (f.width - 1) = 0 then 0 else c
      ((X + 127).toNat, xs.map enc)

/-- An MX element's value: its element value times its block scale; NaN where the scale is NaN (R40). -/
def mxDecode (f : Fmt) (scale elem : Nat) : FNum :=
  match e8m0 scale with
  | none => .nan
  | some x => numScale x (numOf f elem)

/-- The top exponent T of an element format (R35). -/
def fmtT (f : Fmt) : Int :=
  if f = e4m3 then 9 else if f = e5m2 then 16 else if f = e3m2 then 5 else 3

/-- The exact-accumulation window of one output (R45–R52): the sum W over 2^L and the flags of R50. -/
structure Win where
  w : Int
  nan : Bool
  pinf : Bool
  ninf : Bool
  inexact : Bool
  deriving DecidableEq, Repr

def Win.zero : Win := ⟨0, false, false, false, false⟩

/-- One product's contribution to a window anchored at L (R50): `xa`, `xb` are the block scale exponents, none where
the scale is NaN. -/
def winMac (L : Int) (W : Win) (a b : FNum) (xa xb : Option Int) : Win :=
  match xa, xb with
  | some xa, some xb =>
    match a, b with
    | .nan, _ => { W with nan := true }
    | _, .nan => { W with nan := true }
    | .inf na, .inf nb => if na = nb then { W with pinf := true } else { W with ninf := true }
    | .inf na, .fin nb mb _ =>
      if mb = 0 then { W with nan := true }
      else if na = nb then { W with pinf := true } else { W with ninf := true }
    | .fin na ma _, .inf nb =>
      if ma = 0 then { W with nan := true }
      else if na = nb then { W with pinf := true } else { W with ninf := true }
    | .fin na ma ta, .fin nb mb tb =>
      let q := ma * mb
      let e := ta + tb + xa + xb
      let neg := na != nb
      if L ≤ e then
        let c : Int := (q * 2 ^ (e - L).toNat : Nat)
        { W with w := if neg then W.w - c else W.w + c }
      else
        let d := 2 ^ (L - e).toNat
        let lost := q % d != 0
        let t := q / d
        let c : Int := if lost && t % 2 == 0 then t + 1 else t
        { W with w := (if neg then W.w - c else W.w + c), inexact := W.inexact || lost }
  | _, _ => { W with nan := true }

/-- The last line of R50: both infinities make NaN. -/
def winClose (W : Win) : Win := if W.pinf && W.ninf then { W with nan := true } else W

/-- The value of a window as R56 reads it, step 1 to 4; a zero W is +0 whatever the flags but NaN and infinities. -/
def winNum (L : Int) (W : Win) : FNum :=
  if W.nan || (W.pinf && W.ninf) then .nan
  else if W.pinf then .inf false
  else if W.ninf then .inf true
  else if W.w = 0 then .fin false 0 0
  else ofSigned false W.w L

/-- Output conversion of a window to a floating-point format (R56, R57). -/
def winOut (f : Fmt) (sat : Bool) (L : Int) (W : Win) : Nat := roundTo f sat (winNum L W)

/-- Output conversion of a window to INT32 (R56, R57): always saturating, NaN is 0. -/
def winInt32 (L : Int) (W : Win) : Nat :=
  wrapInt 32 (roundInt (-(2 ^ 31)) (2 ^ 31 - 1) (winNum L W))

/-- The 16-byte wide partial (R53) of a window, as a 128-bit number. -/
def packPartial (L : Int) (W : Win) : Nat :=
  wrapInt 96 W.w + wrapInt 16 L * 2 ^ 96 + b2n W.nan * 2 ^ 112 + b2n W.pinf * 2 ^ 113 + b2n W.ninf * 2 ^ 114
    + b2n W.inexact * 2 ^ 115 + 1 * 2 ^ 124

/-- The anchor a wide partial carries. -/
def partialL (p : Nat) : Int := sext 16 (bits p 111 96)

/-- The window a wide partial carries. -/
def partialWin (p : Nat) : Win :=
  ⟨sext 96 (bits p 95 0), bitAt p 112, bitAt p 113, bitAt p 114, bitAt p 115⟩

/-- VER is 0x1 and the reserved field is zero (R55). -/
def partialOk (p : Nat) : Bool := bits p 127 124 == 1 && bits p 123 116 == 0

/-- Two windows of one anchor combined (R54). -/
def winAdd (a b : Win) : Win :=
  winClose ⟨sext 96 (wrapInt 96 (a.w + b.w)), a.nan || b.nan, a.pinf || b.pinf, a.ninf || b.ninf,
    a.inexact || b.inexact⟩

/-- The partial with NAN set that a failed combination leaves (R55). The spec gives no other field of it. DESIGN CHOICE
(log 65): the larger L of the partials that are not empty, the sum of their W fields, and their flags ORed, so that the
result does not depend on the order of the two (R67). -/
def nanPartial (p q : Nat) : Nat :=
  let L := if p = 0 then partialL q else if q = 0 then partialL p else max (partialL p) (partialL q)
  packPartial L { winAdd (partialWin p) (partialWin q) with nan := true }

/-- A partial fails the check of R55: it is not empty, and its VER is unknown or a reserved field is not zero. -/
def partialBad (p : Nat) : Bool := p != 0 && !(partialOk p)

/-- Two wide partials combined (R53–R55): the result and the code of the condition, 0 for none. An empty partial (all
128 bits zero) contributes nothing and is not checked; a malformed one fails beside an empty one too. -/
def combinePartial (p q : Nat) : Nat × Nat :=
  if partialBad p || partialBad q then (nanPartial p q, 0x0113)
  else if p = 0 then (q, 0)
  else if q = 0 then (p, 0)
  else if partialL p ≠ partialL q then (nanPartial p q, 0x0112)
  else (packPartial (partialL p) (winAdd (partialWin p) (partialWin q)), 0)

/-- The FP32 chunk tree of R59 step 3: neighbours added pairwise, level by level; 32 values take 5 levels. -/
def pairwise : List Nat → List Nat
  | a :: b :: r => fAdd fp32 a b :: pairwise r
  | r => r

/-- The sum of one chunk of 32 FP32 products (R59 step 3), a short chunk padded with +0. -/
def chunkSum (ps : List Nat) : Nat :=
  nth 0 (pairwise (pairwise (pairwise (pairwise (pairwise (takePad 0 32 ps)))))) 0

end Sys2Proof.Machine
end

