-- ==== Sys2Proof/Machine/Predicate.lean ====
section
/-!
DEFINITION. Sys2Proof/Machine/Predicate.lean: predicate programs (R197–R205): layout, check, and the effect of each
instruction on the row registers of a group of 64 rows.
-/

namespace Sys2Proof.Machine

/-! ## Program layout (R198, R199) -/

def predNconst (prog : List Byte) : Nat := bits (leAt prog 0 4) 27 21
def predNstr (prog : List Byte) : Nat := bits (leAt prog 0 4) 20 16
def predNinstr (prog : List Byte) : Nat := bits (leAt prog 0 4) 8 0
def predResult (prog : List Byte) : Nat := bits (leAt prog 0 4) 31 28
def predBytes (prog : List Byte) : Nat := 32 + 8 * predNinstr prog + 8 * predNconst prog + 72 * predNstr prog

/-- Instruction j as its 64-bit word. -/
def predWord (prog : List Byte) (j : Nat) : Nat := leAt prog (32 + 8 * j) 8
/-- Constant j. -/
def predConst (prog : List Byte) (j : Nat) : DWord := BitVec.ofNat 64 (leAt prog (32 + 8 * predNinstr prog + 8 * j) 8)
def predStrOff (prog : List Byte) (j : Nat) : Nat := 32 + 8 * predNinstr prog + 8 * predNconst prog + 72 * j
/-- String j. -/
def predStr (prog : List Byte) (j : Nat) : List Byte := (prog.drop (predStrOff prog j + 8)).take (leAt prog (predStrOff prog j) 1)

/-- An instruction's fields (R199). -/
structure PredI where
  op : Nat
  d : Nat
  a : Nat
  b : Nat
  k : Bool
  imm : Nat
  deriving DecidableEq, Repr

def predInstr (w : Nat) : PredI := ⟨bits w 63 56, bits w 55 52, bits w 51 48, bits w 47 44, bitAt w 43, bits w 31 0⟩

/-- The word of an instruction's fields. -/
def predEncode (op d a b : Nat) (k : Bool) (imm : Nat) : Nat :=
  op * 2 ^ 56 + d * 2 ^ 52 + a * 2 ^ 48 + b * 2 ^ 44 + b2n k * 2 ^ 43 + imm

/-! ## The check (R204) -/

def predBinary (op : Nat) : Bool :=
  (decide (8 ≤ op) && decide (op ≤ 0x0D)) || (decide (0x10 ≤ op) && decide (op ≤ 0x12))
    || (decide (0x18 ≤ op) && decide (op ≤ 0x25))
def predListed (op : Nat) : Bool :=
  decide (op ≤ 4) || (decide (8 ≤ op) && decide (op ≤ 0x14)) || (decide (0x18 ≤ op) && decide (op ≤ 0x25))
    || (decide (0x28 ≤ op) && decide (op ≤ 0x2D)) || op == 0x30 || op == 0x31 || op == 0x38 || op == 0x39

/-- A view is permitted for a column (R203). -/
def viewOk (parquet : Bool) (e : ColEntry) (view : Nat) : Bool :=
  let binary := e.ctype == 0x10 || e.ctype == 0x11 || e.ctype == 0x12
  match view with
  | 0 => !binary
  | 2 => e.itype != 0 || (parquet && e.ctype != 0x01)
  | 1 => binary
  | 3 => binary
  | 4 => binary
  | _ => false

/-- One instruction passes the check. -/
def predInstrOk (prog : List Byte) (parquet : Bool) (cols : List ColEntry) (j : Nat) : Bool :=
  let w := predWord prog j
  let i := predInstr w
  let two := predBinary i.op
  let logic := i.op == 0x28 || i.op == 0x29
  let noA := i.op == 0 || i.op == 2 || i.op == 3
  let col := i.op == 1 || i.op == 0x30 || i.op == 0x31
  let immMax := if two then (if i.k then 64 else 1)
    else if i.op == 0x01 then 8
    else if i.op == 0x02 || i.op == 0x0E || i.op == 0x0F || i.op == 0x38 || i.op == 0x39 then 64
    else if i.op == 0x30 || i.op == 0x31 then 16 else 1
  predListed i.op && bits w 42 32 == 0 && (i.op != 0 || i.d == 0) && (!noA || i.a == 0) && (two || logic || i.b == 0)
    && (!i.k || (two && i.b == 0)) && decide (i.imm < immMax)
    && ((!(i.op == 2 || (two && i.k))) || decide (i.imm < predNconst prog))
    && ((!(i.op == 0x38 || i.op == 0x39)) || decide (i.imm + 1 < predNconst prog))
    && (!col || (match cols[i.a]? with
      | none => false
      | some e => viewOk parquet e (if i.op = 1 then i.imm else 3) && (i.op == 1 || decide (i.imm < predNstr prog))))

def predStrOk (prog : List Byte) (j : Nat) : Bool :=
  let o := predStrOff prog j
  let n := leAt prog o 1
  decide (n ≤ 64) && leAt prog (o + 1) 7 == 0 && leNat ((prog.drop (o + 8 + n)).take (64 - n)) == 0

/-- The header of a program passes the check. -/
def predHeadOk (prog : List Byte) : Bool :=
  let w := leAt prog 0 8
  bits w 63 60 == 1 && bits w 59 32 == 0 && bits w 15 9 == 0 && leNat ((prog.drop 8).take 24) == 0
    && decide (1 ≤ predNinstr prog) && decide (predNinstr prog ≤ 256) && decide (predNconst prog ≤ 64)
    && decide (predNstr prog ≤ 16)

def predOk (prog : List Byte) (parquet : Bool) (cols : List ColEntry) : Bool :=
  predHeadOk prog && (upto (predNstr prog)).all (predStrOk prog)
    && (upto (predNinstr prog)).all (predInstrOk prog parquet cols)

/-- Some LDC of the program reads column c through the CODE view (R193). -/
def predCodes (prog : List Byte) (c : Nat) : Bool :=
  (upto (predNinstr prog)).any (fun j =>
    let i := predInstr (predWord prog j)
    i.op == 1 && i.a == c && i.imm == 2)

/-! ## Lanes (R197, R200–R203) -/

/-- A fixed-width value through VALUE: extended by its type, floats widened exactly (R203). -/
def valueView (ctype x : Nat) : Nat :=
  match ctype with
  | 0x02 => wrapInt 64 (sext 8 x)
  | 0x03 => wrapInt 64 (sext 16 x)
  | 0x04 => wrapInt 64 (sext 32 x)
  | 0x0A => fCvt fp16 fp64 false x
  | 0x0B => fCvt fp32 fp64 false x
  | _ => x

/-- What a view of a value loads. -/
def viewOf (ctype view : Nat) (v : Val) (code : Option Nat) : Lane :=
  match v with
  | .null => none
  | .fixed x => some (BitVec.ofNat 64 (if view = 2 then code.getD 0 else valueView ctype x))
  | .str b => some (BitVec.ofNat 64 (match view with
    | 1 => b.length
    | 2 => code.getD 0
    | 3 => crc32c b
    | _ => beNat (takePad 0 8 b)))

def laneTrue (a : Lane) : Bool := match a with
  | some x => x != 0
  | none => false
def laneFalse (a : Lane) : Bool := a == some 0
def boolLane (b : Bool) : Lane := some (if b then 1 else 0)

def lane2 (f : DWord → DWord → DWord) (a b : Lane) : Lane :=
  match a, b with
  | some x, some y => some (f x y)
  | _, _ => none
def laneCmp (f : DWord → DWord → Bool) (a b : Lane) : Lane :=
  match a, b with
  | some x, some y => boolLane (f x y)
  | _, _ => none
def lane1 (f : DWord → DWord) (a : Lane) : Lane := a.map f
def laneFloat (f : Nat → Nat → Nat) (x y : DWord) : DWord := BitVec.ofNat 64 (f x.toNat y.toNat)
def laneNum (x : DWord) : FNum := numOf fp64 x.toNat

def lAnd (a b : Lane) : Lane :=
  if laneFalse a || laneFalse b then some 0 else if laneTrue a && laneTrue b then some 1 else none
def lOr (a b : Lane) : Lane :=
  if laneTrue a || laneTrue b then some 1 else if laneFalse a && laneFalse b then some 0 else none

/-- The string comparisons: null where the row is null. -/
def strLane (f : List Byte → Bool) (v : Val) : Lane :=
  match v with
  | .str b => boolLane (f b)
  | _ => none

/-- The new lane of D (R200, R201). `a`, `b` are the operand lanes (b the constant when K is 1), `v` and `code` the row's
value of column A. -/
def predLane (prog : List Byte) (i : PredI) (ctype : Nat) (a b : Lane) (v : Val) (code : Option Nat) : Lane :=
  let ka := predConst prog i.imm
  let kb := predConst prog (i.imm + 1)
  match i.op with
  | 0x01 => viewOf ctype i.imm v code
  | 0x02 => some ka
  | 0x03 => none
  | 0x04 => a
  | 0x08 => lane2 (· + ·) a b
  | 0x09 => lane2 (· - ·) a b
  | 0x0A => lane2 (· * ·) a b
  | 0x0B => lane2 (· &&& ·) a b
  | 0x0C => lane2 (· ||| ·) a b
  | 0x0D => lane2 (· ^^^ ·) a b
  | 0x0E => lane1 (fun x => x >>> i.imm) a
  | 0x0F => lane1 (fun x => x <<< i.imm) a
  | 0x10 => lane2 (laneFloat (fAdd fp64)) a b
  | 0x11 => lane2 (laneFloat (fSub fp64)) a b
  | 0x12 => lane2 (laneFloat (fMul fp64)) a b
  | 0x13 => lane1 (fun x => BitVec.ofNat 64 (roundTo fp64 false (numOfInt x.toInt))) a
  | 0x14 => lane1 (fun x => x &&& 0x7FFFFFFFFFFFFFFF) a
  | 0x18 => laneCmp (fun x y => x == y) a b
  | 0x19 => laneCmp (fun x y => x != y) a b
  | 0x1A => laneCmp (fun x y => x.slt y) a b
  | 0x1B => laneCmp (fun x y => x.sle y) a b
  | 0x1C => laneCmp (fun x y => y.slt x) a b
  | 0x1D => laneCmp (fun x y => y.sle x) a b
  | 0x1E => laneCmp (fun x y => x.ult y) a b
  | 0x1F => laneCmp (fun x y => x.ule y) a b
  | 0x20 => laneCmp (fun x y => numEq (laneNum x) (laneNum y)) a b
  | 0x21 => laneCmp (fun x y => !numEq (laneNum x) (laneNum y)) a b
  | 0x22 => laneCmp (fun x y => numLt (laneNum x) (laneNum y)) a b
  | 0x23 => laneCmp (fun x y => numLe (laneNum x) (laneNum y)) a b
  | 0x24 => laneCmp (fun x y => numLt (laneNum y) (laneNum x)) a b
  | 0x25 => laneCmp (fun x y => numLe (laneNum y) (laneNum x)) a b
  | 0x28 => lAnd a b
  | 0x29 => lOr a b
  | 0x2A => a.map (fun x => if x = 0 then 1 else 0)
  | 0x2B => boolLane a.isNone
  | 0x2C => boolLane a.isSome
  | 0x2D => boolLane (laneTrue a)
  | 0x30 => strLane (fun s => s == predStr prog i.imm) v
  | 0x31 => strLane (fun s => (predStr prog i.imm).isPrefixOf s) v
  | 0x38 => a.map (fun x => if ka.sle x && x.sle kb then 1 else 0)
  | 0x39 => a.map (fun x => if numLe (laneNum ka) (laneNum x) && numLe (laneNum x) (laneNum kb) then 1 else 0)
  | _ => none

def qGet (q : List (Nat × Lane)) (r lane : Nat) : Lane := tget none q (64 * r + lane)
def qSet (q : List (Nat × Lane)) (r lane : Nat) (x : Lane) : List (Nat × Lane) := tset none q (64 * r + lane) x

/-- One instruction on the row registers of a group. -/
def predStep (prog : List Byte) (entries : List ColEntry) (cols : List ColData) (group : Nat) (i : PredI)
    (q : List (Nat × Lane)) : List (Nat × Lane) :=
  if i.op = 0 then q
  else
    let c : ColData := nth ⟨[], []⟩ cols i.a
    let ct := ((entries[i.a]?).map (·.ctype)).getD 0
    let kb : Lane := some (predConst prog i.imm)
    let lanes := (upto 64).map (fun l =>
      let row := 64 * group + l
      predLane prog i ct (qGet q i.a l) (if i.k then kb else qGet q i.b l) (nth .null c.vals row) (nth none c.codes row))
    lanes.zipIdx.foldl (fun q' p => qSet q' i.d p.2 p.1) q

/-- Whether each row of a group is selected (R205). -/
def groupSel (prog : List Byte) (rows group : Nat) (q : List (Nat × Lane)) : List Bool :=
  (upto (min 64 (rows - 64 * group))).map (fun l => laneTrue (qGet q (predResult prog) l))

end Sys2Proof.Machine
end

