-- ==== Sys2Proof/Machine/Press.lean ====
section
/-!
DEFINITION. Sys2Proof/Machine/Press.lean: the ingest of a curd (R173–R214): the checks, the decoding of its columns, the
predicate program, the decoded output, failures, the drain and cancellation; and the predicate instructions as single
steps.
-/

namespace Sys2Proof.Machine

open Sys2Proof

def pressUnit (p : Nat) : UnitId := ⟨2, p⟩

/-! ## The descriptor (R177, R178) -/

def curdNcols (desc : List Byte) : Nat := bits (leAt desc 0 8) 36 32
def curdRows (desc : List Byte) : Nat := bits (leAt desc 0 8) 31 0
def curdParquet (desc : List Byte) : Bool := bits (leAt desc 0 8) 59 58 == 1
def curdSelFmt (desc : List Byte) : Nat := bits (leAt desc 0 8) 57 56
def curdCompact (desc : List Byte) : Bool := bitAt (leAt desc 0 8) 55
def curdPredEn (desc : List Byte) : Bool := bitAt (leAt desc 0 8) 54
def curdSelPort (desc : List Byte) : Nat := bits (leAt desc 0 8) 51 48
def curdProg (desc : List Byte) : Nat := bits (leAt desc 8 4) 26 0
def curdRowBase (desc : List Byte) : Nat := leAt desc 0x10 8
def curdEntries (desc : List Byte) : List ColEntry :=
  (upto (min 16 (curdNcols desc))).map (fun c => colEntry ((desc.drop (64 + 64 * c)).take 64))
def curdGroups (desc : List Byte) : Nat := cdiv (curdRows desc) 64

/-- No repeats. -/
def distinct (l : List Nat) : Bool :=
  match l with
  | [] => true
  | a :: r => !(r.contains a) && distinct r

/-! ## Checks before any input (R209) -/

/-- The first element that breaks a condition, by its index. -/
def firstBad {α : Type} (f : α → Bool) (l : List α) : Option Nat := (l.zipIdx.find? (fun p => f p.1)).map (·.2)

/-- 0x0201: VER or a reserved field; the column concerned. -/
def curdBad1 (desc : List Byte) : Option Nat :=
  let w := leAt desc 0 8
  if bits w 63 60 ≠ 1 ∨ bits w 53 52 ≠ 0 ∨ bits w 47 37 ≠ 0 ∨ bits (leAt desc 8 8) 63 27 ≠ 0
      ∨ leNat ((desc.drop 0x18).take 40) ≠ 0 then some 0
  else firstBad (fun e : ColEntry => e.bad) (curdEntries desc)

/-- Ports that the curd's streams use. -/
def curdOutPorts (desc : List Byte) : List Nat :=
  ((curdEntries desc).filter (·.emit)).map (·.outPort) ++ (if curdSelFmt desc ≠ 0 then [curdSelPort desc] else [])

/-- 0x0202 of R180. -/
def curdBad2 (desc : List Byte) : Option Nat :=
  let w := leAt desc 0 8
  let es := curdEntries desc
  let pq := curdParquet desc
  if 1 < bits w 59 58 ∨ curdSelFmt desc = 3 ∨ curdRows desc = 0 ∨ 65536 < curdRows desc ∨ curdNcols desc = 0
      ∨ 16 < curdNcols desc ∨ (curdPredEn desc = false ∧ curdProg desc ≠ 0) then some 0
  else
    let portClash := fun (c : Nat) =>
      let e := nth (colEntry []) es c
      (es.take c).any (fun f => f.inPort == e.inPort)
        || (e.emit && ((es.take c).any (fun f => f.emit && f.outPort == e.outPort)
              || (curdSelFmt desc != 0 && e.outPort == curdSelPort desc)))
    let bad := fun (e : ColEntry) =>
      (pq && (e.bitOfs != 0 || e.pages == 0)) || (!pq && (e.pages != 0 || e.skip != 0 || e.codec != 0))
        || decide (4194304 < e.dictBytes)
    (upto es.length).find? (fun c => portClash c || bad (nth (colEntry []) es c))

/-- 0x020A of the other Cave addresses: PROG_ADDR and DICT_ADDR (R175, R209). -/
def curdBadA (x : Wheel) (desc : List Byte) : Option Nat :=
  let progBad := curdPredEn desc && (!(caveAddrOk x (curdProg desc) 32)
    || !(caveAddrOk x (curdProg desc) (predBytes (caveRead x (curdProg desc) 32))))
  if progBad then some 0
  else firstBad (fun e : ColEntry =>
    (e.itype != 0 || e.dictBytes != 0 || e.dictAddr != 0) && !(caveAddrOk x e.dictAddr (max e.dictBytes 32))) (curdEntries desc)

/-- 0x0203: types (R180). -/
def curdBad3 (desc : List Byte) : Option Nat :=
  let pq := curdParquet desc
  firstBad (fun e : ColEntry =>
    !(if pq then ctypeParquet e.ctype else ctypeListed e.ctype)
      || (e.itype != 0 && (pq || !(itypeOk e.itype) || e.ctype == 0x01))
      || (e.keep && ((!pq && e.itype == 0) || e.ctype == 0x01))
      || (if e.ctype = 0x12 then e.width == 0 || decide (64 < e.width) else e.width != 0)) (curdEntries desc)

/-- 0x0213: codec (R180, R188). -/
def curdBadC (desc : List Byte) : Option Nat :=
  firstBad (fun e : ColEntry => curdParquet desc && e.codec != 0 && e.codec != 7) (curdEntries desc)

/-- The descriptor's bytes as the press copies them (R176): the header and at most 16 entries. -/
def curdCopy (x : Wheel) (a : Nat) : List Byte := caveRead x a (64 + 64 * min 16 (curdNcols (caveRead x a 64)))

/-- The program's bytes as the press copies them. -/
def progCopy (x : Wheel) (desc : List Byte) : List Byte :=
  if curdPredEn desc then caveRead x (curdProg desc) (predBytes (caveRead x (curdProg desc) 32)) else []

/-- Bind the ports a curd uses (R694); the error is the column of the first port conflict, 0 for the selection. -/
def curdBind (x : Wheel) (u : UnitId) (e : Eng) (ctx : Nat) (desc : List Byte) : Except Nat Wheel :=
  let cols := (curdEntries desc).zipIdx
  match bindMany u ctx true (cols.map (fun c => (c.2, portHoop e.inP c.1.inPort))) x with
  | .error k => .error k
  | .ok x1 =>
    bindMany u ctx false ((cols.filter (·.1.emit)).map (fun c => (c.2, portHoop e.outP c.1.outPort))
      ++ (if curdSelFmt desc ≠ 0 then [(0, portHoop e.outP (curdSelPort desc))] else [])) x1

/-- End an operation before any input (R210). -/
def checkFail (x : Wheel) (u : UnitId) (code col : Nat) : Wheel :=
  onEng (failNote x u ⟨code, col, 0xFFFF⟩) u (fun e => { e with st := .run, fin := some ⟨code, col, 0xFFFF⟩ })

/-- The checks of R209 in order; the press then runs. -/
def curdCheck (x : Wheel) (u : UnitId) (ctx : Nat) : Wheel :=
  let e := engOf x u
  let a := e.descAddr
  let fail := checkFail x u
  if !(caveAddrOk x a 64) then fail 0x020A 0
  else if caveUncorr x a 64 then fail 0x020B 0
  else
    let desc := curdCopy x a
    if !(caveAddrOk x a desc.length) then fail 0x020A 0
    else if caveUncorr x a desc.length then fail 0x020B 0
    else match curdBad1 desc, curdBad2 desc with
      | some c, _ => fail 0x0201 c
      | _, some c => fail 0x0202 c
      | _, _ =>
        match curdBind x u e ctx desc with
        | .error c => fail 0x0202 c
        | .ok x1 =>
          match curdBadA x desc, curdBad3 desc, curdBadC desc with
          | some c, _, _ => checkFail x1 u 0x020A c
          | _, some c, _ => checkFail x1 u 0x0203 c
          | _, _, some c => checkFail x1 u 0x0213 c
          | _, _, _ =>
            let prog := progCopy x desc
            if curdPredEn desc && caveUncorr x (curdProg desc) prog.length then checkFail x1 u 0x020B 0
            else if curdPredEn desc && !(predOk prog (curdParquet desc) (curdEntries desc)) then checkFail x1 u 0x0208 0
            else
              let x2 := caveCorrect x1 a desc.length
              let x3 := if curdPredEn desc then caveCorrect x2 (curdProg desc) prog.length else x2
              onEng x3 u (fun e => { e with st := .run, desc := desc, prog := prog })

/-! ## Decoding (R181–R193, R209, R698) -/

/-- The code of a stream whose bytes end before `need`: an uncorrectable error, ERR, or LAST; 0 where more may come. -/
def endCode (p : InPort) : Nat := if p.lost then 0x020B else if p.err then 0x0229 else if p.last then 0x0205 else 0

/-- Where the decoding of a column stops (R209, R698): at its own failure, or where the bytes at hand end: at the first row
that needs a missing byte, or in the last group. Code 0 says that the column waits for input. -/
def colStop (p : InPort) (need groups : Nat) (r : ColRes) : Option ColFail :=
  let last := fun (f : ColFail) => { f with group := min f.group (groups - 1) }
  if need ≤ p.bytes.length then r.fail.map last
  else match r.fail with
    | some f => some (last (if f.cut then { f with code := endCode p } else f))
    | none => some ⟨groups - 1, endCode p, 0xFFFF, true⟩

/-- Decode column c from the bytes at hand. -/
def decodeCol (desc prog : List Byte) (torn : Option Nat) (x : Wheel) (p : InPort) (c : Nat) : ColRes :=
  let e := nth (colEntry []) (curdEntries desc) c
  let rows := curdRows desc
  let region := if e.dictBytes = 0 then [] else caveRead x e.dictAddr e.dictBytes
  let bs := p.bytes.take e.inBytes
  let lost := !(e.dictBytes == 0) && caveUncorr x e.dictAddr e.dictBytes
  if curdParquet desc then decodeParquet ⟨e, rows, e.keep || (curdPredEn desc && predCodes prog c), lost, torn⟩ bs region
  else if lost && e.itype != 0 then ⟨[], [], some ⟨0, 0x020B, 0xFFFF, false⟩, [], none⟩
  else decodeArrow e rows bs region torn

/-- The columns decoded so far: data, where the pages parsed are reached, the columns whose dictionary page is in its
region, and the first stop with its column. -/
structure DecSt where
  x : Wheel
  cols : List ColData := []
  pages : List (Nat × Nat) := []
  dicts : List Nat
  fail : Option (Nat × ColFail) := none

/-- a is met before b (R209): group, then column. -/
def failBefore (a b : Nat × ColFail) : Bool :=
  if a.2.group ≠ b.2.group then decide (a.2.group < b.2.group) else decide (a.1 < b.1)

/-- Two ranges of the Cave share a byte. -/
def spansMeet (a n b m : Nat) : Bool := decide (a < b + m) && decide (b < a + n)

/-- A running press other than `u` whose curd uses a dictionary region in the range. -/
def usesRegion (u : UnitId) (a n : Nat) (p : Nat × Eng) : Bool :=
  p.1 != u.idx && p.2.op.isSome && p.2.fin.isNone && p.2.sub == 0
    && (curdEntries p.2.desc).any (fun c => c.dictBytes != 0 && spansMeet a n c.dictAddr c.dictBytes)

/-- Another press is writing a dictionary page into the range: the page has begun to arrive and is not whole (R213). -/
def writesRegion (u : UnitId) (a n : Nat) (p : Nat × Eng) : Bool :=
  usesRegion u a n p && curdParquet p.2.desc
    && (curdEntries p.2.desc).zipIdx.any (fun c =>
      c.1.dictBytes != 0 && spansMeet a n c.1.dictAddr c.1.dictBytes && !(p.2.dicts.contains c.2)
        && (match pageHeader (tget {} p.2.acc c.1.inPort : InPort).bytes with
          | .ok (h, _) => h.ty == 2
          | .error _ => false))

/-- Mark the operations of the presses that `f` picks: what they draw from their regions is open from now on, with open
numbers from `seed` (R213, R257). -/
def tearAll (x : Wheel) (seed : Nat) (f : Nat × Eng → Bool) : Wheel :=
  { x with presses := x.presses.map (fun p => if f p && p.2.torn.isNone then (p.1, { p.2 with torn := some seed }) else p) }

/-- Write a dictionary page's region (R190). A press that uses the region at the same time, and this one, have open values
through it (R213). -/
def dictWrite (x : Wheel) (u : UnitId) (seed a : Nat) (bs : List Byte) (cap : Nat) : Wheel :=
  let x1 := caveWrite x a bs
  if x1.presses.any (usesRegion u a cap) then tearAll x1 seed (fun p => p.1 == u.idx || usesRegion u a cap p) else x1

/-- Decode the columns in order from the bytes at hand. A dictionary page is written to its region once the group that
needs it is reached. -/
def decodeCols (desc prog : List Byte) (acc : List (Nat × InPort)) (u : UnitId) (seed : Nat) (st0 : DecSt) : DecSt :=
  (upto (curdEntries desc).length).foldl (fun st c =>
    let e := nth (colEntry []) (curdEntries desc) c
    let p : InPort := tget {} acc e.inPort
    let x0 := if e.dictBytes != 0 && st.x.presses.any (writesRegion u e.dictAddr e.dictBytes) then
        tearAll st.x seed (fun p => p.1 == u.idx) else st.x
    let r := decodeCol desc prog (engOf x0 u).torn x0 p c
    let x0 := if r.region.isNone && r.codes.any (·.isSome) then caveCorrect x0 e.dictAddr e.dictBytes else x0
    let f := (colStop p e.inBytes (curdGroups desc) r).map (fun f => (c, f))
    let early := match st.fail with
      | some g => g.2.group == 0
      | none => false
    let write := match r.region with
      | some bs => if early || st.dicts.contains c then none else some bs
      | none => none
    { x := match write with
        | some bs => dictWrite x0 u seed e.dictAddr bs e.dictBytes
        | none => x0
      cols := st.cols ++ [⟨r.vals, r.codes⟩]
      pages := st.pages ++ r.pages.map (fun g => (min g (curdGroups desc - 1), c))
      dicts := if write.isSome then st.dicts ++ [c] else st.dicts
      fail := match st.fail, f with
        | none, f => f
        | some g, some h => if failBefore h g then some h else some g
        | some g, none => some g }) st0

/-! ## Decoded output (R194, R195, R206) -/

def padZero (bs : List Byte) : List Byte := takePad 0 (align32 bs.length) bs

/-- A bitmap of Bools, least significant bit first (R182). -/
def bitmapOf (bs : List Bool) : List Byte :=
  (chunksOf 8 (bs.length / 8 + 1) bs).map (fun c => BitVec.ofNat 8 (c.foldr (fun b n => b2n b + 2 * n) 0))

/-- An output header (R194). -/
def outHeader (rows ctype width : Nat) (valid codes err etype : Bool) (vb ob xb db base : Nat) : List Byte :=
  leBytes 8 (rows + ctype * 2 ^ 32 + width * 2 ^ 40 + b2n valid * 2 ^ 48 + b2n codes * 2 ^ 49 + b2n err * 2 ^ 50
    + b2n etype * 2 ^ 51) ++ leBytes 4 vb ++ leBytes 4 ob ++ leBytes 4 xb ++ leBytes 4 db ++ leBytes 8 base

/-- The bytes of a value of a variable-width type; null values are empty. -/
def valBytes (v : Val) : List Byte := match v with
  | .str b => b
  | _ => []
def valNat (v : Val) : Nat := match v with
  | .fixed x => x
  | _ => 0
def valIsNull (v : Val) : Bool := match v with
  | .null => true
  | _ => false

/-- The offsets of consecutive strings. -/
def offsetsOf (bs : List (List Byte)) : List Nat :=
  (bs.foldl (fun (p : List Nat × Nat) b => (p.1 ++ [p.2 + b.length], p.2 + b.length)) ([0], 0)).1

/-- A column in the layout of R194: values of a column type, with a validity section or without. -/
def columnBytes (ctype width : Nat) (nullable : Bool) (base : Nat) (vals : List Val) : List Byte :=
  let valid := if nullable then padZero (bitmapOf (vals.map (fun v => !valIsNull v))) else []
  let strs := vals.map valBytes
  let (offs, values, data) :=
    if ctypeVar ctype then (padZero ((offsetsOf strs).flatMap (leBytes 4)), [], padZero strs.flatten)
    else if ctype = 0x01 then ([], padZero (bitmapOf (vals.map (fun v => valNat v % 2 == 1))), [])
    else if ctype = 0x12 then ([], padZero (vals.flatMap (fun v => takePad 0 width (valBytes v))), [])
    else ([], padZero (vals.flatMap (fun v => leBytes (ctypeWidth ctype width) (valNat v))), [])
  outHeader vals.length ctype width nullable false false false valid.length offs.length values.length data.length base
    ++ valid ++ offs ++ values ++ data

/-- A column of dictionary codes as uint32 (R194, KEEP_CODES). -/
def codesBytes (width : Nat) (nullable : Bool) (base : Nat) (vals : List Val) (codes : List (Option Nat)) : List Byte :=
  let valid := if nullable then padZero (bitmapOf (vals.map (fun v => !valIsNull v))) else []
  let values := padZero (codes.flatMap (fun c => leBytes 4 (c.getD 0)))
  outHeader vals.length 0x08 width nullable true false false valid.length 0 values.length 0 base ++ valid ++ values

/-- The elements whose rows are kept. -/
def keepRows {α : Type} : List Bool → List α → List α
  | b :: bs, v :: vs => if b then v :: keepRows bs vs else keepRows bs vs
  | _, _ => []

/-- A selection vector (R206): the header and the bitmap or the index list. -/
def selHeader (rows cnt base : Nat) (err : Bool) : List Byte :=
  leBytes 4 rows ++ leBytes 4 cnt ++ leBytes 8 base ++ leBytes 8 (b2n err) ++ leBytes 8 0

def selIndices (sel : List Bool) : List Nat := (sel.zipIdx.filter (·.1)).map (·.2)

def selBytes (fmt base : Nat) (sel : List Bool) : List Byte :=
  selHeader sel.length (selIndices sel).length base false
    ++ padZero (if fmt = 1 then bitmapOf sel else (selIndices sel).flatMap (leBytes 2))

/-- The output streams of a curd, each with the column it belongs to. -/
def curdOuts (x : Wheel) (e : Eng) (cols : List ColData) (sel : List Bool) : List (Nat × OutStream) :=
  let desc := e.desc
  let base := curdRowBase desc
  let keep := if curdCompact desc then sel else sel.map (fun _ => true)
  let streams := (curdEntries desc).zipIdx.filterMap (fun (c, k) =>
    if !c.emit then none
    else
      let d : ColData := nth ⟨[], []⟩ cols k
      let vals := keepRows keep d.vals
      let bs := if c.keep then codesBytes c.width c.nullable base vals (keepRows keep d.codes)
        else columnBytes c.ctype c.width c.nullable base vals
      some (k, outStream x e c.outPort bs))
  streams ++ (if curdSelFmt desc ≠ 0 then [(0, outStream x e (curdSelPort desc) (selBytes (curdSelFmt desc) base sel))] else [])

/-! ## Failure after input has begun (R211) -/

/-- The error output of a curd (R211): on each emitted column's port a header with ERR, the type and WIDTH of the values
that would follow (DEDUCED, log 76), and ROW_BASE; on SEL_PORT a selection header with ERR. -/
def curdErrOuts (desc : List Byte) : List OutStream :=
  let base := curdRowBase desc
  ((curdEntries desc).filter (·.emit)).map (fun c =>
      { port := c.outPort
        bufs := [outHeader 0 (if c.keep then 0x08 else c.ctype) c.width false c.keep true false 0 0 0 0 base] })
    ++ (if curdSelFmt desc ≠ 0 then [{ port := curdSelPort desc, bufs := [selHeader 0 0 base true] }] else [])

def curdNeeds (desc : List Byte) : List (Nat × Nat) := (curdEntries desc).map (fun c => (c.inPort, c.inBytes))

/-- Start the drain: the buffers held go back, and the rest of the input is consumed (R211 steps 1 and 2). -/
def startDrain (x : Wheel) (u : UnitId) (f : Ended) (outs : List OutStream) : Wheel :=
  onEng (returnHeld (failNote x u f) u) u (fun e => { e with st := .drain, pend := some f, outs := outs, work := none })

/-- One pass of the drain: take the rest of the input, then put the error output. -/
def drainStep (x : Wheel) (u : UnitId) (kIn kOut : Nat) (needs : List (Nat × Nat)) : Wheel :=
  let x1 := pullAll u kIn needs x
  let e := engOf x1 u
  match e.pend with
  | none => x1
  | some f =>
    if needs.all (fun p => portDone e p.1 p.2) then
      let x2 := outAdvance x1 u kOut
      if outsReady (engOf x2 u) then onEng (putAll x2 u kOut) u (fun e => { e with st := .run, fin := some f, pend := none })
      else onEng x2 u (fun e => { e with st := .drain })
    else onEng x1 u (fun e => { e with st := .drain })

def curdDrain (x : Wheel) (u : UnitId) : Wheel := drainStep x u 3 4 (curdNeeds (engOf x u).desc)

def curdFail (x : Wheel) (u : UnitId) (f : Ended) : Wheel :=
  curdDrain (startDrain x u f (curdErrOuts (engOf x u).desc)) u

/-! ## Groups (R197, R205, R209) -/

/-- Rows of the first g groups. -/
def groupRows (rows g : Nat) : Nat := min rows (64 * g)

/-- Finish a group: its rows' selection is added; without PRED_EN every row is selected (R195). -/
def endGroup (desc : List Byte) (w : PWork) : PWork :=
  let rows := curdRows desc
  let sel := if curdPredEn desc then groupSel w.prog rows w.group w.q
    else List.replicate (groupRows rows (w.group + 1) - groupRows rows w.group) true
  { w with sel := w.sel ++ sel, group := w.group + 1, ip := 0, q := [] }

/-- One instruction of the program on the current group; after the last one the group ends. -/
def workStep (desc : List Byte) (w : PWork) : PWork :=
  let i := predInstr (predWord w.prog w.ip)
  let w1 := { w with q := predStep w.prog (curdEntries desc) w.cols w.group i w.q, ip := w.ip + 1 }
  if w1.ip = predNinstr w.prog then endGroup desc w1 else w1

def workSteps (desc : List Byte) : Nat → PWork → PWork
  | 0, w => w
  | n + 1, w => workSteps desc n (workStep desc w)

/-- The rest of the current group. -/
def groupRun (desc : List Byte) (w : PWork) : PWork :=
  if curdPredEn desc then workSteps desc (predNinstr w.prog - w.ip) w else endGroup desc w

/-- Decode what the input at hand allows: the columns, and the groups that can run. -/
def curdDecode (x : Wheel) (u : UnitId) (seed : Nat) : Wheel :=
  let e := engOf x u
  let desc := e.desc
  let d := decodeCols desc e.prog e.acc u seed { x := x, dicts := e.dicts }
  let groups := curdGroups desc
  let w0 := e.work.getD { prog := e.prog }
  let before := fun (p : Nat × Nat) => match d.fail with
    | some f => decide (p.1 < f.2.group) || (p.1 == f.2.group && decide (p.2 ≤ f.1))
    | none => true
  let pages := (d.pages.filter before).length
  let w : PWork :=
    match d.fail with
    | some (c, f) =>
      if f.code = 0 then { w0 with limit := f.group, more := true } else { w0 with limit := f.group, more := false, fail := some ⟨f.code, c, f.page⟩ }
    | none => { w0 with limit := groups, more := false }
  onEng d.x u (fun e =>
    { e with st := .run, work := some { w with cols := d.cols, pages := pages }, dicts := d.dicts
             col := match d.fail with
               | some f => f.1
               | none => curdNcols desc - 1
             regs := bump e.regs 8 (pages - w0.pages) })

/-! ## Output credits (R196, R208) -/

/-- Bytes of a column's output for n emitted rows with `data` bytes of variable-width values (R194). -/
def colOutLen (c : ColEntry) (n data : Nat) : Nat :=
  32 + (if c.nullable then align32 (cdiv n 8) else 0)
    + (if c.keep then align32 (4 * n) else if ctypeVar c.ctype then align32 (4 * (n + 1)) + align32 data
       else if c.ctype = 0x01 then align32 (cdiv n 8) else align32 (n * ctypeWidth c.ctype c.width))

/-- The bytes that each output stream of a curd has after the groups done, with its column. -/
def curdOutLens (desc : List Byte) (w : PWork) : List (Nat × Nat × Nat) :=
  let rows := groupRows (curdRows desc) w.group
  let n := if curdCompact desc then (selIndices w.sel).length else rows
  ((curdEntries desc).zipIdx.filter (·.1.emit)).map (fun (c, k) =>
      let data := if c.keep || !(ctypeVar c.ctype) then 0
        else ((if curdCompact desc then keepRows w.sel (nth ⟨[], []⟩ w.cols k).vals
          else (nth ⟨[], []⟩ w.cols k).vals.take rows).map (fun v => (valBytes v).length)).foldl (· + ·) 0
      (k, c.outPort, colOutLen c n data))
    ++ (if curdSelFmt desc ≠ 0 then
        [(0, curdSelPort desc, 32 + align32 (if curdSelFmt desc = 1 then cdiv rows 8 else 2 * (selIndices w.sel).length))]
       else [])

/-- Buffers of a port that `n` bytes need. -/
def bufsFor (x : Wheel) (e : Eng) (port n : Nat) : Nat := let b := outBytes x e port; if b = 0 then 1 else cdiv n b

/-- Obtain the buffers that output streams need so far (R196): streams as (entry, port, bytes). The error is the entry of
a stream that needs more buffers than its pool holds; the Bool says that every buffer is held. -/
def outObtain (x : Wheel) (u : UnitId) (lens : List (Nat × Nat × Nat)) : Except Nat (Wheel × Bool) :=
  let e := engOf x u
  let pool := fun (port : Nat) => match portHoop e.outP port with
    | some h => (hoopOf x h).nbuf
    | none => 0
  match lens.find? (fun l => decide (pool l.2.1 < bufsFor x e l.2.1 l.2.2)) with
  | some l => .error l.1
  | none =>
    let lack := fun (e : Eng) (l : Nat × Nat × Nat) => bufsFor x e l.2.1 l.2.2 - (e.held.filter (fun p => p.1 == l.2.1)).length
    let x1 := lens.foldl (fun x l => obtainPort u l.2.1 (lack (engOf x u) l) x) x
    .ok (x1, lens.all (fun l => lack (engOf x1 u) l == 0))

/-! ## Running a curd -/

/-- The groups are done: form the output and deliver it (R196, R209). -/
def curdFinish (x : Wheel) (u : UnitId) (w : PWork) : Wheel :=
  let e := engOf x u
  let outs := curdOuts x e w.cols w.sel
  match outs.find? (fun o => outTooLong x e o.2) with
  | some (c, _) => curdFail x u ⟨0x0209, c, 0xFFFF⟩
  | none =>
    deliverOuts (onEng x u (fun e =>
      { e with outs := outs.map (·.2), regs := bump e.regs 2 (selIndices w.sel).length })) u 4 ⟨0, 0, 0xFFFF⟩

/-- A cancellation came in an earlier group than the next (R212). -/
def cancelDue (e : Eng) (group : Nat) : Bool :=
  match e.cancel with
  | some g => decide (g < group)
  | none => false

/-- Run groups until the input at hand or the output credits end, a failure is met, or the curd is done. -/
def curdGroupsRun (u : UnitId) : Nat → Wheel → Wheel
  | 0, x => x
  | n + 1, x =>
    let e := engOf x u
    match e.work with
    | none => x
    | some w =>
      if w.ip = 0 ∧ cancelDue e w.group then curdFail x u ⟨0x0701, e.col, 0xFFFF⟩
      else match (if w.ip = 0 ∧ 0 < w.group ∧ w.group < curdGroups e.desc then outObtain x u (curdOutLens e.desc w)
          else .ok (x, true)) with
        | .error c => curdFail x u ⟨0x0209, c, 0xFFFF⟩
        | .ok (x1, false) => onEng x1 u (fun e => { e with st := .outWait })
        | .ok (x1, true) =>
          if w.group < w.limit then curdGroupsRun u n (onEng x1 u (fun e => { e with st := .run, work := some (groupRun e.desc w) }))
          else if w.more then onEng x1 u (fun e => { e with st := .inWait })
          else match w.fail with
            | some f => curdFail x1 u f
            | none => curdFinish x1 u w

/-- An uncorrectable error in the press's working memory meets a running operation (R218, R222); a correctable one is
corrected. -/
def storeBad (x : Wheel) (u : UnitId) : Bool := (engOf x u).store == 2

def storeClean (x : Wheel) (u : UnitId) : Wheel := onEng x u (fun e => { e with store := 0 })

/-- Run a curd as far as its input and output credits allow. With `hold`, it stops once the columns are decoded, before
the predicate program. -/
def curdRun (x : Wheel) (u : UnitId) (seed : Nat) (hold : Bool) : Wheel :=
  let e := engOf x u
  if e.st = .drain then curdDrain x u
  else if storeBad x u then curdFail (storeClean x u) u ⟨0x020B, e.col, 0xFFFF⟩
  else match e.pend with
    | some f => deliverOuts x u 4 f
    | none =>
      let open_ := match e.work with
        | some w => w.more
        | none => true
      let x1 := if open_ then curdDecode (pullAll u 3 (curdNeeds e.desc) (storeClean x u)) u seed else storeClean x u
      match (engOf x1 u).work with
      | none => x1
      | some w =>
        if hold then onEng x1 u (fun e => { e with st := if w.more && w.group == w.limit then .inWait else .run })
        else curdGroupsRun u (w.limit - w.group + 2) x1

/-- CURD: the press takes up, or goes on with, the curd dispatched to it. -/
def curdCmd (x : Wheel) (p : Nat) (hold : Bool) (seed : Nat) : Wheel :=
  let u := pressUnit p
  let e := engOf x u
  match e.op with
  | none => x
  | some op =>
    if e.sub ≠ 0 ∨ e.fin.isSome ∨ e.st = .fenced ∨ e.st = .outOfService then x
    else
      let x1 := if e.st = .check then curdCheck x u op.ctx else x
      if (engOf x1 u).fin.isSome then x1 else curdRun x1 u seed hold

def execCurd (w : Fin 8) (p : Fin 12) (hold : Bool) (s : State) : Host.Outcome State Fault Refusal :=
  .next { onWheel s w (fun x => curdCmd x p hold s.free) with free := s.free + 1 }

/-! ## The predicate instructions as single steps -/

/-- One instruction of the running program: the program's next instruction is exactly this one. -/
def predRow (x : Wheel) (p op d a b : Nat) (k : Bool) (imm : Nat) : Wheel :=
  let u := pressUnit p
  let e := engOf x u
  match e.work with
  | none => x
  | some w =>
    if w.group < w.limit ∧ predWord w.prog w.ip = predEncode op d a b k imm ∧ e.pend.isNone ∧ e.fin.isNone ∧ e.st ≠ .outWait
        ∧ e.st ≠ .fenced ∧ cancelDue e w.group = false then
      onEng x u (fun e => { e with work := some (workStep e.desc w) })
    else x

def predCmd (w p op d a b : Nat) (k : Bool) (imm : Nat) (s : State) : Host.Outcome State Fault Refusal :=
  .next (onWheel s w (fun x => predRow x p op d a b k imm))

/-! ## Cancellation (R212) -/

/-- A cancellation finds a group boundary ahead: the last group of `groups` has not been processed. -/
def boundaryAhead (e : Eng) (groups : Nat) : Bool :=
  e.fin.isNone && e.pend.isNone && (match e.work with
    | some w => decide (w.group < groups)
    | none => true)

/-- The press stands at a group boundary: no instruction of the next group has run, and it waits for no column of the
group after its first (DESIGN CHOICE, log 76: when a group has begun). -/
def pressAtBoundary (e : Eng) : Bool :=
  match e.work with
  | some w => w.ip == 0 && !(e.st == .inWait && decide (0 < e.col))
  | none => true

end Sys2Proof.Machine
end

