-- ==== Sys2Proof/Machine/Grader.lean ====
section
/-!
DEFINITION. Sys2Proof/Machine/Grader.lean: the graders (R347–R370): sort, selection and merge.
-/

namespace Sys2Proof.Machine

open Sys2Proof

def graderUnit (g : Nat) : UnitId := ⟨4, g⟩

/-! ## The descriptor (R353, R355) -/

def gMode (d : List Byte) : Nat := bits (leAt d 0 8) 59 56
def gKtype (d : List Byte) : Nat := bits (leAt d 0 8) 55 52
def gDesc (d : List Byte) : Bool := bitAt (leAt d 0 8) 51
def gTies (d : List Byte) : Bool := bitAt (leAt d 0 8) 50
def gThrEn (d : List Byte) : Bool := bitAt (leAt d 0 8) 49
def gDropNan (d : List Byte) : Bool := bitAt (leAt d 0 8) 48
def gDedup (d : List Byte) : Bool := bitAt (leAt d 0 8) 47
def gDistinct (d : List Byte) : Bool := bitAt (leAt d 0 8) 46
def gNoEmit (d : List Byte) : Bool := bitAt (leAt d 0 8) 45
def gForm (d : List Byte) : Bool := bitAt (leAt d 0 8) 44
def gIn (d : List Byte) : Nat := bits (leAt d 0 8) 43 40
def gOut (d : List Byte) : Nat := bits (leAt d 0 8) 39 36
def gNlists (d : List Byte) : Nat := bits (leAt d 0 8) 35 32
def gSource (d : List Byte) : Nat := bits (leAt d 0 8) 31 16
def gK (d : List Byte) : Nat := bits (leAt d 0 8) 12 0
def gNin (d : List Byte) : Nat := leAt d 8 4
def gBase (d : List Byte) : Nat := leAt d 12 4
def gThr (d : List Byte) : Nat := leAt d 0x10 8

/-- Width of a key type in bytes, none for a reserved code (R347). -/
def gWidth (k : Nat) : Option Nat :=
  if k ≤ 2 then some 4 else if 4 ≤ k ∧ k ≤ 6 then some 8 else none

def gBytes (d : List Byte) : Nat := (gWidth (gKtype d)).getD 4

/-- Input ports in use. -/
def gIns (d : List Byte) : List Nat := if gMode d = 3 then upto (gNlists d + 1) else [gIn d]

/-- 0x0501. -/
def gBad1 (d : List Byte) : Bool :=
  bits (leAt d 0 8) 63 60 != 1 || bits (leAt d 0 8) 15 13 != 0 || leNat ((d.drop 0x18).take 40) != 0

/-- The combinations of R355. -/
def gCombo (d : List Byte) : Bool :=
  let k := gK d
  let select := decide (1 ≤ k) && decide (k ≤ 4096)
  let plain := !(gForm d) && gNin d == 0 && gBase d == 0
  let form := if gForm d then gNin d == 0 && gBase d == 0 else decide (1 ≤ gNin d) && decide (gNin d ≤ 65536)
  match gMode d with
  | 1 => k == 0 && form && !(gTies d) && !(gDedup d)
  | 2 => select && form && !(gDedup d) && !(gDistinct d) && !(gNoEmit d)
  | 3 =>
    plain && (if k = 0 then !(gTies d) && !(gThrEn d) && !(gDropNan d) && !(gDedup d)
      else select && !(gDistinct d) && !(gNoEmit d))
  | _ => false

/-- 0x0502 of the descriptor alone. -/
def gBad2 (d : List Byte) : Bool :=
  (gWidth (gKtype d)).isNone || !(gCombo d) || (gNoEmit d && !(gDistinct d))
    || (gDropNan d && !(gKtype d == 2 || gKtype d == 6)) || (gBytes d == 4 && decide (2 ^ 32 ≤ gThr d))
    || (gIns d).contains (gOut d)

def gBind (x : Wheel) (u : UnitId) (e : Eng) (ctx : Nat) (d : List Byte) : Except Nat Wheel :=
  let port := fun (p : Nat) => (p, portHoop e.inP p)
  match bindMany u ctx true ((gIns d).map port) x with
  | .error p => .error p
  | .ok x1 => bindMany u ctx false [port (gOut d)] x1

/-- The checks of R368 in order. -/
def graderCheck (x : Wheel) (g ctx : Nat) : Wheel :=
  let u := graderUnit g
  let e := graderOf x g
  let a := e.descAddr
  let fail := fun (x : Wheel) (code : Nat) =>
    let f : Ended := ⟨code, 0, 0xFFFFFFF⟩
    onEng (failNote x u f) u (fun e => { e with st := .run, fin := some f })
  if !(caveAddrOk x a 64) then fail x 0x0503
  else if caveUncorr x a 64 then fail x 0x0508
  else
    let d := caveRead x a 64
    let x0 := onEng (caveCorrect x a 64) u (fun e => { e with desc := d })
    if gBad1 d then fail x0 0x0501
    else if gBad2 d then fail x0 0x0502
    else match gBind x0 u e ctx d with
      | .error _ => fail x0 0x0502
      | .ok x1 =>
        if !(gForm d) && gMode d != 3 && decide (0xFFFFFFFF ≤ gBase d + gNin d - 1) then fail x1 0x0504
        else onEng x1 u (fun e => { e with st := .run, outP := e.inP })

/-! ## Keys and entries (R347–R350, R356) -/

/-- The transform T (R348). -/
def gT (ktype key : Nat) : Nat :=
  let n := 8 * (gWidth ktype).getD 4
  let top := 2 ^ (n - 1)
  match ktype % 4 with
  | 0 => key
  | 1 => key ^^^ top
  | _ => if bitAt key (n - 1) then 2 ^ n - 1 - key else key ^^^ top

def gNan (ktype key : Nat) : Bool :=
  match ktype with
  | 2 => numIsNan (numOf fp32 key)
  | 6 => numIsNan (numOf fp64 key)
  | _ => false

/-- An entry as a grader holds it: its key, index and flag, and its place: port, source and position. -/
structure GEnt where
  key : Nat
  index : Nat
  inv : Bool
  port : Nat
  src : Nat
  pos : Nat
  deriving DecidableEq, Repr

/-- Valid under R350. -/
def entValid (e : GEnt) : Bool := !e.inv && e.index != 0xFFFFFFFF

/-- Valid as an input of the operation (R356). -/
def inputValid (d : List Byte) (e : GEnt) : Bool :=
  let t := gT (gKtype d) e.key
  let thr := gT (gKtype d) (gThr d)
  entValid e && !(gDropNan d && gNan (gKtype d) e.key)
    && (!(gThrEn d) || (if gDesc d then decide (thr ≤ t) else decide (t ≤ thr)))

/-- The earlier input position (R361). -/
def posBefore (a b : GEnt) : Bool := if a.src ≠ b.src then decide (a.src < b.src) else decide (a.pos < b.pos)

/-- a precedes b (R349). -/
def entBefore (d : List Byte) (a b : GEnt) : Bool :=
  let x := gT (gKtype d) a.key
  let y := gT (gKtype d) b.key
  if x ≠ y then (if gDesc d then decide (y < x) else decide (x < y)) else posBefore a b

def gEntBytes (key index : Nat) (inv : Bool) : List Byte := leBytes 8 key ++ leBytes 4 index ++ leBytes 4 (b2n inv)

/-- The header of a list (R351). -/
def listHeader (d : List Byte) (nout nvalid : Nat) (trunc err : Bool) (ntied conflicts distinct : Nat) : List Byte :=
  leBytes 8 (nout + nvalid * 2 ^ 32)
    ++ leBytes 8 (gSource d + gKtype d * 2 ^ 16 + b2n (gDesc d) * 2 ^ 20 + b2n trunc * 2 ^ 21 + b2n err * 2 ^ 22)
    ++ leBytes 8 (ntied + conflicts * 2 ^ 32) ++ leBytes 8 distinct

/-! ## Input (R354, R361, R368) -/

/-- The operation reads keys rather than lists. -/
def gKeys (d : List Byte) : Bool := gMode d != 3 && !(gForm d)

/-- The bytes of a list, as far as its first bytes tell. -/
def listLen (bs : List Byte) : Nat := if bs.length < 32 then 32 else 32 + 16 * leAt bs 0 4

/-- The bytes a port of the operation needs, as far as they are known. Of a list whose header is lost, NOUT is not known:
its input ends with LAST (DESIGN CHOICE, log 79). -/
def gNeed (e : Eng) (port : Nat) : Nat :=
  let p : InPort := tget {} e.acc port
  if gKeys e.desc then gNin e.desc * gBytes e.desc
  else if p.lost && decide (p.bytes.length < 32) then 2 ^ 40
  else listLen p.bytes

/-- The bytes it needs with the first bytes of its head handle in view: entries may follow the header in one buffer
(R351). -/
def gNeedHead (x : Wheel) (e : Eng) (port : Nat) (hd : Handle) : Nat :=
  let p : InPort := tget {} e.acc port
  let n := min hd.len (32 - p.bytes.length)
  if gKeys e.desc || p.lost || hd.err || caveUncorr x hd.addr n then gNeed e port
  else listLen (p.bytes ++ caveRead x hd.addr n)

/-- The keys or entries read so far on a port. -/
def gRead (e : Eng) (port : Nat) : Nat :=
  let p : InPort := tget {} e.acc port
  if gKeys e.desc then p.bytes.length / gBytes e.desc else (p.bytes.length - 32) / 16

/-- Take the handles a port needs; GRD_ENTRIES_IN counts what is read. -/
def gPull (u : UnitId) (port : Nat) : Nat → Wheel → Wheel
  | 0, x => x
  | n + 1, x =>
    let e := engOf x u
    match portHoop e.inP port with
    | none => x
    | some h =>
      match (hoopOf x h).q with
      | [] => x
      | hd :: _ =>
        if portDone e port (gNeed e port) then x
        else
          let x1 := engTake x u port h (gNeedHead x e port hd) 16
          gPull u port n (onEng x1 u (fun e' => { e' with regs := bump e'.regs 1 (gRead e' port - gRead e port) }))

def gPullAll (u : UnitId) (x : Wheel) : Wheel :=
  (gIns (engOf x u).desc).foldl (fun x p =>
    match portHoop (engOf x u).inP p with
    | none => x
    | some h => gPull u p ((hoopOf x h).q.length + 1) x) x

def gNeeds (e : Eng) : List (Nat × Nat) := (gIns e.desc).map (fun p => (p, gNeed e p))

/-- A failure in the input: port, position, code. -/
structure GFail where
  port : Nat
  pos : Nat
  code : Nat
  deriving DecidableEq, Repr

/-- The code of a port whose bytes end early: ERR, an uncorrectable error, or a short input. -/
def cutCode (d : List Byte) (p : InPort) : Nat :=
  if p.lost then 0x0508 else if p.err then 0x0507
  else if gKeys d then 0x0501 + Config.shortKeys % 10 else 0x0506

/-- A port in KEYS form. -/
def keysPort (d : List Byte) (port : Nat) (p : InPort) : List GEnt × List GFail :=
  let w := gBytes d
  let n := min (gNin d) (p.bytes.length / w)
  ((upto n).map (fun i => ⟨leAt p.bytes (w * i) w, gBase d + i, false, port, 0, i⟩),
    (if n < gNin d then [⟨port, n, cutCode d p⟩] else if p.err then [⟨port, n, 0x0507⟩] else []))

/-- The first position at which a list breaks the form a merge needs (R352, R361). -/
def formBreak (d : List Byte) (nvalid : Nat) : Nat → Option GEnt → List GEnt → Option Nat
  | i, _, [] => if i < nvalid then some i else none
  | i, prev, e :: r =>
    let bad := entValid e != decide (i < nvalid)
      || (entValid e && (match prev with
          | some q => entBefore d e q
          | none => false))
    if bad then some i else formBreak d nvalid (i + 1) (some e) r

/-- A port that carries a list: its entries and failures. -/
def listPort (d : List Byte) (port : Nat) (p : InPort) (earlier : List Nat) : List GEnt × List GFail :=
  if p.bytes.length < 32 then ([], [⟨port, 0, cutCode d p⟩])
  else
    let nout := leAt p.bytes 0 4
    let w := leAt p.bytes 8 8
    let src := w % 2 ^ 16
    let head := if bitAt w 22 then [GFail.mk port 0 0x0507]
      else if bits w 19 16 ≠ gKtype d ∨ bitAt w 20 ≠ gDesc d ∨ (gMode d = 3 ∧ earlier.contains src)
        ∨ (gMode d ≠ 3 ∧ 65536 < nout) then [⟨port, 0, 0x0505⟩] else []
    let n := min nout ((p.bytes.length - 32) / 16)
    let es := (upto n).map (fun i =>
      let b := (p.bytes.drop (32 + 16 * i)).take 16
      (⟨leAt b 0 8, leAt b 8 4, bitAt (leAt b 12 4) 0, port, src, i⟩ : GEnt))
    let dirty := (upto n).find? (fun i =>
      2 ≤ leAt p.bytes (32 + 16 * i + 12) 4 || (gBytes d == 4 && leAt p.bytes (32 + 16 * i + 4) 4 != 0))
    let form := if gMode d = 3 then (match formBreak d (leAt p.bytes 4 4) 0 none es with
      | some i => if i < n ∨ n = nout then [GFail.mk port i 0x0506] else []
      | none => []) else []
    let cut := if n < nout then [GFail.mk port n (cutCode d p)] else if p.err then [⟨port, n, 0x0507⟩] else []
    (es, head ++ (match dirty with
      | some i => [⟨port, i, 0x0509⟩]
      | none => []) ++ form ++ cut)

def sourceOf (p : InPort) : Nat := leAt p.bytes 8 2

/-- The first failing port by a running total of a header field (0x050A). -/
def totalFail (limit : Nat) (f : InPort → Nat) : Nat → List (Nat × InPort) → List GFail
  | _, [] => []
  | n, (port, p) :: r => if limit < n + f p then [⟨port, 0, 0x050A⟩] else totalFail limit f (n + f p) r

/-- All entries in port order, and all failures. -/
def gInput (e : Eng) : List GEnt × List GFail :=
  let d := e.desc
  let ports := (gIns d).map (fun p => (p, (tget {} e.acc p : InPort)))
  let one := fun (p : Nat × InPort) =>
    if gKeys d then keysPort d p.1 p.2
    else listPort d p.1 p.2 ((ports.filter (fun q => decide (q.1 < p.1))).map (fun q => sourceOf q.2))
  let parts := ports.map one
  let totals := if gMode d ≠ 3 then []
    else if gDedup d then totalFail 65536 (fun p => leAt p.bytes 0 4) 0 ports
    else if gK d = 0 then totalFail 0xFFFFFFFE (fun p => leAt p.bytes 4 4) 0 ports else []
  (parts.flatMap (·.1), parts.flatMap (·.2) ++ totals)

/-- The failure at the lowest port and, within it, the lowest position (R368 step 4). -/
def firstFail (fs : List GFail) : Option GFail :=
  (sortBy (fun (a b : GFail) => if a.port ≠ b.port then decide (a.port < b.port) else decide (a.pos < b.pos)) fs).head?

/-! ## Results (R357–R363) -/

/-- Drop duplicate indices (R361): the entries kept, and the conflicting copies dropped. -/
def gDedupe (es : List GEnt) : List GEnt × List GEnt :=
  let go := fun (acc : List GEnt × List GEnt) (e : GEnt) =>
    match acc.1.find? (fun k => k.index == e.index) with
    | none => (acc.1 ++ [e], acc.2)
    | some k => if k.key ≠ e.key then (acc.1, acc.2 ++ [e]) else acc
  (sortBy posBefore es).foldl go ([], [])

/-- What an operation emits: entries, sentinels, NTIED, whether ties were cut, the conflicts and the distinct count. -/
structure GOut where
  ents : List GEnt
  sentinels : Nat
  ntied : Nat
  trunc : Bool
  conflicts : List GEnt
  distinct : Nat
  deriving DecidableEq, Repr

def distinctCount (ts : List Nat) : Nat :=
  match ts with
  | [] => 0
  | t :: r => (r.foldl (fun (p : Nat × Nat) x => if x = p.2 then p else (p.1 + 1, x)) (1, t)).1

def gResult (d : List Byte) (all : List GEnt) : GOut :=
  let valid := all.filter (inputValid d)
  let (kept, conf) := if gDedup d then gDedupe valid else (valid, [])
  let es := sortBy (entBefore d) kept
  let t := fun (e : GEnt) => gT (gKtype d) e.key
  let dist := if gDistinct d then distinctCount (es.map t) else 0
  let k := gK d
  if k = 0 then ⟨es, 0, 0, false, conf, dist⟩
  else
    match es[k - 1]? with
    | none => ⟨es, k - es.length, 0, false, conf, dist⟩
    | some kth =>
      let ntied := (es.filter (fun e => t e == t kth)).length
      let ties := if gTies d then (es.drop k).takeWhile (fun e => t e == t kth) else []
      ⟨es.take k ++ ties.take (8192 - k), 0, ntied, decide (8192 - k < ties.length), conf, dist⟩

/-- The output bytes (R351, R360, R363). -/
def gOutBytes (d : List Byte) (o : GOut) : List Byte :=
  let noEmit := gNoEmit d
  let nout := if noEmit then 0 else o.ents.length + o.sentinels
  let hdr := listHeader d nout o.ents.length o.trunc false o.ntied o.conflicts.length (if gMode d = 1 then o.distinct else 0)
  if noEmit then hdr
  else hdr ++ o.ents.flatMap (fun e => gEntBytes e.key e.index false)
    ++ (upto o.sentinels).flatMap (fun _ => gEntBytes 0 0xFFFFFFFF true)

/-! ## The life of an operation -/

def gErrOuts (d : List Byte) : List OutStream := [{ port := gOut d, bufs := [listHeader d 0 0 false true 0 0 0] }]

def gDrain (x : Wheel) (u : UnitId) : Wheel :=
  let x1 := gPullAll u x
  drainStep x1 u 16 16 (gNeeds (engOf x1 u))

def gFailTo (x : Wheel) (u : UnitId) (f : Ended) : Wheel := gDrain (startDrain x u f (gErrOuts (engOf x u).desc)) u

def gFlow (e : Eng) : Nat := (e.op.map (·.flow)).getD 0

/-- The bytes of the output not yet put. -/
def outLeft (e : Eng) : List Byte := (e.outs.flatMap (·.bufs)).flatten

/-- The valid entries and the sentinels among output bytes, of which the first `k` of the stream are put. -/
def emitted (k : Nat) (bs : List Byte) : Nat × Nat :=
  let es := chunksOf 16 (bs.length / 16 + 1) (bs.drop (32 - k))
  let s := (es.filter (fun b => leAt b 8 4 == 0xFFFFFFFF)).length
  (es.length - s, s)

/-- Deliver the output: each buffer goes into its hoop as it fills (R364), and what is emitted counts. `col` is the count of
the stream's bytes that are put. -/
def gDeliver (x : Wheel) (u : UnitId) (f : Ended) : Wheel :=
  let bs := outLeft (engOf x u)
  let x1 := deliverOuts x u 16 f
  let n := bs.length - (outLeft (engOf x1 u)).length
  onEng x1 u (fun e =>
    let c := emitted e.col (bs.take n)
    { e with col := e.col + n, regs := bump (bump e.regs 2 c.1) 3 c.2 })

/-- Form the output: the conflicts, TRUNC and DUP_CONFLICT (R374), and the stream. -/
def gFinish (x : Wheel) (u : UnitId) (all : List GEnt) : Wheel :=
  let e := engOf x u
  let d := e.desc
  let o := gResult d all
  let s := outStream x e (gOut d) (gOutBytes d o)
  let x1 := onEng x u (fun e =>
    let r1 := bump e.regs 4 o.conflicts.length
    let r2 := match sortBy (fun (a b : GEnt) => if a.port ≠ b.port then decide (a.port < b.port) else decide (a.pos < b.pos)) o.conflicts with
      | [] => r1
      | c :: _ => errSet r1 0x20 (errInfo (gFlow e) 0) (c.port * 2 ^ 28 + min c.pos 0xFFFFFFF)
    let r3 := if o.trunc then errSet r2 0x40 (errInfo (gFlow e) 0) 0xFFFFFFF else r2
    { e with regs := r3, col := 0, outs := [{ s with eager := true }] })
  gDeliver x1 u ⟨0, 0, if gMode d = 3 ∧ gDistinct d then o.distinct else 0⟩

/-- A single-bit error of the working store is corrected and counted (R369). -/
def gStoreCorr (x : Wheel) (u : UnitId) : Wheel :=
  onEng x u (fun e =>
    if e.store = 1 then
      { e with store := 0, regs := errSet (bump e.regs 7 1) 0x10 (errInfo (gFlow e) 0) 0xFFFFFFF }
    else e)

/-- Run an operation as far as its input and output credits allow. A failure of the input comes before one of the working
store (log 79). -/
def graderRun (x : Wheel) (g : Nat) : Wheel :=
  let u := graderUnit g
  let e := graderOf x g
  if e.st = .drain then gDrain x u
  else match e.pend with
    | some f => gDeliver x u f
    | none =>
      let x2 := gPullAll u x
      let e2 := engOf x2 u
      if (gNeeds e2).any (fun p => !(portDone e2 p.1 p.2)) then onEng x2 u (fun e => { e with st := .inWait })
      else
        let (es, fs) := gInput e2
        let x3 := gStoreCorr (onEng x2 u (fun e => { e with st := .run })) u
        match firstFail fs with
        | some f => gFailTo x3 u ⟨f.code, f.port, min f.pos 0xFFFFFFF⟩
        | none =>
          if (engOf x3 u).store = 2 then gFailTo (onEng x3 u (fun e => { e with store := 0 })) u ⟨0x0508, 0, 0xFFFFFFF⟩
          else gFinish x3 u es

/-- A mode's command: the grader takes up, or goes on with, the operation dispatched to it. A descriptor that names no
mode is taken up by any of the three. -/
def graderCmd (x : Wheel) (g mode : Nat) : Wheel :=
  let e := graderOf x g
  match e.op with
  | none => x
  | some op =>
    let m := gMode (if e.st = .check then caveRead x e.descAddr 8 else e.desc)
    let mine := m == mode || (e.st == .check && (m == 0 || decide (3 < m) || !(caveAddrOk x e.descAddr 64)))
    if e.fin.isSome ∨ e.st = .fenced ∨ e.st = .outOfService ∨ mine = false then x
    else
      let x1 := if e.st = .check then graderCheck x g op.ctx else x
      if (graderOf x1 g).fin.isSome then x1 else graderRun x1 g

def execSort (w : Fin 8) (g : Fin 4) (s : State) : Host.Outcome State Fault Refusal :=
  .next (onWheel s w (fun x => graderCmd x g 1))

def execSelect (w : Fin 8) (g : Fin 4) (s : State) : Host.Outcome State Fault Refusal :=
  .next (onWheel s w (fun x => graderCmd x g 2))

def execMerge (w : Fin 8) (g : Fin 4) (s : State) : Host.Outcome State Fault Refusal :=
  .next (onWheel s w (fun x => graderCmd x g 3))

/-- GRADER_CANCEL (R369): a cancelled flow's operation stops at a buffer boundary and drains. -/
def graderStop (x : Wheel) (g : Nat) : Wheel :=
  let u := graderUnit g
  let e := graderOf x g
  match e.op with
  | none => x
  | some op =>
    if e.fin.isSome || e.st == .drain || e.st == .fenced || e.st == .outOfService then x
    else
      let x1 := if e.st = .check then graderCheck x g op.ctx else x
      if (engOf x1 u).fin.isSome then x1 else gFailTo x1 u ⟨0x0701, 0, 0xFFFFFFF⟩

def execGraderCancel (w : Fin 8) (g : Fin 4) (s : State) : Host.Outcome State Fault Refusal :=
  .next (if opCancelled s w (graderOf (wheelOf s w) g) then onWheel s w (fun x => graderStop x g) else s)

end Sys2Proof.Machine
end

