-- ==== Sys2Proof/Machine/Special.lean ====
section
/-!
DEFINITION. Sys2Proof/Machine/Special.lean: the six special functions of the vector unit (R62–R66). The table
coefficients are the Taylor coefficients of R62 computed here in fixed point with 192 fraction bits and rounded to a
multiple of 2^-60; the evaluation is that of R63.
-/

namespace Sys2Proof.Machine

/-- The working precision of the coefficient computations, in fraction bits. -/
def wp : Nat := 192

def fx1 : Int := (2 ^ wp : Nat)

/-- Fixed-point product and quotient, floored. -/
def fxMul (a b : Int) : Int := floorDiv (a * b) (2 ^ wp)
def fxDiv (a b : Int) : Int := Int.fdiv (a * fx1) b
def fxOfQ (n : Int) (d : Nat) : Int := floorDiv (n * fx1) d

/-- Σ of a series whose next term is the last one through `next k term`, `n` terms from index `k`. -/
def fxSeries (next : Nat → Int → Int) : Nat → Nat → Int → Int → Int
  | 0, _, _, acc => acc
  | n + 1, k, term, acc => fxSeries next n (k + 1) (next k term) (acc + term)

/-- e^x by its Taylor series. -/
def fxExp (x : Int) : Int :=
  fxSeries (fun k term => floorDiv (fxMul term x) (k + 1)) 130 0 fx1 0

/-- The inverse hyperbolic tangent of a/b: Σ (a/b)^(2k+1)/(2k+1), and the inverse tangent with alternating signs. -/
def fxAtanh (alt : Bool) (a : Int) (b : Nat) : Int :=
  let x := fxOfQ a b
  let x2 := fxMul x x
  let s : Int := if alt then -1 else 1
  (upto 140).foldl (fun (p : Int × Int) k => (p.1 + floorDiv p.2 (2 * k + 1), s * fxMul p.2 x2)) (0, x) |>.1

def fxLn2 : Int := 2 * fxAtanh false 1 3

/-- π by Machin's formula. -/
def fxPi : Int := 16 * fxAtanh true 1 5 - 4 * fxAtanh true 1 239

def fxSqrt (x : Int) : Int := (isqrt (x.toNat * 2 ^ wp) : Int)

/-- A working value rounded to the nearest multiple of 2^-60, ties to even (R62). -/
def to60 (x : Int) : Int := rneInt x (2 ^ (wp - 60))

/-- The reduced functions (R64). -/
inductive Special where
  | exp2 | log2 | recip | rsqrt | tanh | erf
  deriving DecidableEq, Repr

/-- The degree of a function's polynomials (R64). -/
def specialDeg : Special → Nat
  | .tanh => 7
  | .erf => 7
  | _ => 4

/-- The Taylor coefficients of tanh at t from its derivative 1 − tanh²: the list c_0 … c_n, last first. -/
def tanhCoefs : Nat → Int → List Int
  | 0, t0 => [t0]
  | n + 1, t0 =>
    let cs := tanhCoefs n t0
    -- c_n … c_0 ; the square's coefficient n is Σ c_k c_(n−k)
    let sq := (List.zipWith fxMul cs cs.reverse).foldl (· + ·) 0
    let one := if n = 0 then fx1 else 0
    floorDiv (one - sq) (n + 1) :: cs

/-- The Taylor coefficients of e^(−u²) at t, last first: g' = −2 u g. -/
def gaussCoefs (t : Int) (g0 : Int) : Nat → List Int
  | 0 => [g0]
  | n + 1 =>
    match gaussCoefs t g0 n with
    | gn :: gp :: r => floorDiv (-2 * fxMul t gn - 2 * gp) (n + 1) :: gn :: gp :: r
    | gn :: r => floorDiv (-2 * fxMul t gn) (n + 1) :: gn :: r
    | [] => []

/-- erf at t by its Taylor series at 0. -/
def fxErf (t : Int) (c : Int) : Int :=
  let t2 := fxMul t t
  let s := (upto 190).foldl
    (fun (p : Int × Int) k => (p.1 + floorDiv p.2 (2 * k + 1), - floorDiv (fxMul p.2 t2) (k + 1))) (0, t)
  fxMul c s.1

/-- The coefficients c(i, 0) … c(i, d) of segment i, as integers over 2^60 (R62, R64). -/
def specialCoefs (f : Special) (i : Nat) : List Int :=
  match f with
  | .exp2 =>
    let e := fxExp (floorDiv (fxLn2 * i) 64)
    let l := fxLn2
    let go := (upto 5).foldl (fun (p : List Int × Int) k => (to60 p.2 :: p.1, floorDiv (fxMul p.2 l) (k + 1))) ([], e)
    go.1.reverse
  | .log2 =>
    let il := fxDiv fx1 fxLn2
    let c0 := fxMul (2 * fxAtanh false i (128 + i)) il
    to60 c0 :: (upto 4).map (fun k =>
      let j := k + 1
      let v := floorDiv (il * (64 ^ j : Nat)) (j * (64 + i) ^ j)
      to60 (if j % 2 = 1 then v else -v))
  | .recip =>
    (upto 5).map (fun j =>
      let n : Int := (2 ^ 60 * 64 ^ (j + 1) : Nat)
      let d := (64 + i) ^ (j + 1)
      rneInt (if j % 2 = 0 then n else -n) d)
  | .rsqrt =>
    -- (t)^(−1/2) = 8 / √(64 + i); the binomial coefficients of −1/2 are 1, −1/2, 3/8, −5/16, 35/128
    let r := fxDiv fx1 (fxSqrt (fxOfQ (64 + i) 64))
    [(1, 1), (-1, 2), (3, 8), (-5, 16), (35, 128)].zipIdx.map (fun ((n, d), j) =>
      to60 (floorDiv (r * n * (64 ^ j : Nat)) (d * (64 + i) ^ j)))
  | .tanh =>
    let e := fxExp (fxOfQ (2 * i) 8)
    let t0 := fxDiv (e - fx1) (e + fx1)
    (tanhCoefs 7 t0).reverse.map to60
  | .erf =>
    let t := fxOfQ i 16
    let c := fxDiv (2 * fx1) (fxSqrt fxPi)
    let g0 := fxDiv fx1 (fxExp (fxMul t t))
    let gs := (gaussCoefs t g0 6).reverse
    to60 (fxErf t c) :: gs.zipIdx.map (fun (g, j) => to60 (floorDiv (fxMul c g) (j + 1)))

/-- The evaluation of R63: `h` and the accumulator over 2^64, the coefficients over 2^60. -/
def specialEval (cs : List Int) (h : Int) : Int :=
  match cs.reverse with
  | [] => 0
  | c :: r => r.foldl (fun acc c => floorDiv (acc * h) (2 ^ 64) + c * 16) (c * 16)

/-- y, over 2^64, for the reduced argument u = a + n/d × 2^t with steps of 1/2^k (R63): `v` is u − a, over 2^w. -/
def specialAt (f : Special) (k v w : Nat) : Int :=
  let i := v * 2 ^ k / 2 ^ w
  let rest : Int := (v : Int) * (2 ^ k : Nat) - (i : Int) * (2 ^ w : Nat)
  let h := floorDiv (rest * (2 ^ 64 : Nat)) (2 ^ w * 2 ^ k)
  specialEval (specialCoefs f i) h

/-- The sign-and-magnitude rounding of y × 2^t, y over 2^64, to FP32 (R63, R66). -/
def specialRound (neg : Bool) (y : Int) (t : Int) : Nat :=
  roundQ fp32 false (neg != decide (y < 0)) y.natAbs 1 (t - 64)

/-- m × 2^t written as mantissa fraction u − 1 over 2^w, and the exponent n, with u in [1, 2) (R64). -/
def normParts (m : Nat) (t : Int) : Nat × Nat × Int :=
  let l := Nat.log2 m
  (m - 2 ^ l, l, t + l)

/-- 2^(−1/2) rounded to 60 fraction bits (R64). -/
def rsqrtK : Int := to60 (fxDiv fx1 (fxSqrt (2 * fx1)))

/-- One special function on an FP32 code (R62–R66). -/
def specialFn (f : Special) (a : Nat) : Nat :=
  let one (neg : Bool) : Nat := signBit fp32 neg + 0x3F800000
  match numOf fp32 a with
  | .nan => nanOf fp32
  | .inf neg =>
    match f with
    | .exp2 => if neg then 0 else overflowCode fp32 false false
    | .log2 => if neg then nanOf fp32 else overflowCode fp32 false false
    | .recip => signBit fp32 neg
    | .rsqrt => if neg then nanOf fp32 else 0
    | .tanh => one neg
    | .erf => one neg
  | .fin neg m t =>
    if m = 0 then
      match f with
      | .exp2 => one false
      | .log2 => overflowCode fp32 false true
      | .recip => overflowCode fp32 false neg
      | .rsqrt => overflowCode fp32 false neg
      | .tanh => signBit fp32 neg
      | .erf => signBit fp32 neg
    else
      match f with
      | .exp2 =>
        -- x beyond ±2^10 overflows or underflows whatever its fraction
        if 10 ≤ (Nat.log2 m : Int) + t then (if neg then 0 else overflowCode fp32 false false)
        else
          let w : Nat := if t < 0 then (-t).toNat else 0
          let s : Int := alignTo neg m t (-(w : Int))
          let n := floorDiv s (2 ^ w)
          let v := (s - n * (2 ^ w : Nat)).toNat
          specialRound false (specialAt .exp2 6 v w) n
      | .log2 =>
        if neg then nanOf fp32 else
          let (v, w, n) := normParts m t
          let y := specialAt .log2 6 v w
          let s := n * (2 ^ 64 : Nat) + y
          if s = 0 then 0 else specialRound false s 0
      | .recip =>
        let (v, w, n) := normParts m t
        specialRound neg (specialAt .recip 6 v w) (-n)
      | .rsqrt =>
        if neg then nanOf fp32 else
          let (v, w, n) := normParts m t
          let y := specialAt .rsqrt 6 v w
          let y' := if n % 2 = 0 then y else floorDiv (y * rsqrtK) (2 ^ 60)
          specialRound false y' (-(Int.fdiv n 2))
      | .tanh =>
        if numLt (.fin false m t) (.fin false 1 (-12)) then a
        else if numLe (.fin false 8 0) (.fin false m t) then one neg
        else
          let w := (-t).toNat
          let v := m * 2 ^ (t + w).toNat
          specialRound neg (specialAt .tanh 3 v w) 0
      | .erf =>
        if numLt (.fin false m t) (.fin false 1 (-12)) then
          let c := nth 0 (specialCoefs .erf 0) 1
          roundQ fp32 false neg (m * c.natAbs) 1 (t - 60)
        else if numLe (.fin false 4 0) (.fin false m t) then one neg
        else
          let w := (-t).toNat
          let v := m * 2 ^ (t + w).toNat
          specialRound neg (specialAt .erf 4 v w) 0

end Sys2Proof.Machine
end

