-- ==== Sys2Proof/Machine/PressHash.lean ====
section
/-!
DEFINITION. Sys2Proof/Machine/PressHash.lean: the hashes, order keys and numeric views of press operators (R230–R234,
R238, R247), on the values of a column.
-/

namespace Sys2Proof.Machine

/-! ## Hashes (R231, R233) -/

def m64 (x : Nat) : Nat := x % 2 ^ 64

/-- The harp hash (R231). -/
def harp64 (seed : Nat) (bs : List Byte) : Nat :=
  let n := bs.length
  let h0 := m64 seed ^^^ 0x0F1E2D3C4B5A6978 ^^^ m64 n
  let h1 := (chunksOf 8 (n / 8 + 1) bs).foldl (fun h w =>
    let y := m64 ((h ^^^ leNat w) * 0x0000010000000801)
    y ^^^ (y / 2 ^ 29)) h0
  let h2 := h1 ^^^ (h1 / 2 ^ 32)
  let h3 := m64 (h2 * 0x0000200000080001)
  h3 ^^^ (h3 / 2 ^ 29)

/-- CRC-32C from a 32-bit seed (R233). -/
def crc32cSeed (seed : Nat) (bs : List Byte) : Nat :=
  bs.foldl (crcByte' 0x82F63B78) (0xFFFFFFFF - seed % 2 ^ 32) ^^^ 0xFFFFFFFF
where
  crcByte' (poly x : Nat) (b : Byte) : Nat :=
    (upto 8).foldl (fun y _ => if y % 2 = 1 then (y / 2) ^^^ poly else y / 2) (x ^^^ b.toNat)

def rotl32 (x r : Nat) : Nat := (x * 2 ^ r + x / 2 ^ (32 - r)) % 2 ^ 32
def m32 (x : Nat) : Nat := x % 2 ^ 32

/-- MurmurHash3 x86_32 (R233). -/
def murmur3 (seed : Nat) (bs : List Byte) : Nat :=
  let scramble := fun (k : Nat) => m32 (rotl32 (m32 (k * 0xCC9E2D51)) 15 * 0x1B873593)
  let h1 := (chunksOf 4 (bs.length / 4 + 1) bs).foldl (fun h w =>
    if w.length = 4 then m32 (rotl32 (h ^^^ scramble (leNat w)) 13 * 5 + 0xE6546B64)
    else h ^^^ scramble (leNat w)) (m32 seed)
  let h2 := h1 ^^^ m32 bs.length
  let h3 := m32 ((h2 ^^^ (h2 / 2 ^ 16)) * 0x85EBCA6B)
  let h4 := m32 ((h3 ^^^ (h3 / 2 ^ 13)) * 0xC2B2AE35)
  h4 ^^^ (h4 / 2 ^ 16)

/-! ## Types of columns -/

/-- A column type as an operator sees it: a code of R179 with its width; element types stand for the column type of the
same values: INT32 for int32, FP32 for float32 (R236). -/
structure ColTy where
  code : Nat
  width : Nat
  deriving DecidableEq, Repr

def elemColTy (ty : Nat) : Option ColTy :=
  match ty with
  | 0x12 => some ⟨0x04, 0⟩
  | 0x01 => some ⟨0x0B, 0⟩
  | _ => none

def tySigned (c : Nat) : Bool := decide (2 ≤ c) && decide (c ≤ 5)
def tyInt (c : Nat) : Bool := decide (2 ≤ c) && decide (c ≤ 9)
def tyFloat (c : Nat) : Bool := decide (0x0A ≤ c) && decide (c ≤ 0x0C)
def tyNumeric (c : Nat) : Bool := tyInt c || tyFloat c
def floatFmt (c : Nat) : Fmt := if c = 0x0A then fp16 else if c = 0x0B then fp32 else fp64
/-- Fixed-width types (R250): integers, floats, booleans, fixed-size binary. -/
def tyFixed (c : Nat) : Bool := (decide (1 ≤ c) && decide (c ≤ 0x0C)) || c == 0x12

/-- Bytes of a key column's value in the key (R230). -/
def keyWidth (t : ColTy) : Nat := if t.code = 0x01 then 1 else ctypeWidth t.code t.width

/-- The hash bytes of a value that is not null (R230). -/
def hashBytes (t : ColTy) (v : Val) : List Byte :=
  match v with
  | .null => []
  | .str b => if t.code = 0x12 then takePad 0 t.width b else b
  | .fixed x =>
    let w := keyWidth t
    if tyFloat t.code then
      let f := floatFmt t.code
      let y := match numOf f x with
        | .nan => nanOf f
        | .fin _ 0 _ => 0
        | _ => x
      leBytes w y
    else leBytes w x

/-- The signed value of an integer column's bits. -/
def intValue (t : Nat) (x : Nat) : Int := if tySigned t then sext (8 * ctypeWidth t 0) x else (x : Int)

/-- A numeric value as float64 (R238). -/
def toF64 (t x : Nat) : Nat :=
  if tyFloat t then fCvt (floatFmt t) fp64 false x else roundTo fp64 false (numOfInt (intValue t x))

/-- A type with an order key (R234). -/
def tyOrder (t : ColTy) : Bool := tyNumeric t.code || t.code == 0x01 || (t.code == 0x12 && decide (t.width ≤ 8))

/-- The order key of a value (R234); none for NaN. -/
def orderKey (t : ColTy) (v : Val) : Option Nat :=
  match v with
  | .null => none
  | .str b => some (beNat' (takePad 0 8 (takePad 0 t.width b)))
  | .fixed x =>
    if tyFloat t.code then
      match numOf fp64 (toF64 t.code x) with
      | .nan => none
      | .fin _ 0 _ => some (2 ^ 63)
      | _ =>
        let y := toF64 t.code x
        some (if y < 2 ^ 63 then y + 2 ^ 63 else 2 ^ 64 - 1 - y)
    else if tySigned t.code then some (wrapInt 64 (intValue t.code x) ^^^ 2 ^ 63)
    else some x
where
  beNat' (bs : List Byte) : Nat := bs.foldl (fun acc b => 256 * acc + b.toNat) 0

/-! ## log1p (R247) -/

/-- ln(n × 2^t) for a positive n, over 2^192: (log2 n + t) ln 2 + 2 atanh((z − 1)/(z + 1)) with z = n / 2^(log2 n). -/
def fxLn (n : Nat) (t : Int) : Int :=
  let k := Nat.log2 n
  ((k : Int) + t) * fxLn2 + 2 * fxAtanh false ((n : Int) - (2 ^ k : Nat)) (n + 2 ^ k)

/-- The correctly rounded log1p of a float64. Below 2^-54 in magnitude the result rounds to the value itself. -/
def log1pF64 (a : Nat) : Nat :=
  match numOf fp64 a with
  | .nan => nanOf fp64
  | .inf neg => if neg then nanOf fp64 else a
  | .fin neg m t =>
    if m = 0 then a
    else if numLt (.fin false m t) (.fin false 1 (-54)) then a
    else
      let t0 : Int := min t 0
      let s : Int := alignTo neg m t t0 + alignTo false 1 0 t0
      if s < 0 then nanOf fp64
      else if s = 0 then overflowCode fp64 false true
      else
        let y := fxLn s.toNat t0
        roundQ fp64 false (decide (y < 0)) y.natAbs 1 (-(wp : Int))

/-- The signed form: sign(x) × log1p(|x|). -/
def signedLog1p (a : Nat) : Nat :=
  if numIsNan (numOf fp64 a) then nanOf fp64 else log1pF64 (a % 2 ^ 63) + a / 2 ^ 63 * 2 ^ 63

end Sys2Proof.Machine
end

