-- ==== Sys2Proof/Machine/Tensor.lean ====
section
/-!
DEFINITION. Sys2Proof/Machine/Tensor.lean: tensor descriptors (R69–R71), element addresses (R72, R73, R78, R79), their
validation (R74–R81, R99–R101, R693), and the exchange network (R96–R98).
-/

namespace Sys2Proof.Machine

/-- A tensor descriptor's fields (R69). `bad` says that some reserved field is not zero. -/
structure Desc where
  ver : Nat
  ty : Nat
  rank : Nat
  idxDim : Nat
  idxPol : Nat
  idxEn : Bool
  wmode : Nat
  blkEn : Bool
  blk0 : Nat
  blk1 : Nat
  space : Nat
  cbSize : Nat
  base : Nat
  size : List Nat
  valid0 : Nat
  idxLimit : Nat
  strideRaw : List Nat
  scaleBase : Nat
  cbBase : Nat
  idxBase : Nat
  bad : Bool
  deriving DecidableEq, Repr

/-- Read a descriptor from its 128 bytes. -/
def descOf (bs : List Byte) : Desc :=
  let q := fun o => leAt bs o 8
  let w0 := q 0
  { ver := bits w0 63 60, ty := bits w0 55 48, rank := bits w0 47 45, idxDim := bits w0 43 41
    idxPol := bits w0 40 39, idxEn := bitAt w0 38, wmode := bits w0 37 36, blkEn := bitAt w0 35
    blk0 := bits w0 34 31, blk1 := bits w0 30 27, space := bits w0 26 25, cbSize := bits w0 24 23
    base := bits (q 8) 56 0
    size := (upto 6).map (fun d => leAt bs (0x10 + 4 * d) 4)
    valid0 := leAt bs 0x28 4, idxLimit := leAt bs 0x2C 4
    strideRaw := (upto 6).map (fun d => q (0x30 + 8 * d))
    scaleBase := bits (q 0x60) 56 0, cbBase := bits (q 0x68) 56 0, idxBase := bits (q 0x70) 56 0
    bad := bits w0 59 56 != 0 || bitAt w0 44 || bits w0 22 0 != 0 || bits (q 8) 63 57 != 0
      || bits (q 0x60) 63 57 != 0 || bits (q 0x68) 63 57 != 0 || bits (q 0x70) 63 57 != 0 || q 0x78 != 0 }

def dSize (d : Desc) (k : Nat) : Nat := nth 0 d.size k

/-- STRIDE[k] as the signed 48-bit value (R70). -/
def dStride (d : Desc) (k : Nat) : Int := sext 48 (nth 0 d.strideRaw k)

/-- Bits per element of a type code, 0 for a code that is not listed (R71). -/
def tyBits (ty : Nat) : Nat :=
  match ty with
  | 0x01 => 32 | 0x02 => 16 | 0x03 => 16 | 0x04 => 8 | 0x05 => 8
  | 0x08 => 8 | 0x09 => 8 | 0x0A => 6 | 0x0B => 6 | 0x0C => 4
  | 0x10 => 8 | 0x11 => 4 | 0x12 => 32
  | 0x18 => 2 | 0x19 => 3 | 0x1A => 4 | 0x1C => 2 | 0x1D => 3 | 0x1E => 4
  | 0x20 => 128 | 0x21 => 8
  | _ => 0

def tyListed (ty : Nat) : Bool := tyBits ty != 0
def tyMX (ty : Nat) : Bool := decide (0x08 ≤ ty) && decide (ty ≤ 0x0C)
def tyCB (ty : Nat) : Bool := (decide (0x18 ≤ ty) && decide (ty ≤ 0x1A)) || (decide (0x1C ≤ ty) && decide (ty ≤ 0x1E))

/-- The floating-point element format of a type code: of a codebook type, that of its entries (R42, R71). -/
def tyFmt (ty : Nat) : Option Fmt :=
  match ty with
  | 0x01 => some fp32 | 0x02 => some bf16 | 0x03 => some fp16
  | 0x04 => some e4m3 | 0x05 => some e5m2 | 0x08 => some e4m3 | 0x09 => some e5m2
  | 0x0A => some e3m2 | 0x0B => some e2m3 | 0x0C => some e2m1
  | 0x18 => some e4m3 | 0x19 => some e4m3 | 0x1A => some e4m3
  | 0x1C => some e5m2 | 0x1D => some e5m2 | 0x1E => some e5m2
  | _ => none

/-- A format that R33 marks as a matrix operand. -/
def tyMatrixOperand (ty : Nat) : Bool :=
  ty == 0x02 || ty == 0x04 || ty == 0x05 || tyMX ty || ty == 0x10 || ty == 0x11 || tyCB ty

/-- The kind of a tile (R146). -/
inductive TileKind where
  | integer | bf16 | exact
  deriving DecidableEq, Repr

/-- The tile kind of an operand pair, none where R34 refuses the pair (0x0111). -/
def pairKind (ta tb : Nat) : Option TileKind :=
  if !(tyMatrixOperand ta) || !(tyMatrixOperand tb) then none
  else if ta == 0x02 || tb == 0x02 then (if ta == tb then some .bf16 else none)
  else if ta == 0x10 || ta == 0x11 then (if tb == 0x10 || tb == 0x11 then some .integer else none)
  else if tb == 0x10 || tb == 0x11 then none
  else if tyCB ta && tyCB tb then none
  else some .exact

/-! ## Element addresses -/

/-- Where an element lies: the operation stops with a code at index j, nothing is read or written, or the offset from
BASE in elements and the coordinates after redirection (R72). -/
inductive ElemAt where
  | stop (code j : Nat)
  | null
  | offset (o : Int) (c : List Int)
  deriving DecidableEq, Repr

def sumStrides (d : Desc) (lo : Nat) (c : List Int) : Int :=
  (upto d.rank).foldl (fun acc k => if lo ≤ k then acc + nth 0 c k * dStride d k else acc) 0

/-- The offset of unredirected coordinates in either layout (R72, R77). -/
def layoutOffset (d : Desc) (c : List Int) : Int :=
  if d.blkEn then
    let b0 := 2 ^ d.blk0
    let b1 := 2 ^ d.blk1
    let c0 := nth 0 c 0
    let c1 := nth 0 c 1
    floorDiv c0 b0 * dStride d 0 + floorDiv c1 b1 * dStride d 1 + (c1 % (b1 : Int)) * b0 + c0 % (b0 : Int)
      + sumStrides d 2 c
  else sumStrides d 0 c

/-- The element at coordinates `i` (R72); `ix j` is the 32-bit index word j, or the code of what keeps it from being
read. -/
def elemAt (d : Desc) (ix : Nat → Except Nat Nat) (i : List Nat) : ElemAt :=
  if d.valid0 ≤ nth 0 i 0 then .null
  else
    let c : List Int := i.map (fun (x : Nat) => (x : Int))
    if d.idxEn then
      let j := nth 0 i d.idxDim
      match ix j with
      | .error code => .stop code j
      | .ok w =>
        let x := sext 32 w
        if x < 0 || (d.idxLimit : Int) ≤ x then
          match d.idxPol with
          | 0 => .stop 0x0130 j
          | 1 =>
            let c' := putAt c d.idxDim (min (max x 0) ((d.idxLimit : Int) - 1))
            .offset (layoutOffset d c') c'
          | _ => .null
        else
          let c' := putAt c d.idxDim x
          .offset (layoutOffset d c') c'
    else .offset (layoutOffset d c) c

/-- The byte address of the first byte of an element, and the bit within it (R72, R39). -/
def elemByte (d : Desc) (o : Int) : Nat × Nat :=
  let b := o * (tyBits d.ty : Int)
  (((d.base : Int) + floorDiv b 8).toNat, (b % 8).toNat)

/-- The bytes an element occupies. -/
def elemSpan (d : Desc) (o : Int) : Nat × Nat :=
  let (a, p) := elemByte d o
  (a, cdiv (p + tyBits d.ty) 8)

/-- The address of an MX element's block scale (R78). -/
def scaleAddr (d : Desc) (c : List Int) : Nat :=
  ((d.scaleBase : Int) + floorDiv (nth 0 c 0) 32
    + (upto d.rank).foldl (fun acc k => if 1 ≤ k then acc + nth 0 c k * floorDiv (dStride d k) 32 else acc) 0).toNat

/-- The address of a weight's codebook slot (R79). -/
def cbAddr (d : Desc) (c : List Int) : Nat :=
  ((d.cbBase : Int) + 16 * (floorDiv (nth 0 c 0) 256
    + (upto d.rank).foldl (fun acc k => if 1 ≤ k then acc + nth 0 c k * floorDiv (dStride d k) 256 else acc) 0)).toNat

/-- The code of an element from a byte reader: none where a byte cannot be read. -/
def elemCode (d : Desc) (rd : Nat → Nat → Option (List Byte)) (o : Int) : Option Nat :=
  let (a, n) := elemSpan d o
  let p := (elemByte d o).2
  (rd a n).map (fun bs => leNat bs / 2 ^ p % 2 ^ tyBits d.ty)

/-! ## Validation -/

/-- The engine class and role a descriptor is checked in (R693). DESIGN CHOICE (log 74): one that no DESC entry names is
checked against both rows of a vat together (`vatAny`): what either role permits in checks 4, 7, 11, 12 and 13 passes. -/
inductive DescRole where
  | vatRead | vatWrite | vatAny | streamSrc | streamDst | other
  deriving DecidableEq, Repr

/-- The role of a DESC entry (R449, R693). -/
def descRole (cls role : Nat) : DescRole :=
  if cls = 1 then (if role = 0 then .vatRead else if role = 1 then .vatWrite else .other)
  else if cls = 5 then (if role = 2 then .streamSrc else if role = 3 then .streamDst else .other)
  else .other

def roleReads : DescRole → Bool
  | .vatRead => true
  | .vatAny => true
  | .streamSrc => true
  | _ => false

def roleWrites : DescRole → Bool
  | .vatWrite => true
  | .vatAny => true
  | .streamDst => true
  | _ => false

def roleType (r : DescRole) (ty : Nat) : Bool :=
  let rd := tyMatrixOperand ty || ty == 0x20
  let wr := ty == 0x01 || ty == 0x02 || ty == 0x03 || ty == 0x04 || ty == 0x05 || ty == 0x12 || ty == 0x20
  match r with
  | .vatRead => rd
  | .vatWrite => wr
  | .vatAny => rd || wr
  | .streamSrc => tyListed ty && !(tyMX ty) && !(tyCB ty)
  | .streamDst => tyListed ty && !(tyMX ty) && !(tyCB ty)
  | .other => false

def roleSpace (r : DescRole) (sp : Nat) : Bool :=
  match r with
  | .vatRead => sp == 1
  | .vatWrite => sp == 1
  | .vatAny => sp == 1
  | .streamSrc => sp != 1
  | .streamDst => sp != 1
  | .other => false

/-- STRIDE[d] of R70 and SIZE[d] against RANK (check 2). -/
def rankOk (d : Desc) : Bool :=
  decide (1 ≤ d.rank) && decide (d.rank ≤ 6)
    && (upto 6).all (fun k =>
      if k < d.rank then decide (1 ≤ dSize d k)
      else decide (dSize d k = 0) && decide (nth 0 d.strideRaw k = 0))
    && d.strideRaw.all (fun x => wrapInt 64 (sext 48 x) == x)

/-- CB_SIZE agrees with the index width of a codebook type (R42, check 6). -/
def cbOk (d : Desc) : Bool :=
  if tyCB d.ty then d.cbSize + 2 == tyBits d.ty else true

/-- STRIDE[0] as R74, R78 and R79 permit it (check 7). -/
def stride0Ok (d : Desc) (r : DescRole) : Bool :=
  let s := dStride d 0
  if tyMX d.ty || tyCB d.ty then s == 1
  else if d.blkEn then true
  else s == 1
    || (s == -1 && decide (8 ≤ tyBits d.ty) && d.ty != 0x20)
    || (s == 0 && roleReads r && decide (8 ≤ tyBits d.ty))

def baseOk (d : Desc) : Bool :=
  if d.blkEn then true
  else if dStride d 0 == -1 then (d.base + tyBits d.ty / 8) % 32 == 0
  else d.base % 32 == 0

def extentOk (d : Desc) : Bool :=
  (d.blkEn || dStride d 0 == 0 || dSize d 0 * tyBits d.ty % 256 == 0)
    && decide (1 ≤ d.valid0) && decide (d.valid0 ≤ dSize d 0)

/-- The outer strides of R76 (check 10). -/
def outerOk (d : Desc) : Bool :=
  (upto d.rank).all (fun k =>
    if k = 0 then true
    else
      let s := dStride d k
      (decide (8 ≤ tyBits d.ty) || s * (tyBits d.ty : Int) % 8 == 0)
        && (!(tyMX d.ty) || s % 32 == 0) && (!(tyCB d.ty) || s % 256 == 0))

/-- A blocked layout (R77, check 11). -/
def blockedOk (d : Desc) (r : DescRole) : Bool :=
  if d.blkEn then
    let b0 := 2 ^ d.blk0
    let b1 := 2 ^ d.blk1
    decide (d.blk0 ≤ 8) && decide (d.blk1 ≤ 8) && decide (2 ≤ d.rank) && b0 * tyBits d.ty % 256 == 0
      && dSize d 0 % b0 == 0 && dSize d 1 % b1 == 0
      && dStride d 0 % (b0 : Int) == 0 && dStride d 1 % (b0 : Int) == 0
      && (roleReads r || (dStride d 0 != 0 && dStride d 1 != 0))
      && d.base % 32 == 0 && !(tyMX d.ty) && !(tyCB d.ty) && d.ty != 0x20
      && !(d.idxEn && decide (d.idxDim ≤ 1))
  else true

def wmodeOk (d : Desc) (r : DescRole) : Bool :=
  (roleReads r && d.wmode == 0)
    || (roleWrites r && (d.wmode == 0 || (d.wmode == 1 && (d.ty == 0x01 || d.ty == 0x12 || d.ty == 0x20))))

def zeroStrideOk (d : Desc) (r : DescRole) : Bool :=
  roleReads r || d.wmode == 1 || (upto d.rank).all (fun k => dStride d k != 0)

def sideOk (d : Desc) : Bool :=
  (if tyMX d.ty then d.scaleBase % 32 == 0 else d.scaleBase == 0)
    && (if tyCB d.ty then d.cbBase % 32 == 0 else d.cbBase == 0 && d.cbSize == 0)

def indexOk (d : Desc) : Bool :=
  if d.idxEn then
    d.idxBase % 32 == 0 && decide (1 ≤ d.idxDim) && decide (d.idxDim < d.rank) && decide (1 ≤ d.idxLimit)
      && decide (d.idxLimit ≤ 0x7FFFFFFF) && d.idxPol != 3
  else d.idxBase == 0 && d.idxDim == 0 && d.idxPol == 0 && d.idxLimit == 0

/-- The extent of coordinate k that R81 ranges over. -/
def rangeMax (d : Desc) (k : Nat) : Int :=
  if d.idxEn && d.idxDim == k then (d.idxLimit : Int) - 1 else (dSize d k : Int) - 1

/-- The lowest and highest value of Σ c[k] × g k over the coordinates from `lo` on. -/
def sumRange (d : Desc) (lo : Nat) (g : Nat → Int) : Int × Int :=
  (upto d.rank).foldl (fun p k =>
    if k < lo then p else
      let x := rangeMax d k * g k
      (p.1 + min 0 x, p.2 + max 0 x)) (0, 0)

/-- The lowest and highest element offset (R81). -/
def offRange (d : Desc) : Int × Int :=
  if d.blkEn then
    let b0 := 2 ^ d.blk0
    let b1 := 2 ^ d.blk1
    let (lo, hi) := sumRange d 2 (dStride d)
    let x0 := (((dSize d 0) / b0 : Nat) : Int) - 1
    let x1 := (((dSize d 1) / b1 : Nat) : Int) - 1
    (lo + min 0 (x0 * dStride d 0) + min 0 (x1 * dStride d 1),
     hi + max 0 (x0 * dStride d 0) + max 0 (x1 * dStride d 1) + ((b0 * b1 : Nat) : Int) - 1)
  else sumRange d 0 (dStride d)

/-- Every byte an element or side-tensor entry could occupy lies below `limit` (R81, check 16). -/
def addressOk (d : Desc) (limit : Nat) : Bool :=
  let (lo, hi) := offRange d
  let n : Int := tyBits d.ty
  let first := (d.base : Int) + floorDiv (lo * n) 8
  let last := (d.base : Int) + floorDiv (hi * n + n - 1) 8
  let data := decide (0 ≤ first) && decide (last < (limit : Int))
  let side := fun (base : Nat) (unit : Nat) (group : Nat) =>
    let (l, h) := sumRange d 1 (fun k => floorDiv (dStride d k) group)
    let top := floorDiv (rangeMax d 0) group
    decide (0 ≤ (base : Int) + unit * l) && decide ((base : Int) + unit * (h + top) + unit - 1 < (limit : Int))
  data && (if tyMX d.ty then side d.scaleBase 1 32 else true) && (if tyCB d.ty then side d.cbBase 16 256 else true)

/-- The bytes of a descriptor's address space: the bound buffer for SPACE 1 (R81). -/
def spaceLimit (d : Desc) (bound : Nat) : Nat := if d.space = 1 then bound else 2 ^ 57

/-- A reduction of more than 2^24 products (R45, check 17): the extent of the reduction dimension of an operand. -/
def tooLong (d : Desc) (r : DescRole) : Bool :=
  (r == .vatRead || r == .vatAny) && tyMatrixOperand d.ty && d.ty != 0x02 && decide (16777216 < dSize d 0)

/-- Validation of a descriptor (R101): the code of the first failing check, 0 for none. `bound` is the length of the
Cave buffer for SPACE 1; `range` says whether check 16 is due now (R99). -/
def descCheck (d : Desc) (r : DescRole) (bound : Nat) (range : Bool) : Nat :=
  if d.ver ≠ 1 ∨ d.bad then 0x0120
  else if !(rankOk d) then 0x0121
  else if !(tyListed d.ty) then 0x0122
  else if !(roleType r d.ty) then 0x0123
  else if !(roleSpace r d.space) then 0x0131
  else if !(cbOk d) then 0x0114
  else if !(stride0Ok d r) then 0x0126
  else if !(baseOk d) then 0x0124
  else if !(extentOk d) then 0x0125
  else if !(outerOk d) then 0x0129
  else if !(blockedOk d r) then 0x012D
  else if !(wmodeOk d r) then 0x0128
  else if !(zeroStrideOk d r) then 0x0127
  else if !(sideOk d) then 0x012E
  else if !(indexOk d) then 0x012F
  else if range && !(addressOk d (spaceLimit d bound)) then 0x012A
  else if tooLong d r then 0x0110
  else 0

/-- The number of elements of a descriptor: the product of its sizes. -/
def descCount (d : Desc) : Nat := (upto d.rank).foldl (fun acc k => acc * dSize d k) 1

/-- The coordinates of linear position k (R85): dimension 0 varies fastest. -/
def coordsAt (d : Desc) (k : Nat) : List Nat :=
  (d.size.take d.rank).foldl (fun (p : List Nat × Nat) n => (p.1 ++ [p.2 % n], p.2 / n)) ([], k) |>.1

/-! ## Writing an element -/

/-- The combination of REDUCE_ADD (R86): the new element, and the condition of R55 (0 for none). -/
def reduceAdd (ty old new : Nat) : Nat × Nat :=
  match ty with
  | 0x01 => (fAdd fp32 old new, 0)
  | 0x12 =>
    let v := sext 32 old + sext 32 new
    (wrapInt 32 (max (-(2 ^ 31)) (min (2 ^ 31 - 1) v)), 0)
  | _ => combinePartial old new

/-- The bytes that an element write leaves: bits of neighbours in the same bytes stay. -/
def putCode (d : Desc) (o : Int) (old : List Byte) (code : Nat) : List Byte :=
  let p := (elemByte d o).2
  let n := tyBits d.ty
  let x := leNat old
  let lowPart := x % 2 ^ p
  let highPart := x / 2 ^ (p + n) * 2 ^ (p + n)
  leBytes old.length (highPart + code % 2 ^ n * 2 ^ p + lowPart)

/-! ## The exchange network -/

/-- b(s) of stage s (R96). -/
def stageBit (s : Nat) : Nat := if s ≤ 5 then s else 10 - s

/-- The lower lane that switch j of a stage joins (R96). -/
def switchLane (b j : Nat) : Nat := j / 2 ^ b * 2 ^ (b + 1) + j % 2 ^ b

/-- One stage on lanes, `set j` the setting of switch j. -/
def stagePass (b : Nat) (set : Nat → Bool) (xs : List Word) : List Word :=
  (upto 64).map (fun i =>
    let hi := bitAt i b
    let a := if hi then i - 2 ^ b else i
    let j := a / 2 ^ (b + 1) * 2 ^ b + a % 2 ^ b
    nth 0 xs (if set j then (if hi then a else a + 2 ^ b) else i))

/-- A pass in explicit mode: bit 32s + j of the control block sets switch j of stage s (R97). -/
def exchangeExplicit (ctl : Nat) (xs : List Word) : List Word :=
  (upto 11).foldl (fun ys s => stagePass (stageBit s) (fun j => bitAt ctl (32 * s + j)) ys) xs

/-- σ(k) of a bit-permute control word (R97). -/
def sigmaAt (ctl k : Nat) : Nat := bits ctl (3 * k + 2) (3 * k)

/-- A bit-permute control word is valid: σ is a permutation of 0 to 5 and bits [31:24] are zero (R97). -/
def permuteOk (ctl : Nat) : Bool :=
  (upto 6).all (fun v => (upto 6).any (fun k => sigmaAt ctl k == v)) && bits ctl 31 24 == 0

/-- The output lane of an input lane in bit-permute mode (R97). -/
def permuteLane (ctl i : Nat) : Nat :=
  (upto 6).foldl (fun acc k => acc + b2n (bitAt i (sigmaAt ctl k) != bitAt ctl (18 + k)) * 2 ^ k) 0

/-- A pass in bit-permute mode: input lane i leaves on lane `permuteLane ctl i`. -/
def exchangePermute (ctl : Nat) (xs : List Word) : List Word :=
  (upto 64).map (fun o =>
    nth 0 xs ((upto 64).foldl (fun acc i => if permuteLane ctl i == o then i else acc) 0))

end Sys2Proof.Machine
end

