-- ==== Sys2Proof/Machine/Operands.lean ====
section
/-!
DEFINITION. Sys2Proof/Machine/Operands.lean: the operand forms of the vat's slots: the field layout of R141, the legality
of a bundle (R142), the registers a slot writes (R143), and the register files as the slots read and write them (R144).
-/

namespace Sys2Proof.Machine

/-- A slot's word from its fields (R141). -/
def slotWord (op d fa fb fc pr imm : Nat) : Nat :=
  op * 2 ^ 56 + d * 2 ^ 51 + fa * 2 ^ 46 + fb * 2 ^ 41 + fc * 2 ^ 36 + pr * 2 ^ 33 + imm

def slOp (w : Nat) : Nat := bits w 63 56
def slD (w : Nat) : Nat := bits w 55 51
def slFA (w : Nat) : Nat := bits w 50 46
def slFB (w : Nat) : Nat := bits w 45 41
def slFC (w : Nat) : Nat := bits w 40 36
def slPR (w : Nat) : Nat := bits w 35 33
def slImm (w : Nat) : Nat := bits w 31 0

/-- Slot k of a bundle (R140): 0 control, 1 matrix, 2 vector, 3 move. -/
def bundleSlot (b : BitVec 256) (k : Nat) : Nat := bits b.toNat (64 * k + 63) (64 * k)

/-- The file a slot field names (R142). `pw` is a predicate that is written, so not P0 (R144). -/
inductive FieldKind where
  | unused | s | v | a | p | pw | c | t
  deriving DecidableEq, Repr

def fieldOk (k : FieldKind) (x : Nat) : Bool :=
  match k with
  | .unused => x == 0
  | .s => true
  | .v => true
  | .a => decide (x ≤ 15)
  | .p => decide (x ≤ 7)
  | .pw => decide (x ≤ 7) && x != 0
  | .c => decide (x ≤ 1)
  | .t => decide (x ≤ 7)

/-- The operand form of an opcode: the kind of each field, whether PR is used, and the IMM bits it uses. -/
structure SlotForm where
  d : FieldKind := .unused
  fa : FieldKind := .unused
  fb : FieldKind := .unused
  fc : FieldKind := .unused
  pr : Bool := false
  imm : Nat := 0
  deriving DecidableEq, Repr

/-- The control slot's opcodes and forms. -/
def controlForm (op : Nat) : Option SlotForm :=
  match op with
  | 0x00 => some {}
  | 0x01 => some {}
  | 0x02 => some { fa := .s }
  | 0x03 => some { imm := 0x1FF }
  | 0x04 => some { fa := .s, imm := 0x1FF }
  | 0x05 => some { fa := .s, imm := 0x1FF }
  | 0x06 => some { d := .s, imm := 0x1FF }
  | 0x08 => some { d := .s, imm := 0xFFFFFFFF }
  | 0x0A => some { d := .s, fa := .s, imm := 0xFFFFFFFF }
  | 0x20 => some { d := .pw, fa := .p, fb := .p }
  | 0x21 => some { d := .pw, fa := .p, fb := .p }
  | 0x22 => some { d := .pw, fa := .p, fb := .p }
  | 0x23 => some { d := .pw, fa := .p }
  | 0x24 => some { d := .pw, fa := .s }
  | 0x25 => some { d := .pw, fa := .s, fb := .s }
  | 0x26 => some { d := .s, fa := .p }
  | n => if n == 0x09 || (decide (0x0B ≤ n) && decide (n ≤ 0x17)) then some { d := .s, fa := .s, fb := .s } else none

/-- The matrix slot's opcodes and forms. The S registers named inside IMM need no check: every 5-bit value is one. -/
def matrixForm (op : Nat) : Option SlotForm :=
  match op with
  | 0x00 => some {}
  | 0x01 => some { d := .c, imm := 0x3FFFF }
  | 0x02 => some { d := .c }
  | 0x03 => some { d := .c, fa := .t, fb := .t, fc := .s, imm := 0x1F }
  | 0x04 => some { d := .c, fa := .t, fb := .t, fc := .s, imm := 0x7FFF }
  | 0x05 => some { d := .c, imm := 0x1FF }
  | 0x06 => some { d := .c, fa := .t, fc := .s, imm := 0x1F }
  | 0x07 => some { d := .c }
  | _ => none

def v3 : SlotForm := { d := .v, fa := .v, fb := .v, pr := true }
def v2 : SlotForm := { d := .v, fa := .v, pr := true }
def vcmp : SlotForm := { d := .pw, fa := .v, fb := .v, pr := true }
def vshift : SlotForm := { d := .v, fa := .v, pr := true, imm := 0x1F }

/-- The vector slot's opcodes and forms. -/
def vectorForm (op : Nat) : Option SlotForm :=
  match op with
  | 0x00 => some {}
  | 0x01 => some v3 | 0x02 => some v3 | 0x03 => some v3
  | 0x04 => some { v3 with fc := .v }
  | 0x05 => some v3 | 0x06 => some v3
  | 0x07 => some v2 | 0x08 => some v2
  | 0x10 => some v2 | 0x11 => some v2 | 0x12 => some v2 | 0x13 => some v2 | 0x14 => some v2 | 0x15 => some v2
  | 0x18 => some vcmp | 0x19 => some vcmp | 0x1A => some vcmp | 0x1B => some vcmp
  | 0x20 => some v3 | 0x21 => some v3 | 0x22 => some v3 | 0x23 => some v3 | 0x24 => some v3 | 0x25 => some v3
  | 0x26 => some vshift | 0x27 => some vshift | 0x28 => some vshift
  | 0x29 => some v3 | 0x2A => some v3
  | 0x2B => some vcmp
  | 0x30 => some { v2 with imm := 0x1FFFF }
  | 0x31 => some { v2 with imm := 0xFF }
  | 0x32 => some { v2 with imm := 0xFF }
  | 0x38 => some { d := .v, fa := .s, pr := true }
  | 0x39 => some v3
  | 0x3A => some v2 | 0x3B => some v2
  | 0x3C => some { d := .v, pr := true }
  | _ => none

/-- The move slot's opcodes and forms. -/
def moveForm (op : Nat) : Option SlotForm :=
  match op with
  | 0x00 => some {}
  | 0x01 => some { d := .v, fa := .a, imm := 0xFFFFFFFF }
  | 0x02 => some { fa := .a, fb := .v, pr := true, imm := 0xFFFFFFFF }
  | 0x03 => some { d := .v, fa := .a, fc := .s, imm := 0xFFFFFFFF }
  | 0x04 => some { d := .v, fa := .a, fb := .a, imm := 0xFFFFFFFF }
  | 0x05 => some { d := .v, fa := .s }
  | 0x06 => some { d := .v, fa := .s, imm := 0x3F }
  | 0x07 => some { d := .s, fa := .v, imm := 0x3F }
  | 0x08 => some { d := .a, fa := .a, imm := 0xFFFFFFFF }
  | 0x09 => some { d := .a, fa := .a, fb := .s }
  | 0x0A => some { d := .a, fa := .s, fb := .s }
  | 0x0B => some { d := .s, fa := .a }
  | 0x10 => some { d := .t, fc := .s, imm := 0x1F }
  | 0x11 => some { d := .t, fa := .c, fc := .s, imm := 0x1F }
  | 0x18 => some { d := .a, fb := .s, imm := 0x3 }
  | 0x19 => some { imm := 0x3 }
  | 0x1A => some { d := .a, imm := 0x3 }
  | 0x1B => some { fb := .s, imm := 0x3 }
  | 0x20 => some { fa := .a, fb := .s, fc := .a }
  | _ => none

def slotForm (k op : Nat) : Option SlotForm :=
  match k with
  | 0 => controlForm op
  | 1 => matrixForm op
  | 2 => vectorForm op
  | _ => moveForm op

/-- A slot's word is legal (R142): a listed opcode, fields within their files, bit 32 and every unused bit zero. -/
def slotLegal (k w : Nat) : Bool :=
  match slotForm k (slOp w) with
  | none => false
  | some f =>
    fieldOk f.d (slD w) && fieldOk f.fa (slFA w) && fieldOk f.fb (slFB w) && fieldOk f.fc (slFC w)
      && (f.pr || slPR w == 0) && !(bitAt w 32) && (slImm w &&& f.imm) == slImm w

/-- The parts of a slot that the load of an ISTORE section checks (R457 step 8): unused fields and bit 32. -/
def slotLoadable (k w : Nat) : Bool :=
  match slotForm k (slOp w) with
  | none => !(bitAt w 32)
  | some f =>
    (f.d != .unused || slD w == 0) && (f.fa != .unused || slFA w == 0) && (f.fb != .unused || slFB w == 0)
      && (f.fc != .unused || slFC w == 0) && (f.pr || slPR w == 0) && !(bitAt w 32) && (slImm w &&& f.imm) == slImm w

/-- A register, tile or buffer that a slot writes (R143). -/
inductive Dest where
  | s (n : Nat) | v (n : Nat) | a (n : Nat) | p (n : Nat) | tile (n : Nat) | staging
  deriving DecidableEq, Repr

/-- What a slot writes. -/
def slotDests (k w : Nat) : List Dest :=
  let d := slD w
  let op := slOp w
  match k with
  | 0 =>
    match controlForm op with
    | some f => if f.d = .s then [.s d] else if f.d = .pw then [.p d] else []
    | none => []
  | 1 => if op = 0 then [] else if op = 5 then [.staging] else [.tile d]
  | 2 =>
    match vectorForm op with
    | some f => if f.d = .v then [.v d] else if f.d = .pw then [.p d] else []
    | none => []
  | _ =>
    match op with
    | 0x18 => [.a d, .s (slFB w)]
    | 0x1A => [.a d]
    | _ =>
      match moveForm op with
      | some f => if f.d = .v then [.v d] else if f.d = .s then [.s d] else if f.d = .a then [.a d] else []
      | none => []

/-- Two slots of the bundle write the same register, tile or staging buffer (R143). -/
def destClash (b : BitVec 256) : Bool :=
  let ds := (upto 4).map (fun k => slotDests k (bundleSlot b k))
  (upto 4).any (fun i => (upto 4).any (fun j => i != j && (nth [] ds i).any (fun x => (nth [] ds j).contains x)))

/-! ## The register files -/

def sGet (r : VatProg) (n : Nat) : Word := tget 0 r.s n
def sSet (r : VatProg) (n : Nat) (x : Word) : VatProg := { r with s := tset 0 r.s n x }
def aGet (r : VatProg) (n : Nat) : DWord := tget 0 r.a n
def aSet (r : VatProg) (n : Nat) (x : DWord) : VatProg := { r with a := tset 0 r.a n x }

/-- P0 reads as all lanes true (R144). -/
def pGet (r : VatProg) (n : Nat) : DWord := if n = 0 then 0xFFFFFFFFFFFFFFFF else tget 0 r.p n
def pSet (r : VatProg) (n : Nat) (x : DWord) : VatProg := if n = 0 then r else { r with p := tset 0 r.p n x }

/-- Lane i of vector register n. -/
def vLane (r : VatProg) (n i : Nat) : Word := tget 0 r.v (64 * n + i)
def vSetLane (r : VatProg) (n i : Nat) (x : Word) : VatProg := { r with v := tset 0 r.v (64 * n + i) x }

/-- The 64 lanes of a vector register, and writing them all. -/
def vGet (r : VatProg) (n : Nat) : List Word := (upto 64).map (vLane r n)
def vSet (r : VatProg) (n : Nat) (xs : List Word) : VatProg :=
  (upto 64).foldl (fun q i => vSetLane q n i (nth 0 xs i)) r

/-- Lane i is true in predicate pr. -/
def pLane (r : VatProg) (pr i : Nat) : Bool := (pGet r pr).getLsbD i

def tileGet (r : VatProg) (c : Nat) : Tile := if c = 0 then r.c0 else r.c1
def tileSet (r : VatProg) (c : Nat) (t : Tile) : VatProg := if c = 0 then { r with c0 := t } else { r with c1 := t }

def inPort (r : VatProg) (q : Nat) : VPort := tget {} r.inP q
def outPort (r : VatProg) (q : Nat) : VPort := tget {} r.outP q
def inPortSet (r : VatProg) (q : Nat) (p : VPort) : VatProg := { r with inP := tset {} r.inP q p }
def outPortSet (r : VatProg) (q : Nat) (p : VPort) : VatProg := { r with outP := tset {} r.outP q p }

end Sys2Proof.Machine
end

