-- ==== Sys2Proof/Machine/VatCore.lean ====
section
/-!
DEFINITION. Sys2Proof/Machine/VatCore.lean: what the slots of a bundle act on. A slot reads its source registers as they
were in the issue clock (`snap`, R150) and writes the live registers, the bank, the hoops and the ring; it may raise a
condition (R169, R171) or hold the whole bundle back (`stall`).
-/

namespace Sys2Proof.Machine

/-- The context of a slot: the wheel, the vat number, the registers at issue, where the next bundle lies, and the indices
that the bundle's MMA has applied already. -/
structure VCtx where
  x : Wheel
  v : Nat
  snap : VatProg
  next : Nat
  mma : Nat := 0

/-- What a slot does. `fail` is a condition that leaves an effect: a partial with NAN set (R55, R160). -/
inductive VRes where
  | ok (c : VCtx)
  | cond (code value : Nat)
  | fail (c : VCtx) (code value : Nat)
  | stall

/-- The meaning of a slot. -/
abbrev VEff := VCtx → VRes

def vOn (c : VCtx) (f : Vat → Vat) : VCtx := { c with x := onVat c.x c.v f }
def vProg (c : VCtx) (f : VatProg → VatProg) : VCtx := vOn c (fun t => { t with prog := f t.prog })
def vNow (c : VCtx) : VatProg := (vatOf c.x c.v).prog
def vS (c : VCtx) (n : Nat) : Word := sGet c.snap n
def vA (c : VCtx) (n : Nat) : DWord := aGet c.snap n

def putS (c : VCtx) (n : Nat) (x : Word) : VRes := .ok (vProg c (fun r => sSet r n x))
def putA (c : VCtx) (n : Nat) (x : DWord) : VRes := .ok (vProg c (fun r => aSet r n x))
def putP (c : VCtx) (n : Nat) (x : DWord) : VRes := .ok (vProg c (fun r => pSet r n x))
def putV (c : VCtx) (n : Nat) (xs : List Word) : VRes := .ok (vProg c (fun r => vSet r n xs))

/-- Bind the outcome of a part of a slot. -/
def vBind {α : Type} (e : Except (Nat × Nat) α) (k : α → VRes) : VRes :=
  match e with
  | .error (code, value) => .cond code value
  | .ok a => k a

def vCount (c : VCtx) (k n : Nat) : VCtx := vOn c (fun t => { t with regs := bump t.regs k n })

/-! ## The bank as a program sees it (R145) -/

def vVisible (c : VCtx) : Nat := visibleEnd c.x.saveSlots

/-- An aligned range of the visible bank, or 0x0145 (R145, R165). -/
def bankRange (c : VCtx) (off n align : Nat) : Except (Nat × Nat) Unit :=
  if off % align = 0 ∧ off + n ≤ vVisible c then .ok () else .error (0x0145, 0)

/-- Read bank bytes through the vat read port: a double-bit error completes the operation with 0x0101 (R112), and data
from the ring-in or the wheel port that is not visible yet does not show (R152). -/
def bankRead (c : VCtx) (off n : Nat) : Option (List Byte) :=
  let a := bankAddr c.v off
  if caveUncorr c.x a n then none else some (seenRead c.x a n)

def bankReadE (c : VCtx) (off n : Nat) : Except (Nat × Nat) (List Byte) :=
  match bankRead c off n with
  | some bs => .ok bs
  | none => .error (0x0101, 0)

/-- Correct the single-bit errors that a read of the range met. -/
def bankCorrect (c : VCtx) (off n : Nat) : VCtx := { c with x := caveCorrect c.x (bankAddr c.v off) n }

def bankWrite (c : VCtx) (off : Nat) (bs : List Byte) : VCtx := { c with x := caveStore c.x (bankAddr c.v off) bs }

/-! ## Tiles -/

def tileTA (t : Tile) : Nat := bits t.cfg.toNat 7 0
def tileTB (t : Tile) : Nat := bits t.cfg.toNat 15 8
def tileShape (t : Tile) : Nat := bits t.cfg.toNat 17 16

/-- Rows and columns of a shape (R105, R146). -/
def shapeDims (sh : Nat) : Nat × Nat :=
  match sh with
  | 0 => (64, 64)
  | 1 => (16, 256)
  | 2 => (4, 1024)
  | _ => (1, 4096)

def tileRows (t : Tile) : Nat := (shapeDims (tileShape t)).1
def tileCols (t : Tile) : Nat := (shapeDims (tileShape t)).2

/-- The kind of a tile, none while it is unconfigured (R146). -/
def tileKind (t : Tile) : Option TileKind := if t.cfg = 0 then none else pairKind (tileTA t) (tileTB t)

/-- The condition a configuration word raises (R146): 0x0111 or nothing; a word of zero raises none. -/
def cfgCheck (cfg : Word) : Nat :=
  if cfg = 0 then 0
  else match pairKind (bits cfg.toNat 7 0) (bits cfg.toNat 15 8) with
    | some _ => 0
    | none => 0x0111

def typeT (ty : Nat) : Int :=
  match tyFmt ty with
  | some f => fmtT f
  | none => 0

/-- Ta + Tb of a tile's operand formats (R48). -/
def tileTT (t : Tile) : Int := typeT (tileTA t) + typeT (tileTB t)

/-- Some operand of the tile is microscaled. -/
def tileMX (t : Tile) : Bool := tyMX (tileTA t) || tyMX (tileTB t)

def tileOut (t : Tile) (i : Nat) : TileOut := tget {} t.outs i

/-- The anchor of output i (R147): an integer tile's is 0 and that of a floating tile without microscaled operands is
Ta + Tb − 71; a microscaled tile's is present or absent. -/
def tileAnchor (t : Tile) (i : Nat) : Option Int :=
  match tileKind t with
  | some .integer => some 0
  | some .exact => if tileMX t then (tileOut t i).anchor else some ((tileOut t i).anchor.getD (tileTT t - 71))
  | _ => none

/-- A cleared tile of the same configuration (R154): entries, flags and counts zero, anchors as R147 states. -/
def tileClear (t : Tile) : Tile := { cfg := t.cfg, manc := t.manc }

def outWin (o : TileOut) : Win :=
  ⟨o.w.toInt, o.flags.getLsbD 0, o.flags.getLsbD 1, o.flags.getLsbD 2, o.flags.getLsbD 3⟩

/-- A tile entry of a window (R106): flags NAN, PINF, NINF, INEXACT from bit 0. -/
def winOutEntry (W : Win) (anchor : Option Int) : TileOut :=
  { w := BitVec.ofInt 96 W.w
    flags := BitVec.ofNat 4 (b2n W.nan + 2 * b2n W.pinf + 4 * b2n W.ninf + 8 * b2n W.inexact)
    anchor := anchor }

/-- The table of outputs from the list of all of them. -/
def outsOf (os : List TileOut) : List (Nat × TileOut) :=
  (os.zipIdx.filter (fun p => p.1 ≠ {})).map (fun p => (p.2, p.1))

/-! ## Descriptors and operands of the matrix slot (R139) -/

/-- The descriptor of slot T[t] for a matrix instruction, MSTO or MSTP: 0x014B, 0x014A, 0x0131 (R139). -/
def matDesc (c : VCtx) (t : Nat) : Except (Nat × Nat) Desc :=
  match tget [] c.snap.t t with
  | [] => .error (0x014B, 0)
  | bs =>
    let d := descOf bs
    if d.rank ≠ 2 then .error (0x014A, 0)
    else if d.space ≠ 1 then .error (0x0131, 0)
    else .ok d

/-- The index word j of a descriptor's index tensor, from the bank: 0x0145 outside its visible part (R145), 0x0101 on a
double-bit error (R112). -/
def descIx (c : VCtx) (d : Desc) (j : Nat) : Except Nat Nat :=
  match bankRange c (d.idxBase + 4 * j) 4 4 with
  | .error e => .error e.1
  | .ok _ =>
    match bankRead c (d.idxBase + 4 * j) 4 with
    | some bs => .ok (leNat bs)
    | none => .error 0x0101

/-- Correct the single-bit errors in the index words of some rows (R112). -/
def correctIndex (c : VCtx) (d : Desc) (rows : List Nat) : VCtx :=
  if d.idxEn && c.x.caveBad.any (fun b => b.2 == 1) then rows.foldl (fun acc r => bankCorrect acc (d.idxBase + 4 * r) 4) c
  else c

/-- An operand element as the array reads it: its block scale exponent (none is NaN), and its exact value or null (an
element at VALID0 or beyond, R73, whose block keeps its scale). -/
inductive Opnd where
  | null (scale : Option Int)
  | val (x : FNum) (scale : Option Int)
  deriving DecidableEq, Repr

/-- Element k of a run whose element 0 has coordinates `cs`. -/
def readOpnd (c : VCtx) (d : Desc) (cs : List Int) (k : Nat) : Except (Nat × Nat) Opnd :=
  let cs' := putAt cs 0 (k : Int)
  if d.valid0 ≤ k then
    if tyMX d.ty then
      match bankRead c (scaleAddr d cs') 1 with
      | some [b] => .ok (.null (e8m0 b.toNat))
      | _ => .error (0x0101, 0)
    else .ok (.null (some 0))
  else
    let o := layoutOffset d cs'
    match elemCode d (fun a n => bankRead c a n) o with
    | none => .error (0x0101, 0)
    | some code =>
      if tyCB d.ty then
        match bankRead c (cbAddr d cs' + code) 1, tyFmt d.ty with
        | some [b], some f => .ok (.val (numOf f b.toNat) (some 0))
        | _, _ => .error (0x0101, 0)
      else match tyFmt d.ty with
        | some f =>
          if tyMX d.ty then
            match bankRead c (scaleAddr d cs') 1 with
            | some [b] => .ok (.val (numOf f code) (e8m0 b.toNat))
            | _ => .error (0x0101, 0)
          else .ok (.val (numOf f code) (some 0))
        | none => .ok (.val (numOfInt (sext (tyBits d.ty) code)) (some 0))

/-- Collect results, stopping at the first error. -/
def collect {α β : Type} (f : α → Except (Nat × Nat) β) : List α → Except (Nat × Nat) (List β)
  | [] => .ok []
  | a :: r =>
    match f a with
    | .error e => .error e
    | .ok b =>
      match collect f r with
      | .error e => .error e
      | .ok bs => .ok (b :: bs)

/-- Row `row` of an operand over reduction indices k0 … k0 + n − 1, none for a null run (R93); 0x0130 carries the index
position (R92). -/
def readRun (c : VCtx) (d : Desc) (k0 n row : Nat) : Except (Nat × Nat) (Option (List Opnd)) :=
  match elemAt d (descIx c d) [0, row] with
  | .stop code j => .error (code, j)
  | .null => .ok none
  | .offset _ cs =>
    match collect (readOpnd c d cs) ((upto n).map (· + k0)) with
    | .error e => .error e
    | .ok xs => .ok (some xs)

/-- The block scale exponents of a run for the pre-pass (R155): none for a null run; a block without part is none. -/
def readScales (c : VCtx) (d : Desc) (row : Nat) : Except (Nat × Nat) (Option (List (Option Int))) :=
  match elemAt d (descIx c d) [0, row] with
  | .stop code j => .error (code, j)
  | .null => .ok none
  | .offset _ cs =>
    let n := cdiv (dSize d 0) 32
    if tyMX d.ty then
      match collect (fun j =>
          match bankRead c (scaleAddr d (putAt cs 0 ((32 * j : Nat) : Int))) 1 with
          | some [b] => .ok (e8m0 b.toNat)
          | _ => .error (0x0101, 0)) (upto n) with
      | .error e => .error e
      | .ok xs => .ok (some xs)
    else .ok (some (List.replicate n (some 0)))

/-- K of one output (R155): the largest combined scale, 0 where no block takes part. -/
def anchorK (a b : Option (List (Option Int))) : Int :=
  match a, b with
  | some xs, some ys =>
    let sums := (xs.zip ys).filterMap (fun p =>
      match p with
      | (some x, some y) => some (x + y)
      | _ => none)
    match sums with
    | [] => 0
    | k :: r => r.foldl max k
  | _, _ => 0

def opScale : Opnd → Option Int
  | .null sc => sc
  | .val _ sc => sc

/-- The combined scale of two blocks lies above the K of an output (R156). -/
def scaleAbove (K : Int) (a b : Option Int) : Bool :=
  match a, b with
  | some i, some j => decide (K < i + j)
  | _, _ => false

/-- One product of an exact reduction (R50, R51, R156): a combined scale above the output's anchor raises 0x0141; a null
element contributes nothing. -/
def exactStep (L K : Int) (W : Win) (a b : Opnd) : Except (Nat × Nat) Win :=
  if scaleAbove K (opScale a) (opScale b) then .error (0x0141, 0)
  else match a, b with
    | .val x sx, .val y sy => .ok (winMac L W x y sx sy)
    | _, _ => .ok W

def exactFold (L K : Int) : Win → List (Opnd × Opnd) → Except (Nat × Nat) Win
  | W, [] => .ok (winClose W)
  | W, (a, b) :: r =>
    match exactStep L K W a b with
    | .error e => .error e
    | .ok W' => exactFold L K W' r

/-- The FP32 code of one BF16 product (R59 step 1); a null element reads as +0 (R73). -/
def bfProduct (a b : Opnd) : Nat :=
  let val := fun (o : Opnd) => match o with
    | .val x _ => x
    | .null _ => .fin false 0 0
  roundTo fp32 false (numMul (val a) (val b))

def bfSegV (w : BitVec 96) : Bool := w.getLsbD 64
def bfTotV (w : BitVec 96) : Bool := w.getLsbD 65
def bfSeg (w : BitVec 96) : Nat := bits w.toNat 31 0
def bfTot (w : BitVec 96) : Nat := bits w.toNat 63 32

/-- Two reads of which both may stop; of two indices out of range the lower position is reported, A's or B's (R92). -/
def bothOk {α β : Type} (a : Except (Nat × Nat) α) (b : Except (Nat × Nat) β) : Except (Nat × Nat) (α × β) :=
  match a, b with
  | .ok x, .ok y => .ok (x, y)
  | .error (0x0130, i), .error (0x0130, j) => .error (0x0130, min i j)
  | .error e, _ => .error e
  | .ok _, .error e => .error e

/-- Some entry of the tile fails its parity bit: an instruction that reads the entries raises 0x0102 (R136). -/
def tileParity (t : Tile) : Bool := !t.parityBad.isEmpty

/-- A BF16 tile entry from its fields (R107). -/
def bfEntry (seg tot : Nat) (segV totV : Bool) : BitVec 96 :=
  BitVec.ofNat 96 (seg + tot * 2 ^ 32 + b2n segV * 2 ^ 64 + b2n totV * 2 ^ 65)

/-- Add a chunk sum to SEG: the first is written without an addition (R107). -/
def bfAddChunk (w : BitVec 96) (s : Nat) : BitVec 96 :=
  bfEntry (if bfSegV w then fAdd fp32 (bfSeg w) s else s) (bfTot w) true (bfTotV w)

/-- Close the segment of an entry (R158): nothing changes while SEG_V is 0. -/
def bfCloseSeg (w : BitVec 96) : BitVec 96 :=
  if bfSegV w then bfEntry (bfSeg w) (if bfTotV w then fAdd fp32 (bfTot w) (bfSeg w) else bfSeg w) false true else w

/-- The value a BF16 entry converts from (R159): +0 where neither part is valid. -/
def bfValue (w : BitVec 96) : Nat :=
  if bfTotV w && bfSegV w then fAdd fp32 (bfTot w) (bfSeg w)
  else if bfTotV w then bfTot w
  else if bfSegV w then bfSeg w
  else 0

end Sys2Proof.Machine
end

