-- ==== Sys2Proof/Machine/VatVector.lean ====
section
/-!
DEFINITION. Sys2Proof/Machine/VatVector.lean: what each vector-slot instruction does (the vector slot's table, R61,
R150, R161–R164). A lane false in P[PR] keeps its destination value unless the instruction says otherwise.
-/

namespace Sys2Proof.Machine

def wordOf (x : Nat) : Word := BitVec.ofNat 32 x

/-- Merge computed lanes into V[D] under P[PR] (Vector slot). -/
def mergeV (c : VCtx) (d pr : Nat) (f : Nat → Word) : VRes :=
  putV c d ((upto 64).map (fun i => if pLane c.snap pr i then f i else vLane c.snap d i))

/-- A two-source lane instruction. -/
def effV3 (f : Word → Word → Word) (d fa fb pr : Nat) : VEff := fun c =>
  mergeV c d pr (fun i => f (vLane c.snap fa i) (vLane c.snap fb i))

/-- A one-source lane instruction. -/
def effV2 (f : Word → Word) (d fa pr : Nat) : VEff := fun c => mergeV c d pr (fun i => f (vLane c.snap fa i))

def lAdd (a b : Word) : Word := wordOf (fAdd fp32 a.toNat b.toNat)
def lSub (a b : Word) : Word := wordOf (fSub fp32 a.toNat b.toNat)
def lMul (a b : Word) : Word := wordOf (fMul fp32 a.toNat b.toNat)

/-- Minimum and maximum (R161): the canonical NaN when either operand is NaN; −0 is below +0. -/
def lMin (a b : Word) : Word :=
  let x := numOf fp32 a.toNat
  let y := numOf fp32 b.toNat
  if numIsNan x || numIsNan y then wordOf (nanOf fp32)
  else if numLt x y then a
  else if numLt y x then b
  else if a.msb then a else b

def lMax (a b : Word) : Word :=
  let x := numOf fp32 a.toNat
  let y := numOf fp32 b.toNat
  if numIsNan x || numIsNan y then wordOf (nanOf fp32)
  else if numLt x y then b
  else if numLt y x then a
  else if a.msb then b else a

def effVadd (d fa fb pr : Nat) : VEff := effV3 lAdd d fa fb pr
def effVsub (d fa fb pr : Nat) : VEff := effV3 lSub d fa fb pr
def effVmul (d fa fb pr : Nat) : VEff := effV3 lMul d fa fb pr

/-- VFMA: a × b + c rounded once (R61). -/
def effVfma (d fa fb fc pr : Nat) : VEff := fun c =>
  mergeV c d pr (fun i => wordOf (fFma fp32 (vLane c.snap fa i).toNat (vLane c.snap fb i).toNat (vLane c.snap fc i).toNat))

def effVmin (d fa fb pr : Nat) : VEff := effV3 lMin d fa fb pr
def effVmax (d fa fb pr : Nat) : VEff := effV3 lMax d fa fb pr

/-- VABS clears the sign bit and VNEG inverts it, of a NaN too (the vector slot's table). -/
def lAbs (a : Word) : Word := a &&& 0x7FFFFFFF
def lNeg (a : Word) : Word := a ^^^ 0x80000000

def effVabs (d fa pr : Nat) : VEff := effV2 lAbs d fa pr
def effVneg (d fa pr : Nat) : VEff := effV2 lNeg d fa pr

/-- A special function lane by lane (R62–R66). -/
def effSpecial (f : Special) (d fa pr : Nat) : VEff := effV2 (fun a => wordOf (specialFn f a.toNat)) d fa pr

def effVexp2 (d fa pr : Nat) : VEff := effSpecial .exp2 d fa pr
def effVlog2 (d fa pr : Nat) : VEff := effSpecial .log2 d fa pr
def effVrcp (d fa pr : Nat) : VEff := effSpecial .recip d fa pr
def effVrsq (d fa pr : Nat) : VEff := effSpecial .rsqrt d fa pr
def effVtanh (d fa pr : Nat) : VEff := effSpecial .tanh d fa pr
def effVerf (d fa pr : Nat) : VEff := effSpecial .erf d fa pr

/-- A compare writes P[D]; a lane false in P[PR] gets 0 (R161). -/
def effCmp (f : Word → Word → Bool) (d fa fb pr : Nat) : VEff := fun c =>
  putP c d (BitVec.ofNat 64 ((upto 64).foldl (fun acc i =>
    acc + b2n (pLane c.snap pr i && f (vLane c.snap fa i) (vLane c.snap fb i)) * 2 ^ i) 0))

def cLt (a b : Word) : Bool := numLt (numOf fp32 a.toNat) (numOf fp32 b.toNat)
def cLe (a b : Word) : Bool := numLe (numOf fp32 a.toNat) (numOf fp32 b.toNat)
def cEq (a b : Word) : Bool := numEq (numOf fp32 a.toNat) (numOf fp32 b.toNat)
def cUn (a b : Word) : Bool := numIsNan (numOf fp32 a.toNat) || numIsNan (numOf fp32 b.toNat)
def cIlt (a b : Word) : Bool := a.slt b

def effVcmplt (d fa fb pr : Nat) : VEff := effCmp cLt d fa fb pr
def effVcmple (d fa fb pr : Nat) : VEff := effCmp cLe d fa fb pr
def effVcmpeq (d fa fb pr : Nat) : VEff := effCmp cEq d fa fb pr
def effVcmpun (d fa fb pr : Nat) : VEff := effCmp cUn d fa fb pr
def effVicmplt (d fa fb pr : Nat) : VEff := effCmp cIlt d fa fb pr

def iAdd (a b : Word) : Word := a + b
def iSub (a b : Word) : Word := a - b
def iMul (a b : Word) : Word := a * b
def iAnd (a b : Word) : Word := a &&& b
def iOr (a b : Word) : Word := a ||| b
def iXor (a b : Word) : Word := a ^^^ b
def iMin (a b : Word) : Word := if a.slt b then a else b
def iMax (a b : Word) : Word := if a.slt b then b else a

def effViadd (d fa fb pr : Nat) : VEff := effV3 iAdd d fa fb pr
def effVisub (d fa fb pr : Nat) : VEff := effV3 iSub d fa fb pr
def effVimul (d fa fb pr : Nat) : VEff := effV3 iMul d fa fb pr
def effVand (d fa fb pr : Nat) : VEff := effV3 iAnd d fa fb pr
def effVor (d fa fb pr : Nat) : VEff := effV3 iOr d fa fb pr
def effVxor (d fa fb pr : Nat) : VEff := effV3 iXor d fa fb pr
def effVimin (d fa fb pr : Nat) : VEff := effV3 iMin d fa fb pr
def effVimax (d fa fb pr : Nat) : VEff := effV3 iMax d fa fb pr
def effVshl (d fa imm pr : Nat) : VEff := effV2 (fun a => a <<< imm) d fa pr
def effVshr (d fa imm pr : Nat) : VEff := effV2 (fun a => a >>> imm) d fa pr
def effVsra (d fa imm pr : Nat) : VEff := effV2 (fun a => a.sshiftRight imm) d fa pr

/-- The 2,048 bits of a vector register as one number, lane 0 lowest. -/
def vBits (xs : List Word) : Nat := xs.foldr (fun x acc => x.toNat + 2 ^ 32 * acc) 0

/-- 64 lanes from a number. -/
def vOfBits (x : Nat) : List Word := (upto 64).map (fun i => wordOf (x / 2 ^ (32 * i)))

/-- Element i of a packed register. -/
def packGet (x w i : Nat) : Nat := x / 2 ^ (w * i) % 2 ^ w

/-- Elements packed from bit 0 upwards. -/
def packAll (w : Nat) (es : List Nat) : Nat := es.foldr (fun e acc => e % 2 ^ w + 2 ^ w * acc) 0

def vcvtTypeOk (ty : Nat) : Bool := mcvtType ty || ty == 0x10 || ty == 0x11
where
  mcvtType (ty : Nat) : Bool := ty == 0x01 || ty == 0x02 || ty == 0x03 || ty == 0x04 || ty == 0x05 || ty == 0x12

/-- The value of a packed element of a VCVT type. -/
def vcvtNum (ty code : Nat) : FNum :=
  match tyFmt ty with
  | some f => numOf f code
  | none => numOfInt (sext (tyBits ty) code)

/-- One element converted (R162): floating to floating and integer to floating round to nearest even with the overflow
mode, and every conversion to an integer rounds, saturates and maps NaN to 0. -/
def vcvtElem (src dst : Nat) (inf : Bool) (code : Nat) : Nat :=
  let x := vcvtNum src code
  match tyFmt dst with
  | some f => roundTo f (!inf) x
  | none =>
    let n := tyBits dst
    let top : Int := (2 ^ (n - 1) : Nat)
    wrapInt n (roundInt (-top) (top - 1) x)

/-- VCVT (R162): 64 elements; an element whose predicate bit is 0 is written as zero. -/
def effVcvt (d fa : Nat) (src dst : Byte) (inf : Bool) (pr : Nat) : VEff := fun c =>
  if !(vcvtTypeOk src.toNat) || !(vcvtTypeOk dst.toNat) then .cond 0x0123 0
  else
    let x := vBits (vGet c.snap fa)
    let es := (upto 64).map (fun i =>
      if pLane c.snap pr i then vcvtElem src.toNat dst.toNat inf (packGet x (tyBits src.toNat) i) else 0)
    putV c d (vOfBits (packAll (tyBits dst.toNat) es))

/-- VMXQ (R163, R41): two blocks of 32 lanes; the scales lie in lane 63. -/
def effVmxq (d fa : Nat) (ty : Byte) (pr : Nat) : VEff := fun c =>
  if !(tyMX ty.toNat) then .cond 0x0123 0
  else match tyFmt ty.toNat with
    | none => .cond 0x0123 0
    | some f =>
      let src := (upto 64).map (fun i =>
        if pLane c.snap pr i then numOf fp32 (vLane c.snap fa i).toNat else .fin false 0 0)
      let b0 := mxEncode f (src.take 32)
      let b1 := mxEncode f (src.drop 32)
      let x := packAll f.width (b0.2 ++ b1.2)
      putV c d (putAt (vOfBits x) 63 (wordOf (b0.1 + 256 * b1.1)))

/-- VMXD (R163): the reverse layout, each element times its block scale rounded once to FP32. -/
def effVmxd (d fa : Nat) (ty : Byte) (pr : Nat) : VEff := fun c =>
  if !(tyMX ty.toNat) then .cond 0x0123 0
  else match tyFmt ty.toNat with
    | none => .cond 0x0123 0
    | some f =>
      let x := vBits (vGet c.snap fa)
      let scales := (vLane c.snap fa 63).toNat
      mergeV c d pr (fun i =>
        wordOf (roundTo fp32 false (mxDecode f (if i < 32 then scales % 256 else scales / 256 % 256) (packGet x f.width i))))

def effVbcast (d fa pr : Nat) : VEff := fun c => mergeV c d pr (fun _ => vS c fa)

/-- VSEL: a where P[PR] is true, b elsewhere; every lane is written. -/
def effVsel (d fa fb pr : Nat) : VEff := fun c =>
  putV c d ((upto 64).map (fun i => if pLane c.snap pr i then vLane c.snap fa i else vLane c.snap fb i))

def effVlane (d pr : Nat) : VEff := fun c => mergeV c d pr wordOf

/-- One level of a reduction tree. -/
def treeLevel (f : Word → Word → Word) : List Word → List Word
  | a :: b :: r => f a b :: treeLevel f r
  | r => r

/-- The fixed tree of R164 over 64 lanes. -/
def treeReduce (f : Word → Word → Word) (xs : List Word) : Word :=
  nth 0 ((upto 6).foldl (fun ys _ => treeLevel f ys) xs) 0

/-- VRSUM and VRMAX (R164): lane 0 gets the tree's result, every other lane +0. -/
def effTree (f : Word → Word → Word) (neutral : Word) (d fa pr : Nat) : VEff := fun c =>
  let xs := (upto 64).map (fun i => if pLane c.snap pr i then vLane c.snap fa i else neutral)
  putV c d (treeReduce f xs :: List.replicate 63 0)

def effVrsum (d fa pr : Nat) : VEff := effTree lAdd 0x80000000 d fa pr
def effVrmax (d fa pr : Nat) : VEff := effTree lMax 0xFF800000 d fa pr

end Sys2Proof.Machine
end

