-- ==== Sys2Proof/Machine/LadleCalc.lean ====
section
/-!
DEFINITION. Sys2Proof/Machine/LadleCalc.lean: what a ladle computes (R300–R316, R329–R332): headers and table
descriptors, bag blocks, the pooling definition, gradients, optimisers and requantisation.
-/

namespace Sys2Proof.Machine

/-! ## Headers (R302, R306) -/

def lhMode (d : List Byte) : Nat := bits (leAt d 0 8) 59 56
def lhMean (d : List Byte) : Bool := bitAt (leAt d 0 8) 55
def lhOpt (d : List Byte) : Nat := bits (leAt d 0 8) 54 53
def lhForce (d : List Byte) : Bool := bitAt (leAt d 0 8) 52
def lhOtype (d : List Byte) : Nat := bits (leAt d 0 8) 51 44
def lhIn (d : List Byte) : Nat := bits (leAt d 0 8) 43 40
def lhOut (d : List Byte) : Nat := bits (leAt d 0 8) 39 36
def lhAux (d : List Byte) : Nat := bits (leAt d 0 8) 35 32
def lhAux2 (d : List Byte) : Nat := bits (leAt d 0 8) 31 28
def lhCopyMin (d : List Byte) : Nat := bits (leAt d 0 8) 23 16
def lhCopyAddr (d : List Byte) : Nat := bits (leAt d 8 8) 26 0
def lhCopyRows (d : List Byte) : Nat := bits (leAt d 8 8) 44 32
def lhLr (d : List Byte) : Nat := leAt d 0x10 4
def lhEps (d : List Byte) : Nat := leAt d 0x14 4

/-- The header's reserved fields are zero. -/
def lhClean (d : List Byte) : Bool :=
  let w := leAt d 0 8
  let q := leAt d 8 8
  bits w 63 60 == 1 && bits w 27 24 == 0 && bits w 15 0 == 0 && bits q 31 27 == 0 && bits q 63 45 == 0
    && leNat ((d.drop 0x18).take 40) == 0

/-- A table descriptor (R302). -/
structure TabDesc where
  fmt : Nat
  form : Nat
  cmb : Bool
  pol : Nat
  priv : Bool
  migr : Bool
  table : Nat
  d : Nat
  rows : Nat
  prows : Nat
  prows2 : Nat
  base : Nat
  base2 : Nat
  seed : Nat
  state : Nat
  clean : Bool
  deriving DecidableEq, Repr

def tabDesc (b : List Byte) : TabDesc :=
  let w := leAt b 0 8
  let f := fun (o hi : Nat) => bits (leAt b o 8) hi 0
  { fmt := bits w 59 58, form := bits w 57 56, cmb := bitAt w 55, pol := bits w 54 53, priv := bitAt w 52
    migr := bitAt w 51, table := bits w 47 32, d := bits w 10 0, rows := f 8 39, prows := f 0x10 39, prows2 := f 0x18 39
    base := f 0x20 56, base2 := f 0x28 56, seed := leAt b 0x30 8, state := f 0x38 56
    clean := bits w 63 60 == 1 && bits w 50 48 == 0 && bits w 15 11 == 0 && bits (leAt b 8 8) 63 40 == 0
      && bits (leAt b 0x10 8) 63 40 == 0 && bits (leAt b 0x18 8) 63 40 == 0 && bits (leAt b 0x20 8) 63 57 == 0
      && bits (leAt b 0x28 8) 63 57 == 0 && bits (leAt b 0x38 8) 63 57 == 0 }

/-- Bytes of a row (R303). -/
def rowBytes (t : TabDesc) : Nat := 32 * cdiv (8 + t.d * (if t.fmt = 0 then 8 else 4) / 8) 32

/-- 0x0403: a field out of range or a reserved code. -/
def ladleFieldBad (h : List Byte) (t : TabDesc) : Bool :=
  let m := lhMode h
  m == 0 || decide (4 < m) || decide (1 < t.fmt) || decide (2 < t.form) || decide (2 < t.pol) || t.d % 32 != 0
    || t.d == 0 || decide (1024 < t.d) || lhCopyMin h == 1 || decide (4096 < lhCopyRows h) || t.base % 32 != 0
    || (m == 1 && !(lhOtype h == 1 || lhOtype h == 2 || lhOtype h == 4 || lhOtype h == 5))
    || (t.form == 0 && t.rows != t.prows) || (t.form == 1 && t.prows == 0)
    || (t.form == 2 && (t.prows2 == 0 || t.base2 % 32 != 0 || decide (t.prows * t.prows2 < t.rows)))
    || (t.form != 2 && (t.prows2 != 0 || t.base2 != 0)) || (t.form != 1 && t.seed != 0)

/-- 0x0407 (R305, R329). -/
def ladleModeBad (h : List Byte) (t : TabDesc) (fromPlan : Bool) : Bool :=
  (t.form != 0 && !t.priv) || (t.migr && t.form != 0) || (t.priv && !fromPlan) || (lhMode h == 2 && t.form == 2)

/-! ## Bag blocks (R307, R308, R313) -/

structure BagBlk where
  nbags : Nat
  base : Nat
  offs : List Nat
  idx : List Int
  cnt : List Nat
  wts : Option (List Nat)
  deriving DecidableEq, Repr

def rising : List Nat → Bool
  | a :: b :: r => decide (a ≤ b) && rising (b :: r)
  | _ => true

/-- A bag block read whole; none is malformed (0x0406). -/
def bagBlock (bs : List Byte) (mean : Bool) : Option BagBlk :=
  let nb := leAt bs 0 4
  let ne := leAt bs 4 4
  let counted := bitAt (leAt bs 8 8) 0
  let weighted := bitAt (leAt bs 8 8) 1
  let o1 := 32
  let o2 := o1 + align32 (4 * (nb + 1))
  let o3 := o2 + align32 (8 * ne)
  let o4 := o3 + (if counted then align32 (4 * ne) else 0)
  let o5 := o4 + (if weighted then align32 (4 * ne) else 0)
  if bs.length < 32 ∨ bits (leAt bs 8 8) 63 2 ≠ 0 ∨ leAt bs 0x18 8 ≠ 0 ∨ nb = 0 ∨ 65536 < nb ∨ 4194304 < ne
      ∨ bs.length ≠ o5 ∨ (weighted ∧ mean) then none
  else
    let offs := (upto (nb + 1)).map (fun k => leAt bs (o1 + 4 * k) 4)
    let cnt := (upto ne).map (fun k => if counted then leAt bs (o3 + 4 * k) 4 else 1)
    if nth 1 offs 0 ≠ 0 ∨ nth 0 offs nb ≠ ne ∨ rising offs = false ∨ cnt.any (fun c => decide (2 ^ 24 < c)) then none
    else some ⟨nb, leAt bs 0x10 8, offs, (upto ne).map (fun k => sext 64 (leAt bs (o2 + 8 * k) 8)), cnt,
      if weighted then some ((upto ne).map (fun k => leAt bs (o4 + 4 * k) 4)) else none⟩

/-- The bag that holds an entry. -/
def bagOf (b : BagBlk) (e : Nat) : Nat := ((upto b.nbags).find? (fun k => decide (e < nth 0 b.offs (k + 1)))).getD 0

/-- The index policy and the form (R304, R313): none drops the entry; an error is out of range. -/
def unitKey (t : TabDesc) (x : Int) : Except Unit (Option Nat) :=
  let inRange := decide (0 ≤ x) && decide (x < t.rows)
  if !inRange && t.pol == 0 then .error ()
  else if !inRange && t.pol == 2 then .ok none
  else
    let y := if inRange then x.toNat else if x < 0 then 0 else t.rows - 1
    .ok (some (if t.form = 1 then harp64 t.seed (leBytes 8 y) % t.prows else y))

/-- The unit key of each entry, none for a dropped one; or the first failing bag with its code and entry (R308, R313). -/
def entryKeys (t : TabDesc) (b : BagBlk) : Except (Nat × Nat × Option Nat) (List (Option Nat)) :=
  (upto b.nbags).foldl (fun acc k =>
    match acc with
    | .error e => .error e
    | .ok ks =>
      let lo := nth 0 b.offs k
      let n := nth 0 b.offs (k + 1) - lo
      let cs := (b.cnt.drop lo).take n
      if 65535 < n ∨ 2 ^ 24 < cs.foldl (· + ·) 0 then .error (0x0405, k, none)
      else
        let go := (((b.idx.drop lo).take n).zip cs).map (fun p => if p.2 = 0 then .ok none else unitKey t p.1)
        match go.zipIdx.find? (fun p => match p.1 with
            | .error _ => true
            | .ok _ => false) with
        | some p => .error (0x0404, k, some p.2)
        | none => .ok (ks ++ go.map (fun p => match p with
            | .ok x => x
            | .error _ => none))) (.ok [])

/-! ## Rows (R303, R304) -/

/-- SCALE, OFFSET and codes of a row. -/
def rowScale (r : List Byte) : FNum := numOf fp16 (leAt r 4 2)
def rowOffset (r : List Byte) : FNum := numOf fp16 (leAt r 6 2)
def rowCodes (t : TabDesc) (r : List Byte) : List Int :=
  if t.fmt = 0 then (upto t.d).map (fun j => sext 8 (leAt r (8 + j) 1))
  else (upto t.d).map (fun j => sext 4 (leAt r (8 + j / 2) 1 / 16 ^ (j % 2)))

def deqExact (s o : FNum) (c : Int) : FNum := numAdd (numMul s (numOfInt c)) o
def r32 (x : FNum) : Nat := roundTo fp32 false x
def n32 (c : Nat) : FNum := numOf fp32 c

/-- The physical rows of a unit: the table's base and the row (R304). -/
def unitRows (t : TabDesc) (key : Nat) : List (Nat × Nat) :=
  if t.form = 2 then [(t.base, key / t.prows2), (t.base2, key % t.prows2)] else [(t.base, key)]

/-- v(k, j) of R310. -/
def unitValue (t : TabDesc) (omega : FNum) (rows : List (List Byte)) : List Nat :=
  match rows with
  | [r1, r2] =>
    (rowCodes t r1).zip (rowCodes t r2) |>.map (fun p =>
      let d1 := r32 (deqExact (rowScale r1) (rowOffset r1) p.1)
      let d2 := r32 (deqExact (rowScale r2) (rowOffset r2) p.2)
      r32 (numMul omega (n32 (if t.cmb then fMul fp32 d1 d2 else fAdd fp32 d1 d2))))
  | r :: _ => (rowCodes t r).map (fun c => r32 (numMul omega (deqExact (rowScale r) (rowOffset r) c)))
  | [] => []

def insertKey (k : Nat) (l : List Nat) : List Nat := insertNat k l

/-- The pooled vector of a bag (R310, R312). `rows` gives the rows of each unit key. -/
def poolBag (t : TabDesc) (mean : Bool) (b : BagBlk) (keys : List (Option Nat)) (rows : List (Nat × List (List Byte)))
    (bag : Nat) : List Nat :=
  let lo := nth 0 b.offs bag
  let es := (upto (nth 0 b.offs (bag + 1) - lo)).map (lo + ·)
  let ks := es.foldl (fun l e => match nth none keys e with
    | some k => insertNat k l
    | none => l) []
  let total := es.foldl (fun n e => if (nth none keys e).isSome then n + nth 0 b.cnt e else n) 0
  let vec := fun (k : Nat) =>
    let mine := es.filter (fun e => nth none keys e == some k)
    let omega := match b.wts with
      | none => numOfInt (mine.foldl (fun (n : Nat) e => n + nth 0 b.cnt e) 0 : Nat)
      | some ws =>
        let ps := mine.map (fun e => numMul (numOfInt (nth 0 b.cnt e : Nat)) (n32 (nth 0 ws e)))
        n32 (r32 (match ps with
          | [] => .fin false 0 0
          | p :: r => r.foldl numAdd p))
    unitValue t omega (tget [] rows k)
  match ks with
  | [] => List.replicate t.d 0
  | k :: r =>
    let p := r.foldl (fun p k => List.zipWith (fAdd fp32) p (vec k)) (vec k)
    if mean then p.map (fun x => fDiv fp32 x (r32 (numOfInt (total : Nat)))) else p

/-- The output of a POOL operation (R309). -/
def poolHeader (nbags base : Nat) (err : Bool) : List Byte :=
  leBytes 8 (nbags + b2n err * 2 ^ 32) ++ leBytes 8 base ++ List.replicate 16 0

/-- A bag's vector as POOL puts it, in OTYPE (R309, R312). -/
def bagBytes (h : List Byte) (t : TabDesc) (b : BagBlk) (keys : List (Option Nat)) (rows : List (Nat × List (List Byte)))
    (bag : Nat) : List Byte :=
  let ty := lhOtype h
  let f := (tyFmt ty).getD fp32
  padZero ((poolBag t (lhMean h) b keys rows bag).flatMap (fun x => leBytes (tyBits ty / 8) (fCvt fp32 f true x)))

/-- The bytes of a POOL operation's whole output. -/
def poolTotal (h : List Byte) (t : TabDesc) (b : BagBlk) : Nat := 32 + b.nbags * align32 (t.d * (tyBits (lhOtype h) / 8))

/-! ## Gradients (R329–R331) -/

/-- The touched keys, rising. -/
def touched (keys : List (Option Nat)) : List Nat := keys.foldl (fun l k => match k with
  | some k => insertNat k l
  | none => l) []

/-- Element j of bag b's gradient. -/
def gradAt (d : Nat) (g : List Byte) (bag j : Nat) : FNum := n32 (leAt g (4 * (d * bag + j)) 4)

/-- G(k, ·) (R329). -/
def gradOf (h : List Byte) (t : TabDesc) (b : BagBlk) (keys : List (Option Nat)) (g : List Byte) (k : Nat) : List Nat :=
  let es := (upto keys.length).filter (fun e => nth none keys e == some k)
  let bagN := fun (bag : Nat) =>
    let lo := nth 0 b.offs bag
    (upto (nth 0 b.offs (bag + 1) - lo)).foldl (fun n e =>
      if (nth none keys (lo + e)).isSome then n + nth 0 b.cnt (lo + e) else n) 0
  let contrib := fun (e j : Nat) =>
    let bag := bagOf b e
    let c := numOfInt (nth 0 b.cnt e : Nat)
    if lhMean h then
      match numMul c (gradAt t.d g bag j) with
      | .fin neg m x => roundQ fp32 false neg m (bagN bag) x
      | y => r32 y
    else match b.wts with
      | none => r32 (numMul c (gradAt t.d g bag j))
      | some ws => r32 (numMul (numMul c (n32 (nth 0 ws e))) (gradAt t.d g bag j))
  (upto t.d).map (fun j => match es with
    | [] => 0
    | e :: r => r.foldl (fun acc e => fAdd fp32 acc (contrib e j)) (contrib e j))

/-- treesum (R330). -/
def treesum (xs : List Nat) : Nat :=
  let sums := (chunksOf 64 (xs.length / 64 + 1) xs).map (fun c =>
    (treeReduce lAdd (takePad 0x80000000 64 (c.map (BitVec.ofNat 32)))).toNat)
  match sums with
  | [] => 0
  | s :: r => r.foldl (fAdd fp32) s

def normRecord (k s : Nat) : List Byte := leBytes 8 k ++ leBytes 4 s ++ leBytes 4 0

/-- The NORMS output (R331). -/
def normsBytes (h : List Byte) (t : TabDesc) (b : BagBlk) (keys : List (Option Nat)) (g : List Byte) : List Byte :=
  (touched keys).flatMap (fun k => normRecord k (treesum ((gradOf h t b keys g k).map (fun x => fMul fp32 x x))))

/-! ## The optimiser and requantisation (R330, R332) -/

/-- The dequantised row. -/
def deqRow (t : TabDesc) (r : List Byte) : List Nat := (rowCodes t r).map (fun c => r32 (deqExact (rowScale r) (rowOffset r) c))

/-- One optimiser step on a row: the new elements and the new state values. `sk` is S_k and `dt` D_total of OPT 3. -/
def optStep (opt lr eps : Nat) (x g st : List Nat) (sk dt : Nat) : List Nat × List Nat :=
  let m := fMul fp32
  let denom := fun (s : Nat) => fAdd fp32 (fSqrt fp32 s) eps
  match opt with
  | 0 => (List.zipWith (fun x g => fSub fp32 x (m lr g)) x g, [])
  | 1 =>
    let a := List.zipWith (fun a g => fAdd fp32 a (m g g)) st g
    (List.zipWith (fun (x : Nat) (p : Nat × Nat) => fSub fp32 x (fDiv fp32 (m lr p.1) (denom p.2))) x (g.zip a), a)
  | _ =>
    let num := if opt = 2 then treesum (g.map (fun x => m x x)) else sk
    let den := r32 (numOfInt ((if opt = 2 then x.length else dt : Nat) : Int))
    let s := fAdd fp32 (nth 0 st 0) (fDiv fp32 num den)
    (List.zipWith (fun x g => fSub fp32 x (fDiv fp32 (m lr g) (denom s))) x g, [s])

def finite32 (x : Nat) : Bool := match n32 x with
  | .fin _ _ _ => true
  | _ => false

/-- The exact quotient of two finite values rounded to an integer, ties to even. -/
def divInt (a b : FNum) : Option Int :=
  match a, b with
  | .fin na ma ta, .fin nb mb tb =>
    if mb = 0 then none
    else
      let t := ta - tb
      let q := if 0 ≤ t then rneNat (ma * 2 ^ t.toNat) mb else rneNat ma (mb * 2 ^ (-t).toNat)
      some (if na = nb then (q : Int) else -(q : Int))
  | _, _ => none

/-- Requantise a row (R332): SCALE, OFFSET and the codes. -/
def requant (t : TabDesc) (xs : List Nat) : Nat × Nat × List Int :=
  let q := if t.fmt = 0 then 255 else 15
  let z : Int := if t.fmt = 0 then 128 else 8
  let mn := xs.foldl (fun a x => if numLt (n32 x) (n32 a) then x else a) (xs.head?.getD 0)
  let mx := xs.foldl (fun a x => if numLt (n32 a) (n32 x) then x else a) (xs.head?.getD 0)
  if numEq (n32 mn) (n32 mx) then (0, roundTo fp16 false (n32 mn), xs.map (fun _ => 0))
  else
    let scale := match numAdd (n32 mx) (numNeg (n32 mn)) with
      | .fin neg m e => roundQ fp16 true neg m q e
      | y => roundTo fp16 true y
    let off := roundTo fp16 false (numAdd (n32 mn) (numMul (numOfInt z) (numOf fp16 scale)))
    let code := fun (x : Nat) =>
      match numAdd (n32 x) (numNeg (numOf fp16 off)) with
      | .inf neg => if neg then -z else z - 1
      | d =>
        match divInt d (numOf fp16 scale) with
        | some c => max (-z) (min (z - 1) c)
        | none => max (-z) (min (z - 1) (sext 8 (Config.rowCode x off t.fmt).toNat))
    (scale, off, xs.map code)

/-- The bytes of a row after its VERSION: SCALE, OFFSET and the packed codes, padded to the row's length. -/
def rowTail (t : TabDesc) (scale off : Nat) (codes : List Int) : List Byte :=
  let packed := if t.fmt = 0 then codes.map (fun c => BitVec.ofNat 8 (wrapInt 8 c))
    else (chunksOf 2 (codes.length + 1) codes).map (fun p =>
      BitVec.ofNat 8 (wrapInt 4 (nth 0 p 0) + 16 * wrapInt 4 (nth 0 p 1)))
  takePad 0 (rowBytes t - 4) (leBytes 2 scale ++ leBytes 2 off ++ packed)

end Sys2Proof.Machine
end

