-- ==== Sys2Proof/Machine/Ladle.lean ====
section
/-!
DEFINITION. Sys2Proof/Machine/Ladle.lean: the ladles' operations (R306–R322, R329–R334, R337), their copies, and the load
and migration of rows (R323–R328, R345).
-/

namespace Sys2Proof.Machine

open Sys2Proof

def ladleUnit (l : Nat) : UnitId := ⟨3, l⟩
def ldlOn (s : State) (w l : Nat) (f : Eng → Eng) : State := onWheel s w (fun x => setLadle x l (f (ladleOf x l)))
def ldlOf (s : State) (w l : Nat) : Eng := ladleOf (wheelOf s w) l
def ldlBump (s : State) (w l k n : Nat) : State := ldlOn s w l (fun e => { e with regs := bump e.regs k n })

/-- The table descriptor follows the header (R306). -/
def lTab (e : Eng) : TabDesc := tabDesc (e.desc.drop 64)

/-! ## Checks before any input (R337, R305, R694, R696) -/

/-- All bytes of a range lie within the ranges that the context's plan wrote (R696). -/
def inRecord (x : Wheel) (ctx a n : Nat) : Bool :=
  (upto n).all (fun k => x.prec.any (fun r => r.1 == ctx && decide (r.2.1 ≤ a + k) && decide (a + k < r.2.1 + r.2.2)))

/-- The ports a mode reads, and whether it writes OUT_PORT. -/
def ladleIns (h : List Byte) : List Nat :=
  match lhMode h with
  | 2 => [lhIn h, lhAux h] ++ (if lhOpt h = 3 then [lhAux2 h] else [])
  | 3 => [lhIn h, lhAux h]
  | _ => [lhIn h]

def ladleHasOut (h : List Byte) : Bool := lhMode h == 1 || lhMode h == 3

/-- Bind the ports; none is a port conflict. -/
def ladleBind (x : Wheel) (u : UnitId) (e : Eng) (ctx : Nat) (h : List Byte) : Option Wheel :=
  let port := fun (p : Nat) => (p, portHoop e.inP p)
  match bindMany u ctx true ((ladleIns h).map port) x with
  | .error _ => none
  | .ok x1 => (bindMany u ctx false (if ladleHasOut h then [port (lhOut h)] else []) x1).toOption

def ladleCheck (x : Wheel) (l ctx : Nat) : Wheel :=
  let u := ladleUnit l
  let e := ladleOf x l
  let a := e.descAddr
  let fail := fun (x : Wheel) (code : Nat) =>
    onEng (failNote x u ⟨code, 0, 0⟩) u (fun e => { e with st := .run, fin := some ⟨code, 0, 0⟩ })
  if !(caveAddrOk x a 128) then fail x 0x040A
  else if caveUncorr x a 128 then fail x 0x0409
  else
    let bs := caveRead x a 128
    let x0 := onEng (caveCorrect x a 128) u (fun e => { e with desc := bs })
    let h := bs.take 64
    let t := tabDesc (bs.drop 64)
    if !(lhClean h) || !t.clean then fail x0 0x0402
    else if ladleFieldBad h t then fail x0 0x0403
    else match ladleBind x0 u e ctx h with
      | none => fail x0 0x0403
      | some x1 =>
        if lhCopyMin h ≠ 0 ∧ lhCopyRows h ≠ 0 ∧ caveAddrOk x (lhCopyAddr h) (lhCopyRows h * rowBytes t) = false then
          fail x1 0x040A
        else if ladleModeBad h t (inRecord x ctx (a + 64) 64) then fail x1 0x0407
        else onEng x1 u (fun e => { e with st := .run, outP := e.inP })

/-! ## Rows (R303, R317, R323, R326, R695) -/

/-- Ranges of physical addresses that an access covers, in order. -/
abbrev Pieces := List (Nat × Nat)

/-- What an access has to name: the ladle, its context and table. -/
structure LAcc where
  w : Nat
  l : Nat
  ctx : Nat
  t : TabDesc
  deriving DecidableEq, Repr

/-- Translate one address for a ladle (R695): consecutive accesses of the operation to a page are one run, which a sweep
ends (R398). -/
def ladleTrans (c : LAcc) (s : State) (va : Nat) (needR needW : Bool) : State × Except Nat Run :=
  let n := (wheelOf s c.w).mld.swept
  let lw := (ldlOf s c.w c.l).lw
  match translateRun s c.w c.ctx (if lw.swept = n then lw.run else none) va needR needW with
  | (s1, .ok r) => (ldlOn s1 c.w c.l (fun e => { e with lw := { e.lw with run := some r, swept := n } }), .ok r)
  | (s1, .error (.code k)) => (s1, .error k)
  | (s1, .error _) => (s1, .error 0x040D)

/-- Translate a range of virtual addresses, page by page. -/
def vaPieces (c : LAcc) (va n : Nat) (needR needW : Bool) : Nat → State → State × Except Nat Pieces
  | 0, s => (s, .ok [])
  | fuel + 1, s =>
    if n = 0 then (s, .ok [])
    else
      let k := min n (65536 - va % 65536)
      match ladleTrans c s va needR needW with
      | (s1, .error code) => (s1, .error code)
      | (s1, .ok r) =>
        match vaPieces c (va + k) (n - k) needR needW fuel s1 with
        | (s2, .ok ps) => (s2, .ok ((runAddr r va, k) :: ps))
        | (s2, .error code) => (s2, .error code)

/-- The Mould key of a row's migration entry (R325). -/
def migrKey (ctx table row : Nat) : BitVec 128 := BitVec.ofNat 128 (table * 2 ^ 96 + ctx * 2 ^ 64 + row)

/-- Where a row lies: its copy where a migration entry redirects it, else its home (R326). Reads need R, writes R and W. -/
def rowPieces (c : LAcc) (base row : Nat) (needW : Bool) (s : State) : State × Except Nat Pieces :=
  let rb := rowBytes c.t
  let (s1, copy) :=
    if c.t.migr then
      let (m, r) := mldSearch (wheelOf s c.w).mld 4 c.ctx (migrKey c.ctx c.t.table row)
      (onWheel s c.w (fun x => { x with mld := m }), match r with
        | .hit _ res => some (res.toNat % 2 ^ 40)
        | _ => none)
    else (s, none)
  match copy with
  | some pa => (s1, .ok [(pa, rb)])
  | none => vaPieces c (base + row * rb) rb true needW 4 s1

/-- Count one row access at each wheel whose memory serves it, and keep one sample in 1,024 (R323). -/
def shardCount (s : State) (c : LAcc) (row : Nat) (ps : Pieces) : State :=
  let ws := (ps.map (fun p => paWheel p.1)).foldl (fun l w => insertNat w l) []
  (ws.filter (fun w => reachCode s c.w w == 0)).foldl (fun s w => onWheel s w (fun x =>
    let r := bump x.ldl.regs 0 1
    let keep := regGet r 0x040 % 1024 == 0 && decide (x.ldl.samples.length < 64)
    { x with ldl := { x.ldl with
        regs := r
        samples := if keep then x.ldl.samples ++ [⟨c.ctx, c.t.table, row, ps, c.t.migr⟩] else x.ldl.samples } })) s

/-- Read the pieces of a range: the bytes, and the first code. -/
def readPieces (w : Nat) : Pieces → State → State × List Byte × Nat
  | [], s => (s, [], 0)
  | (pa, n) :: r, s =>
    let (s1, bs, c1) := devRead s w pa n
    let (s2, cs, c2) := readPieces w r s1
    (s2, bs ++ cs, if c1 = 0 then c2 else c1)

/-- Write bytes over the pieces of a range. -/
def writePieces (w : Nat) : Pieces → List Byte → State → State × Nat
  | [], _, s => (s, 0)
  | (pa, n) :: r, bs, s =>
    match devWrite s w pa (bs.take n) with
    | (s1, 0) => writePieces w r (bs.drop n) s1
    | (s1, code) => (s1, code)

/-- The pieces of a range from its byte `k` on. -/
def dropPieces (k : Nat) : Pieces → Pieces
  | [] => []
  | (pa, n) :: r => if k < n then (pa + k, n - k) :: r else dropPieces (k - n) r

def headAddr (ps : Pieces) : Nat := (ps.head?.map (·.1)).getD 0

/-- What a read of a row gives. -/
inductive RowRes where
  | ok (bs : List Byte)
  | refused
  | fail (code : Nat)
  deriving DecidableEq, Repr

/-- Read a row (R317): the whole row gives v1, its header read again gives v2, and the read is accepted when they are equal
and even. With `odd`, an odd one is accepted too (FORCE, R319). -/
def rowRead (c : LAcc) (base row : Nat) (odd : Bool) (s : State) : State × RowRes :=
  match rowPieces c base row false s with
  | (s1, .error code) => (s1, .fail code)
  | (s1, .ok ps) =>
    match readPieces c.w ps (ldlBump s1 c.w c.l 2 1) with
    | (s2, bs, 0) =>
      match devRead (shardCount s2 c row ps) c.w (headAddr ps) 8 with
      | (s3, hb, 0) => (s3, if leAt bs 0 4 = leAt hb 0 4 ∧ (odd ∨ leAt bs 0 4 % 2 = 0) then .ok bs else .refused)
      | (s3, _, code) => (s3, .fail code)
    | (s2, _, code) => (shardCount s2 c row ps, .fail code)

/-! ## Failure, refusal and end (R317, R319, R337) -/

/-- A step of an operation: it goes on, or it stops here for now. -/
inductive LStep where
  | stop (s : State)
  | next (s : State)

def ladleNeeds (e : Eng) : List (Nat × Nat) := (ladleIns e.desc).map (fun p => (p, 2 ^ 40))

/-- The header with ERR of a failing operation (R337 step 3). -/
def ladleErrOuts (e : Eng) : List OutStream :=
  if ladleHasOut e.desc then [{ port := lhOut e.desc, bufs := [poolHeader 0 0 true] }] else []

def ladleDrain (s : State) (w l : Nat) : State :=
  onWheel s w (fun x => drainStep x (ladleUnit l) 16 16 (ladleNeeds (ladleOf x l)))

/-- Fail after input has begun. -/
def ladleFail (s : State) (w l : Nat) (f : Ended) : State :=
  ladleDrain (onWheel s w (fun x =>
    onEng (startDrain x (ladleUnit l) f (ladleErrOuts (ladleOf x l))) (ladleUnit l) (fun e => { e with lw := {} }))) w l

/-- A bag and an entry as an end reports them; 2^17 marks a value that is present. -/
def endBag (code : Nat) (bag entry : Option Nat) : Ended :=
  ⟨code, match bag with
    | some b => 2 ^ 17 + b
    | none => 0, match entry with
    | some e => 2 ^ 17 + e
    | none => 0⟩

/-- The end that concerns an entry of the block: its bag, and its place in the bag (R343). -/
def endEntry (code : Nat) (b : BagBlk) (e : Option Nat) : Ended :=
  endBag code (e.map (bagOf b)) (e.map (fun e => e - nth 0 b.offs (bagOf b e)))

/-- A refused row or a failed swap: wait for the next retry, or fail after the eighth (R317, R319). -/
def ladleRefused (s : State) (w l : Nat) (f : Ended) : State :=
  if 8 ≤ (ldlOf s w l).lw.tries then ladleFail s w l f
  else ldlOn s w l (fun e =>
    { e with st := .rowWait, lw := { e.lw with tries := e.lw.tries + 1 }, regs := bump e.regs 5 1 })

/-- Note the row that an end concerns (R534). -/
def ladleAtRow (s : State) (w l row : Nat) : State := ldlOn s w l (fun e => { e with col := row })

def ladleAcc (e : Eng) (w l ctx : Nat) : LAcc := ⟨w, l, ctx, lTab e⟩

/-- The first entry of the block that names a key. -/
def entryOfKey (keys : List (Option Nat)) (key : Nat) : Option Nat := (upto keys.length).find? (fun e => nth none keys e == some key)

/-! ## POOL (R307–R316) -/

/-- Lines of the copy store in use, one per physical row, and the free ones (R315). -/
def copyFree (h : List Byte) (lw : LWork) : List Nat :=
  let used := lw.copies.flatMap (·.2.2)
  (upto (lhCopyRows h)).filter (fun k => !(used.contains k))

def copyAddr (h : List Byte) (t : TabDesc) (line : Nat) : Nat := lhCopyAddr h + line * rowBytes t

/-- Read the rows of a unit that are not read yet (R304, R317): the rows, or a step that ends here. -/
def readUnit (c : LAcc) (b : BagBlk) (entry : Nat) : List (Nat × Nat) → State → LStep
  | [], s => .next s
  | p :: r, s =>
    match rowRead c p.1 p.2 false s with
    | (s1, .ok bs) => readUnit c b entry r (ldlOn s1 c.w c.l (fun e => { e with lw := { e.lw with half := e.lw.half ++ [bs], tries := 0 } }))
    | (s1, .refused) => .stop (ladleRefused (ladleAtRow s1 c.w c.l p.2) c.w c.l (endEntry 0x0401 b (some entry)))
    | (s1, .fail code) => .stop (ladleFail (ladleAtRow s1 c.w c.l p.2) c.w c.l (endEntry code b (some entry)))

/-- Keep a read in the copy store when its key occurs often enough in the window and enough lines are free (R315). -/
def keepCopy (c : LAcc) (h : List Byte) (key n : Nat) (rows : List (List Byte)) (s : State) : State :=
  let free := copyFree h (ldlOf s c.w c.l).lw
  if lhCopyMin h = 0 ∨ n < lhCopyMin h ∨ free.length < rows.length then s
  else
    let lines := free.take rows.length
    let s1 := onWheel s c.w (fun x => (lines.zip rows).foldl (fun x p => caveWrite x (copyAddr h c.t p.1) p.2) x)
    ldlOn s1 c.w c.l (fun e => { e with lw := { e.lw with copies := e.lw.copies ++ [(key, (unitRows c.t key).map (·.2), lines)] } })

/-- The bag has the rows of a key; the window has them too. -/
def haveKey (c : LAcc) (key : Nat) (rows : List (List Byte)) (s : State) : State :=
  ldlOn s c.w c.l (fun e => { e with lw := { e.lw with part := tset [] e.lw.part key rows, bag := tset [] e.lw.bag key rows, half := [] } })

/-- Take a key from its copy (R315): a double-bit error loses it (R692). -/
def takeCopy (c : LAcc) (h : List Byte) (b : BagBlk) (entry key : Nat) (lines : List Nat) (s : State) : LStep :=
  let x := wheelOf s c.w
  let rb := rowBytes c.t
  if lines.any (fun k => caveUncorr x (copyAddr h c.t k) rb) then .stop (ladleFail s c.w c.l (endEntry 0x0409 b (some entry)))
  else
    let rows := lines.map (fun k => caveRead x (copyAddr h c.t k) rb)
    let s1 := onWheel s c.w (fun x => lines.foldl (fun x k => caveCorrect x (copyAddr h c.t k) rb) x)
    .next (haveKey c key rows (ldlBump s1 c.w c.l 4 1))

/-- Occurrences of a key in the window of an entry. -/
def windowCount (keys : List (Option Nat)) (entry key : Nat) : Nat :=
  (((keys.drop (entry / 512 * 512)).take 512).filter (· == some key)).length

/-- Take one entry's key: the bag's own read, the window's, a copy, or a read (R314, R315). -/
def takeKey (c : LAcc) (h : List Byte) (b : BagBlk) (keys : List (Option Nat)) (entry key : Nat) (s : State) : LStep :=
  let lw := (ldlOf s c.w c.l).lw
  let without := fun (st : LStep) => match st with
    | .next s => .next (ldlBump s c.w c.l 3 1)
    | .stop s => .stop s
  if lw.bag.any (fun p => p.1 == key) then without (.next s)
  else match lw.part.find? (fun p => p.1 == key) with
    | some p => without (.next (ldlOn s c.w c.l (fun e => { e with lw := { e.lw with bag := tset [] e.lw.bag key p.2 } })))
    | none =>
      match lw.copies.find? (fun p => p.1 == key) with
      | some cp => without (takeCopy c h b entry key cp.2.2 s)
      | none =>
        match readUnit c b entry ((unitRows c.t key).drop lw.half.length) s with
        | .stop s1 => .stop s1
        | .next s1 =>
          let rows := (ldlOf s1 c.w c.l).lw.half
          .next (haveKey c key rows (keepCopy c h key (windowCount keys entry key) rows s1))

/-- Hand full buffers of pooled bytes over, and put them as far as credits allow (R309); at the end the rest. `total` is the
length of the whole output. -/
def poolEmit (s : State) (w l total : Nat) : State :=
  onWheel s w (fun x =>
    let u := ladleUnit l
    let e := ladleOf x l
    let n := outBytes x e (lhOut e.desc)
    let left := total - e.lw.put
    let k := if left ≤ e.lw.out.length then left else if n = 0 then 0 else e.lw.out.length / n * n
    if k = 0 then x
    else
      let o := outStream x e (lhOut e.desc) (e.lw.out.take k)
      let o' := { o with last := decide (k = left), eager := true }
      let f : Option Ended := if k = left then some ⟨0, 0, 0⟩ else none
      let x1 := onEng x u (fun e => { e with outs := e.outs ++ [o'], lw := { e.lw with out := e.lw.out.drop k, put := e.lw.put + k } })
      match f with
      | some f => deliverOuts x1 u 16 f
      | none => outAdvance x1 u 16)

/-- One step of POOL: an entry, or the end of a bag. -/
def poolStep (c : LAcc) (h : List Byte) (b : BagBlk) (keys : List (Option Nat)) (s : State) : LStep :=
  let e := ldlOf s c.w c.l
  let lw := e.lw
  if lw.cancel && lw.bag.isEmpty && lw.half.isEmpty && lw.tries == 0 then .stop (ladleFail s c.w c.l ⟨0x0701, 0, 0⟩)
  else if !e.outs.isEmpty then .stop (ldlOn s c.w c.l (fun e => { e with st := .outWait }))
  else if lw.pos < nth 0 b.offs (lw.bags + 1) then
    match (match nth none keys lw.pos with
      | none => LStep.next s
      | some k => takeKey c h b keys lw.pos k s) with
    | .stop s1 => .stop s1
    | .next s1 =>
      .next (ldlOn s1 c.w c.l (fun e => { e with lw := { e.lw with
        pos := e.lw.pos + 1, tries := 0, part := if (e.lw.pos + 1) % 512 = 0 then [] else e.lw.part } }))
  else
    let s1 := ldlOn (ldlBump s c.w c.l 0 1) c.w c.l (fun e => { e with lw := { e.lw with
      bags := e.lw.bags + 1, bag := [], out := e.lw.out ++ bagBytes h c.t b keys lw.bag lw.bags } })
    let s2 := poolEmit s1 c.w c.l (poolTotal h c.t b)
    if lw.bags + 1 = b.nbags then .stop s2 else .next s2

def poolLoop (c : LAcc) (h : List Byte) (b : BagBlk) (keys : List (Option Nat)) : Nat → State → State
  | 0, s => s
  | n + 1, s =>
    match poolStep c h b keys s with
    | .stop s1 => s1
    | .next s1 => poolLoop c h b keys n s1

def usedEntries (keys : List (Option Nat)) : Nat := (keys.filter (·.isSome)).length

def goPool (s : State) (w l ctx : Nat) (b : BagBlk) (keys : List (Option Nat)) : State :=
  let e := ldlOf s w l
  let s1 := if e.lw.put = 0 ∧ e.lw.out = [] then
      ldlOn s w l (fun e => { e with lw := { e.lw with out := poolHeader b.nbags b.base false } })
    else s
  poolLoop (ladleAcc e w l ctx) e.desc b keys (keys.length + b.nbags + 2) s1

/-! ## NORMS (R331) -/

/-- Deliver an output stream buffer by buffer (R309). -/
def ladlePut (s : State) (w l : Nat) (bs : List Byte) : State :=
  onWheel s w (fun x =>
    let u := ladleUnit l
    let e := ladleOf x l
    let o := outStream x e (lhOut e.desc) bs
    let o' := { o with bufs := if o.bufs.isEmpty then [[]] else o.bufs, eager := true }
    deliverOuts (onEng x u (fun e => { e with outs := [o'], lw := {} })) u 16 ⟨0, 0, 0⟩)

def goNorms (s : State) (w l : Nat) (b : BagBlk) (keys : List (Option Nat)) (g : List Byte) : State :=
  let e := ldlOf s w l
  ladlePut s w l (normsBytes e.desc (lTab e) b keys g)

/-! ## Writers (R318, R319, R333, R334) -/

/-- Tell every ladle that can be reached to drop its copy of a row (R334); a fenced one is answered for at once (R580). -/
def sendInvalidates (s : State) (w l ctx table row : Nat) : State :=
  let ws := (upto 8).filter (fun t => reachCode s w t == 0)
  let all := ws.flatMap (fun t => (upto 8).map (fun k => (t, k)))
  let ms := (all.filter (fun p => (ldlOf s p.1 p.2).st != .fenced && (ldlOf s p.1 p.2).st != .outOfService)).map
    (fun p => MeshMsg.invalidate p.1 p.2 ctx table row (w * 8 + l))
  onWheel { s with mesh := s.mesh ++ ms } w (fun x => { x with whey := { x.whey with regs := bump x.whey.regs 3 all.length } })

def invalPending (s : State) (w l : Nat) : Bool :=
  s.mesh.any (fun m => match m with
    | .invalidate _ _ _ _ _ src => src == w * 8 + l
    | _ => false)

/-- What the write of a row comes to: the row is held odd and written, its swap failed, or a failure. -/
inductive RowW where
  | held (lock : Nat × Nat × Nat)
  | lost
  | fail (code : Nat)
  deriving DecidableEq, Repr

/-- Take a row and write it while it is odd: the write's own search of port 4 and translation (R326, R695), the swap to an
odd VERSION (R319), the new bytes after VERSION, then the messages of R334. `extra` is written while the row is held (the
row's state, R333). -/
def rowWrite (s : State) (c : LAcc) (old : List Byte) (row : Nat) (tail : List Byte)
    (extra : State → State × Except Nat (Pieces × List Byte)) : State × RowW :=
  match rowPieces c c.t.base row true s with
  | (s0, .error code) => (s0, .fail code)
  | (s0, .ok ps) =>
    match extra s0 with
    | (s1, .error code) => (s1, .fail code)
    | (s1, .ok qs) =>
      let pa := headAddr ps
      let v := leAt old 0 4
      let held := if v % 2 = 1 then v else v + 1
      match devCas s1 c.w pa (leAt old 0 8) (leAt old 4 4 * 2 ^ 32 + held) with
      | (s2, .error code) => (s2, .fail code)
      | (s2, .ok false) => (s2, .lost)
      | (s2, .ok true) =>
        let s3 := ldlOn (shardCount s2 c row ps) c.w c.l (fun e => { e with irrev := true })
        let next := (held + 1) % 2 ^ 32
        let back := fun (s : State) => (devWrite s c.w pa (leBytes 4 next)).1
        match writePieces c.w (dropPieces 4 ps) tail s3 with
        | (s4, 0) =>
          match writePieces c.w qs.1 qs.2 s4 with
          | (s5, 0) => (sendInvalidates s5 c.w c.l c.ctx c.t.table row, .held (pa, next, row))
          | (s5, code) => (back s5, .fail code)
        | (s4, code) => (back s4, .fail code)

/-- Make the held row even once every ladle has answered (R318 step 3, R334). -/
def rowUnlock (s : State) (w l : Nat) : State :=
  let e := ldlOf s w l
  match e.lw.lock with
  | none => s
  | some (pa, next, _) =>
    let s1 := (devWrite s w pa (leBytes 4 next)).1
    ldlOn s1 w l (fun e =>
      { e with lw := { e.lw with lock := none, pos := e.lw.pos + 1, tries := 0, swap := false }, regs := bump e.regs 6 1 })

/-- The pieces of a row's optimiser state (R330). -/
def statePieces (c : LAcc) (opt row : Nat) (needW : Bool) (s : State) : State × Except Nat Pieces :=
  if opt = 0 then (s, .ok [])
  else if opt = 1 then vaPieces c (c.t.state + 4 * c.t.d * row) (4 * c.t.d) true needW 4 s
  else vaPieces c (c.t.state + 4 * row) 4 true needW 4 s

/-- What became of a touched row. -/
inductive UpdRes where
  | held (lock : Nat × Nat × Nat)
  | nonfin
  | refused
  | lost
  | fail (code : Nat)
  deriving DecidableEq, Repr

/-- Update one touched row (R330, R332, R333). -/
def updateRow (s : State) (c : LAcc) (h : List Byte) (row : Nat) (g : List Nat) (sk dt : Nat) : State × UpdRes :=
  match rowRead c c.t.base row false s with
  | (s1, .refused) => (s1, .refused)
  | (s1, .fail code) => (s1, .fail code)
  | (s1, .ok old) =>
    match statePieces c (lhOpt h) row false s1 with
    | (s2, .error code) => (s2, .fail code)
    | (s2, .ok qs) =>
      match readPieces c.w qs s2 with
      | (s3, sb, 0) =>
        let st := (upto (sb.length / 4)).map (fun k => leAt sb (4 * k) 4)
        let (xs, st') := optStep (lhOpt h) (lhLr h) (lhEps h) (deqRow c.t old) g st sk dt
        if !(xs.all finite32) || !(st'.all finite32) then (s3, .nonfin)
        else
          let (sc, off, codes) := requant c.t xs
          match rowWrite s3 c old row (rowTail c.t sc off codes) (fun s => match statePieces c (lhOpt h) row true s with
              | (s', .ok ps) => (s', .ok (ps, st'.flatMap (leBytes 4)))
              | (s', .error code) => (s', .error code)) with
          | (s4, .held lk) => (s4, .held lk)
          | (s4, .lost) => (s4, .lost)
          | (s4, .fail code) => (s4, .fail code)
      | (s3, _, code) => (s3, .fail code)

/-- Finish the row held odd, or say that the messages are not all answered. -/
def heldStep (s : State) (w l : Nat) : LStep := if invalPending s w l then .stop s else .next (rowUnlock s w l)

def finishWriter (s : State) (w l : Nat) (code : Nat) : State :=
  ldlOn s w l (fun e => { e with st := .run, fin := some ⟨code, 0, 0⟩, lw := {} })

/-- A row left unchanged as not finite (R333): NONFINITE is set at once (R342). -/
def rowNonfin (s : State) (w l : Nat) (f : Ended) : State :=
  onWheel (ldlOn s w l (fun e => { e with lw := { e.lw with nonfin := true, pos := e.lw.pos + 1, tries := 0, swap := false } })) w
    (fun x => failNote x (ladleUnit l) f)

/-- Hold a row odd in the ladle's own record. -/
def rowHeld (s : State) (w l : Nat) (lk : Nat × Nat × Nat) : State :=
  ldlOn s w l (fun e => { e with lw := { e.lw with lock := some lk } })

/-- A swap failed: the next retry reads the row again (R319). -/
def rowLost (s : State) (w l : Nat) : State := ldlOn s w l (fun e => { e with lw := { e.lw with swap := true } })

def updateStep (c : LAcc) (b : BagBlk) (keys : List (Option Nat)) (g n2 : List Byte) (s : State) : LStep :=
  let e := ldlOf s c.w c.l
  if e.lw.lock.isSome then heldStep s c.w c.l
  else if e.lw.cancel && e.lw.tries == 0 then .stop (ladleFail s c.w c.l ⟨0x0701, 0, 0⟩)
  else
    match (touched keys)[e.lw.pos]? with
    | none => .stop (finishWriter (ldlBump s c.w c.l 0 b.nbags) c.w c.l (if e.lw.nonfin then 0x040C else 0))
    | some k =>
      let rec' := (n2.drop (16 * e.lw.pos)).take 16
      let at_ := entryOfKey keys k
      let more := (keys.filter (· == some k)).length - 1
      match updateRow s c e.desc k (gradOf e.desc c.t b keys g k) (leAt rec' 8 4) (leAt rec' 12 4) with
      | (s1, .held lk) => .next (rowHeld (ldlBump s1 c.w c.l 3 more) c.w c.l lk)
      | (s1, .nonfin) => .next (rowNonfin (ldlBump s1 c.w c.l 3 more) c.w c.l (endEntry 0x040C b at_))
      | (s1, .refused) =>
        .stop (ladleRefused (ladleAtRow s1 c.w c.l k) c.w c.l (endEntry (if e.lw.swap then 0x0408 else 0x0401) b at_))
      | (s1, .lost) => .stop (ladleRefused (rowLost (ladleAtRow s1 c.w c.l k) c.w c.l) c.w c.l (endEntry 0x0408 b at_))
      | (s1, .fail code) => .stop (ladleFail (ladleAtRow s1 c.w c.l k) c.w c.l (endEntry code b at_))

def updateLoop (c : LAcc) (b : BagBlk) (keys : List (Option Nat)) (g n2 : List Byte) : Nat → State → State
  | 0, s => s
  | n + 1, s =>
    match updateStep c b keys g n2 s with
    | .stop s1 => s1
    | .next s1 => updateLoop c b keys g n2 n s1

/-- The norm records of AUX2 name the touched keys in order (R331). -/
def normKeysOk (keys : List (Option Nat)) (n2 : List Byte) : Bool :=
  let ks := touched keys
  n2.length == 16 * ks.length && (ks.zipIdx.all (fun p => leAt n2 (16 * p.2) 8 == p.1))

def goUpdate (s : State) (w l ctx : Nat) (b : BagBlk) (keys : List (Option Nat)) (g n2 : List Byte) : State :=
  let e := ldlOf s w l
  if lhOpt e.desc = 3 ∧ normKeysOk keys n2 = false then ladleFail s w l ⟨0x040B, 0, 0⟩
  else updateLoop (ladleAcc e w l ctx) b keys g n2 (2 * (touched keys).length + 2) s

/-! ## REPLACE (R321) -/

def replaceStep (c : LAcc) (bs : List Byte) (s : State) : LStep :=
  let e := ldlOf s c.w c.l
  if e.lw.lock.isSome then heldStep s c.w c.l
  else if e.lw.cancel && e.lw.tries == 0 then .stop (ladleFail s c.w c.l ⟨0x0701, 0, 0⟩)
  else
    let n := 8 + rowBytes c.t
    let rec' := (bs.drop (n * e.lw.pos)).take n
    if rec'.length < n then
      .stop (if rec'.isEmpty then finishWriter s c.w c.l 0 else ladleFail s c.w c.l ⟨0x0406, 0, 0⟩)
    else
      let row := leAt rec' 0 8
      if c.t.prows ≤ row then .stop (ladleFail s c.w c.l ⟨0x0404, 0, 0⟩)
      else match rowRead c c.t.base row (lhForce e.desc) s with
        | (s1, .refused) => .stop (ladleRefused (ladleAtRow s1 c.w c.l row) c.w c.l ⟨0x0408, 0, 0⟩)
        | (s1, .fail code) => .stop (ladleFail (ladleAtRow s1 c.w c.l row) c.w c.l ⟨code, 0, 0⟩)
        | (s1, .ok old) =>
          match rowWrite s1 c old row (rec'.drop 12) (fun s => (s, .ok ([], []))) with
          | (s2, .held lk) => .next (rowHeld s2 c.w c.l lk)
          | (s2, .lost) => .stop (ladleRefused (rowLost (ladleAtRow s2 c.w c.l row) c.w c.l) c.w c.l ⟨0x0408, 0, 0⟩)
          | (s2, .fail code) => .stop (ladleFail (ladleAtRow s2 c.w c.l row) c.w c.l ⟨code, 0, 0⟩)

def replaceLoop (c : LAcc) (bs : List Byte) : Nat → State → State
  | 0, s => s
  | n + 1, s =>
    match replaceStep c bs s with
    | .stop s1 => s1
    | .next s1 => replaceLoop c bs n s1

def goReplace (s : State) (w l ctx : Nat) (bs : List Byte) : State :=
  let c := ladleAcc (ldlOf s w l) w l ctx
  replaceLoop c bs (2 * (bs.length / (8 + rowBytes c.t)) + 2) s

/-! ## The life of an operation (R306) -/

/-- Count the block's entries once. -/
def countEntries (s : State) (w l : Nat) (b : BagBlk) : State :=
  if (ldlOf s w l).lw.begun then s
  else ldlOn (ldlBump s w l 1 b.idx.length) w l (fun e => { e with lw := { e.lw with begun := true } })

/-- Work on the input taken. -/
def ladleGo (s : State) (w l ctx : Nat) : State :=
  let e := ldlOf s w l
  let h := e.desc
  let t := lTab e
  let port := fun (p : Nat) => (tget {} e.acc p : InPort)
  let ps := (ladleIns h).map port
  if ps.any (·.lost) ∨ e.store = 2 then ladleFail (ldlOn s w l (fun e => { e with store := 0 })) w l ⟨0x0409, 0, 0⟩
  else if ps.any (·.err) then ladleFail s w l ⟨0x040E, 0, 0⟩
  else if lhMode h = 4 then goReplace s w l ctx (port (lhIn h)).bytes
  else match bagBlock (port (lhIn h)).bytes (lhMean h) with
    | none => ladleFail s w l ⟨0x0406, 0, 0⟩
    | some b =>
      let s1 := countEntries s w l b
      let g := (port (lhAux h)).bytes
      if lhMode h ≠ 1 ∧ g.length ≠ 4 * t.d * b.nbags then ladleFail s1 w l ⟨0x0406, 0, 0⟩
      else match entryKeys t b with
        | .error (code, bag, entry) => ladleFail s1 w l (endBag code (some bag) entry)
        | .ok keys =>
          match lhMode h with
          | 1 => goPool s1 w l ctx b keys
          | 3 => goNorms s1 w l b keys g
          | _ => goUpdate s1 w l ctx b keys g (port (lhAux2 h)).bytes

/-- Run an operation as far as its input, its rows and its output credits allow. -/
def ladleRun (s : State) (w l ctx : Nat) : State :=
  let e := ldlOf s w l
  let u := ladleUnit l
  if e.st = .drain then ladleDrain s w l
  else match e.pend with
    | some f => onWheel s w (fun x => deliverOuts x u 16 f)
    | none =>
      let s1 := onWheel s w (fun x => outAdvance (pullAll u 16 (ladleNeeds e) x) u 16)
      let e1 := ldlOf s1 w l
      if !e1.outs.isEmpty then ldlOn s1 w l (fun e => { e with st := .outWait })
      else if (ladleNeeds e1).any (fun p => !(portDone e1 p.1 p.2)) then ldlOn s1 w l (fun e => { e with st := .inWait })
      else ladleGo (ldlOn s1 w l (fun e => { e with st := .run })) w l ctx

/-- A mode's command: the ladle takes up, or goes on with, the operation dispatched to it. A header that names no mode is
taken up by any of the four. -/
def ladleCmd (s : State) (w l mode : Nat) : State :=
  let e := ldlOf s w l
  match e.op with
  | none => s
  | some op =>
    let x := wheelOf s w
    let m := lhMode (if e.st = .check then caveRead x e.descAddr 8 else e.desc)
    let mine := m == mode || (e.st == .check && (m == 0 || decide (4 < m) || !(caveAddrOk x e.descAddr 128)))
    if e.fin.isSome ∨ e.st = .fenced ∨ e.st = .outOfService ∨ e.st = .rowWait ∨ mine = false then s
    else
      let s1 := if e.st = .check then onWheel s w (fun x => ladleCheck x l op.ctx) else s
      if (ldlOf s1 w l).fin.isSome then s1 else ladleRun s1 w l op.ctx

def execPool (w : Fin 8) (l : Fin 8) (s : State) : Host.Outcome State Fault Refusal := .next (ladleCmd s w l 1)
def execUpdate (w : Fin 8) (l : Fin 8) (s : State) : Host.Outcome State Fault Refusal := .next (ladleCmd s w l 2)
def execNorms (w : Fin 8) (l : Fin 8) (s : State) : Host.Outcome State Fault Refusal := .next (ladleCmd s w l 3)
def execReplace (w : Fin 8) (l : Fin 8) (s : State) : Host.Outcome State Fault Refusal := .next (ladleCmd s w l 4)

/-- ROW_RETRY_WAIT_EXPIRY (R317 step 4): the refused row is read again. -/
def ladleRetry (s : State) (w l : Nat) : State :=
  let e := ldlOf s w l
  match e.op with
  | none => s
  | some op => if e.st = .rowWait then ladleRun (ldlOn s w l (fun e => { e with st := .run })) w l op.ctx else s

def execRowRetryWaitExpiry (w : Fin 8) (l : Fin 8) (s : State) : Host.Outcome State Fault Refusal :=
  .next (ladleRetry s w l)

/-- Drop the copies of a row (R334). A read of the row that is in use already still serves the window and bag it was made
for. -/
def dropCopies (e : Eng) (ctx table row : Nat) : Eng :=
  match e.op with
  | none => e
  | some op =>
    if op.ctx = ctx ∧ (lTab e).table = table then
      { e with lw := { e.lw with copies := e.lw.copies.filter (fun c => !(c.2.1.contains row)) } }
    else e

/-- COPY_INVALIDATION: a ladle answers the messages sent to it. -/
def copyInval (s : State) (w l : Nat) : State :=
  let s1 := s.mesh.foldl (fun s m => match m with
    | .invalidate t k ctx table row _ => if t = w ∧ k = l then ldlOn s w l (fun e => dropCopies e ctx table row) else s
    | _ => s) s
  { s1 with mesh := s1.mesh.filter (fun m => match m with
    | .invalidate t k _ _ _ _ => !(t == w && k == l)
    | _ => true) }

def execCopyInvalidation (w : Fin 8) (l : Fin 8) (s : State) : Host.Outcome State Fault Refusal := .next (copyInval s w l)

/-- LADLE_CANCEL (R322): a cancelled flow's operation stops at its boundary: at once where none of a bag, record or row is
in progress, else after it. -/
def ladleStop (s : State) (w l : Nat) : State :=
  let x := wheelOf s w
  let e := ladleOf x l
  match e.op with
  | none => s
  | some op =>
    if e.fin.isSome || e.st == .drain || e.st == .fenced || e.st == .outOfService then s
    else
      let s1 := if e.st = .check then onWheel s w (fun x => ladleCheck x l op.ctx) else s
      let e1 := ldlOf s1 w l
      if e1.fin.isSome then s1
      else if e1.lw.lock.isSome || e1.st == .rowWait then ldlOn s1 w l (fun e => { e with lw := { e.lw with cancel := true } })
      else ladleFail s1 w l ⟨0x0701, 0, 0⟩

def execLadleCancel (w : Fin 8) (l : Fin 8) (s : State) : Host.Outcome State Fault Refusal := 
  .next (if opCancelled s w (ladleOf (wheelOf s w) l) then ladleStop s w l else s)

/-! ## Load and migration (R323–R328, R345) -/

/-- LDL_SAMPLE_READ: the oldest sample is popped, and its context latched. -/
def sampleRead (s : State) (w : Nat) : State :=
  let x := wheelOf s w
  match x.ldl.samples with
  | [] => { s with rdVal := 0 }
  | p :: r =>
    { setWheel s w { x with ldl := { x.ldl with samples := r, sampleCtx := p.ctx } } with
      rdVal := BitVec.ofNat 64 (2 ^ 63 + p.table * 2 ^ 47 + p.row % 2 ^ 40) }

def execLdlSampleRead (w : Fin 8) (s : State) : Host.Outcome State Fault Refusal := .next (sampleRead s w)

/-- The loads of a die's shards in the period that ends. -/
def periodLoad (s : State) (w : Nat) : Nat :=
  let x := wheelOf s w
  regGet x.ldl.regs 0x040 - x.ldl.lastLoad

/-- A row's samples, most often sampled first. -/
def hotRows (ps : List Sample) : List Sample :=
  let once := ps.foldl (fun l p => if l.contains p then l else l ++ [p]) []
  let n := fun (p : Sample) => (ps.filter (· = p)).length
  sortBy (fun a b => decide (n b < n a)) once

/-- The wheels whose ladles read a table: those with a ladle operation of the context that names it. -/
def readerWheels (s : State) (ctx table : Nat) : List Nat :=
  (upto 8).filter (fun w =>
    let x := wheelOf s w
    x.rnt.ops.any (fun o =>
      let a := bits (leNat (caveRead x (o.addr + 64) 4)) 26 0
      o.ctx == ctx && o.cls == 3 && (tabDesc (caveRead x (a + 64) 64)).table == table))

/-- Install a redirect in every reader wheel. Where a share has no free entry the install is refused and counted there
(R278, R327), and the entries installed before it are removed. -/
def installAll (s : State) (key : BitVec 128) (res : DWord) (ws : List Nat) : State × Bool :=
  let r := ws.foldl (fun (p : State × List Nat × Bool) w =>
    if !p.2.2 then p
    else
      let m := mldMigrate (wheelOf p.1 w).mld key migrMask res
      (onWheel p.1 w (fun x => { x with mld := m.1 }), if m.2 then w :: p.2.1 else p.2.1, m.2)) (s, [], true)
  if r.2.2 then (r.1, true)
  else (r.2.1.foldl (fun s w => onWheel s w (fun x => onMld x (fun d => mldUnmigrate d key))) r.1, false)

/-- The firmware takes a row by R319: read, read again, swapped to odd; nothing else happens between its eight retries. -/
def fwTake (w : Nat) (ps : Pieces) : Nat → State → State × Option (List Byte)
  | 0, s => (s, none)
  | n + 1, s =>
    match readPieces w ps s with
    | (s1, old, 0) =>
      let v := leAt old 0 4
      if v % 2 = 1 then fwTake w ps n s1
      else match devCas s1 w (headAddr ps) (leAt old 0 8) (leAt old 4 4 * 2 ^ 32 + v + 1) with
        | (s2, .ok true) => (s2, some old)
        | (s2, .ok false) => fwTake w ps n s2
        | (s2, .error _) => (s2, none)
    | (s1, _, _) => (s1, none)

/-- The firmware writes a row by R318: the rest first, then VERSION. -/
def fwWrite (s : State) (w : Nat) (ps : Pieces) (version : Nat) (tail : List Byte) : State :=
  (devWrite (writePieces w (dropPieces 4 ps) tail s).1 w (headAddr ps) (leBytes 4 version)).1

/-- Migrate one row to `dst` at `pa` (R325): the home row is taken and stays odd, the copy has an even VERSION. A row that
cannot be taken is passed over. -/
def migrateRow (s : State) (src dst pa : Nat) (p : Sample) : State × Bool :=
  let rb := p.home.foldl (fun n q => n + q.2) 0
  match fwTake src p.home 9 s with
  | (s1, none) => (s1, true)
  | (s1, some old) =>
    let v := (leAt old 0 4 + 2) % 2 ^ 32
    let s2 := fwWrite s1 src [(pa, rb)] v (old.drop 4)
    match installAll s2 (migrKey p.ctx p.table p.row) (BitVec.ofNat 64 pa) (readerWheels s2 p.ctx p.table) with
    | (s3, true) =>
      ({ onWheel s3 dst (fun x => { x with ldl := { x.ldl with migrated := x.ldl.migrated + 1, poolUsed := x.ldl.poolUsed + rb } })
         with migs := s3.migs ++ [⟨p.ctx, p.table, p.row, p.home, pa, rb⟩] }, true)
    | (s3, false) => ((devWrite s3 src (headAddr p.home) (leBytes 4 v)).1, false)

/-- Migrate rows in order until one is refused (R327). -/
def migrateRows (src dst base size : Nat) : List Sample → State → State
  | [], s => s
  | p :: r, s =>
    let x := wheelOf s dst
    let rb := p.home.foldl (fun n q => n + q.2) 0
    let stop := fun (s : State) => onWheel s dst (fun x => { x with ldl := { x.ldl with stopped := true } })
    if size < x.ldl.poolUsed + rb then stop s
    else match migrateRow s src dst (base + x.ldl.poolUsed) p with
      | (s1, true) => migrateRows src dst base size r s1
      | (s1, false) => stop s1

/-- The row of a sample is migrated already. -/
def isMigrated (s : State) (p : Sample) : Bool := s.migs.any (fun m => m.ctx == p.ctx && m.table == p.table && m.row == p.row)

/-- MIGRATION_PERIOD: the firmware compares the shard loads of a die, and migrates up to 32 of the busiest shard's most
often sampled rows to the least-loaded one (R324). `base` and `size` are the pool that the plan reserves there. -/
def migrationPeriod (s : State) (die base size : Nat) : State :=
  let ws := (upto 4).map (4 * die + ·)
  let load := periodLoad s
  let total := (ws.map load).foldl (· + ·) 0
  let busy := ws.foldl (fun b w => if load b < load w then w else b) (4 * die)
  let idle := ws.foldl (fun b w => if load w < load b then w else b) (4 * die)
  let s1 := ws.foldl (fun s w => onWheel s w (fun x => { x with ldl := { x.ldl with lastLoad := regGet x.ldl.regs 0x040 } })) s
  if s.migrEn && decide (total * (100 + s.migrImbal) < load busy * 400) && !((wheelOf s idle).ldl.stopped) then
    let ps := (hotRows ((wheelOf s busy).ldl.samples.filter (fun p => p.ok && paWheel (headAddr p.home) == busy
      && !(isMigrated s p)))).take 32
    let s2 := onWheel s1 busy (fun x => { x with ldl := { x.ldl with samples := [] } })
    migrateRows busy idle base size ps s2
  else s1

def execMigrationPeriod (die : Fin 2) (base : Fin 1099511627776) (size : Fin 137438953472) (s : State) :
    Host.Outcome State Fault Refusal :=
  .next (migrationPeriod s die base size)

end Sys2Proof.Machine
end

