-- ==== Sys2Proof/Machine/PressCheck.lean ====
section
/-!
DEFINITION. Sys2Proof/Machine/PressCheck.lean: operator descriptors and the checks before any input (R223–R229, R235,
R236, R251, R266).
-/

namespace Sys2Proof.Machine

/-! ## Descriptors (R224–R227, R235) -/

def opKind (d : List Byte) : Nat := bits (leAt d 0 8) 59 56
def opSelIn (d : List Byte) : Nat := bits (leAt d 0 8) 55 52
def opSelEn (d : List Byte) : Bool := bitAt (leAt d 0 8) 51
def opOutA (d : List Byte) : Nat := bits (leAt d 0 8) 47 44
def opOutB (d : List Byte) : Nat := bits (leAt d 0 8) 43 40
def opNent (d : List Byte) : Nat := bits (leAt d 0 8) 36 32
def opTable (d : List Byte) : Nat := bits (leAt d 8 8) 26 0
def opTableBytes (d : List Byte) : Nat := bits (leAt d 8 8) 63 32
def opSeed (d : List Byte) : Nat := leAt d 0x10 8
def opCtrl (d : List Byte) : Nat := leAt d 0x18 8
def opMset (d : List Byte) : Nat := bits (opCtrl d) 63 56
def opHot (d : List Byte) : Bool := bitAt (opCtrl d) 55
def opInit (d : List Byte) : Bool := bitAt (opCtrl d) 54
def opJkind (d : List Byte) : Nat := bits (opCtrl d) 53 52
def opWide (d : List Byte) : Bool := bitAt (opCtrl d) 51
def opNkeyF (d : List Byte) : Nat := bits (opCtrl d) 50 48
def opP (d : List Byte) : Nat := bits (opCtrl d) 47 44
def opPshift (d : List Byte) : Nat := bits (opCtrl d) 43 38
def opDropNull (d : List Byte) : Bool := bitAt (opCtrl d) 37
def opHllP (d : List Byte) : Nat := bits (opCtrl d) 36 32
def opLineFirst (d : List Byte) : Nat := bits (opCtrl d) 31 0

/-- Operator kinds (R225): 1 FEATURE, 2 BUILD, 3 PROBE, 4 PARTITION, 5 AGG, 6 AGG_EMIT, 7 HLL. -/
def opAgg (d : List Byte) : Bool := opKind d == 5 || opKind d == 6
/-- Key entries. -/
def opNkey (d : List Byte) : Nat := if opAgg d then opNkeyF d else opNent d

/-- A key or aggregate entry (R227). -/
structure KeyEnt where
  afn : Nat
  inPort : Nat
  outPort : Nat
  ty : ColTy
  resv : Bool
  deriving DecidableEq, Repr

def entBytes (d : List Byte) (i : Nat) : List Byte := (d.drop (64 + 32 * i)).take 32

def keyEnt (d : List Byte) (i : Nat) : KeyEnt :=
  let b := entBytes d i
  let w := leAt b 0 8
  { afn := bits w 63 56, inPort := bits w 55 52, outPort := bits w 46 43, ty := ⟨bits w 39 32, bits w 31 24⟩
    resv := bits w 51 47 != 0 || bits w 42 40 != 0 || bits w 23 0 != 0 || leNat (b.drop 8) != 0 }

def opEnts (d : List Byte) : List KeyEnt := (upto (min 16 (opNent d))).map (keyEnt d)
def opKeys (d : List Byte) : List KeyEnt := (opEnts d).take (opNkey d)
def opAggs (d : List Byte) : List KeyEnt := (opEnts d).drop (opNkey d)

/-- A step entry (R235). -/
structure StepEnt where
  opc : Nat
  inPort : Nat
  src : Nat
  outPort : Nat
  emit : Bool
  nullId : Bool
  otE : Bool
  otype : Nat
  nb : Nat
  p0 : Nat
  p1 : Nat
  param : Nat
  nout : Nat
  resv : Bool
  deriving DecidableEq, Repr

def stepEnt (d : List Byte) (i : Nat) : StepEnt :=
  let b := entBytes d i
  let w := leAt b 0 8
  let q := leAt b 0x18 8
  { opc := bits w 63 56, inPort := bits w 55 52, src := bits w 51 47, outPort := bits w 46 43, emit := bitAt w 42
    nullId := bitAt w 41, otE := bitAt w 40, otype := bits w 39 32, nb := bits w 31 0, p0 := leAt b 8 8
    p1 := leAt b 0x10 8, param := bits q 26 0, nout := bits q 33 32, resv := bits q 63 34 != 0 || bits q 31 27 != 0 }

def opSteps (d : List Byte) : List StepEnt := (upto (min 16 (opNent d))).map (stepEnt d)

/-- UPDATE_ONLY emits nothing (R244). -/
def stepEmits (s : StepEnt) : Bool := s.emit && !(s.opc == 0x10 && s.p1 % 4 == 2)

/-- Output ports of a step. -/
def stepPorts (s : StepEnt) : List Nat := if stepEmits s then (upto (s.nout + 1)).map (s.outPort + ·) else []

/-- Input ports an operator reads, in order without repeats. -/
def dedup (l : List Nat) : List Nat := l.foldl (fun acc a => if acc.contains a then acc else acc ++ [a]) []

def opInPorts (d : List Byte) : List Nat :=
  if opKind d = 1 then dedup (((opSteps d).filter (fun s => s.src == 0)).map (·.inPort))
  else if opKind d = 6 then []
  else dedup (((opEnts d).filter (fun e => e.afn != 3)).map (·.inPort))

/-- The operator reads a selection vector. -/
def opSel (d : List Byte) : Bool := opSelEn d && opKind d != 6

/-- Output ports an operator writes (R255, R258, R262). -/
def opOutPorts (d : List Byte) : List Nat :=
  match opKind d with
  | 1 => (opSteps d).flatMap stepPorts
  | 3 => [opOutA d]
  | 4 => [opOutA d, opOutB d]
  | 6 => (opEnts d).map (·.outPort)
  | _ => []

/-! ## Tables (R251, R259) -/

def opNlines (d : List Byte) : Nat := opTableBytes d / 256 - 1

def pow2 (n : Nat) : Bool := decide (0 < n) && n == 2 ^ Nat.log2 n

/-- Bytes of a key (R250). -/
def keyBytesLen (d : List Byte) : Nat := ((opKeys d).map (fun k => keyWidth k.ty)).foldl (· + ·) 0

/-- Entry size code of an aggregation table (R259). -/
def aggEsz (nagg : Nat) : Nat := if 32 + 16 * nagg ≤ 64 then 2 else if 32 + 16 * nagg ≤ 128 then 3 else 4

/-- A table header's fields. -/
structure Tbl where
  addr : Nat
  ver : Nat
  kind : Nat
  full : Bool
  esz : Nat
  nkey : Nat
  nagg : Nat
  nlines : Nat
  seed : Nat
  count : Nat
  next : Nat
  resv : Bool
  deriving DecidableEq, Repr

def tblFrom (b : List Byte) (a : Nat) : Tbl :=
  let w := leAt b 0 8
  { addr := a, ver := bits w 63 60, kind := bits w 59 56, full := bitAt w 55, esz := bits w 54 52, nkey := bits w 51 48
    nagg := bits w 47 44, nlines := bits w 31 0, seed := leAt b 8 8, count := leAt b 0x10 8, next := leAt b 0x18 8
    resv := bits w 43 32 != 0 || leNat (b.drop 0x38) != 0 }

def tblOf (x : Wheel) (a : Nat) : Tbl := tblFrom (caveRead x a 256) a

/-- The table as a running operator uses it: the geometry of the header that it checked or wrote, the counts as they are
now (R257: it never leaves the region). -/
def tblNow (x : Wheel) (e : Eng) (a : Nat) : Tbl :=
  let t := tblOf x a
  { tblFrom e.tbl a with full := t.full, count := t.count, next := t.next }

def tblEntryBytes (t : Tbl) : Nat := 16 * 2 ^ t.esz

/-- The KEYS and AGGS bytes a descriptor's entries give (R251). -/
def tblKeys (d : List Byte) : List Byte :=
  takePad 0 8 ((opKeys d).flatMap (fun k => leBytes 1 k.ty.code ++ leBytes 1 k.ty.width))
def tblAggs (d : List Byte) : List Byte :=
  takePad 0 16 ((opAggs d).flatMap (fun k => leBytes 1 k.afn ++ leBytes 1 k.ty.code))

def opTblKind (d : List Byte) : Nat := if opAgg d then 5 else 2
def opTblEsz (d : List Byte) : Nat := if opAgg d then aggEsz (opAggs d).length else b2n (opWide d)

/-- The header that INIT writes. -/
def tblHeader (d : List Byte) (full : Bool) (count next : Nat) : List Byte :=
  leBytes 8 (2 ^ 60 + opTblKind d * 2 ^ 56 + b2n full * 2 ^ 55 + opTblEsz d * 2 ^ 52 + opNkey d * 2 ^ 48
      + (if opAgg d then (opAggs d).length else 0) * 2 ^ 44 + opNlines d)
    ++ leBytes 8 (opSeed d) ++ leBytes 8 count ++ leBytes 8 next ++ tblKeys d
    ++ (if opAgg d then tblAggs d else List.replicate 16 0) ++ List.replicate 200 0

/-- Zero a region of the Cave. -/
def caveZero (x : Wheel) (a n : Nat) : Wheel :=
  { x with cave := x.cave.filter (fun c => !(decide (a ≤ c.1) && decide (c.1 < a + n)))
           caveBad := x.caveBad.filter (fun c => !(decide (a ≤ c.1 * 8) && decide (c.1 * 8 + 8 ≤ a + n))) }

/-- The table header agrees with the descriptor (R251). -/
def tblMatches (x : Wheel) (d : List Byte) (t : Tbl) : Bool :=
  let b := caveRead x t.addr 256
  t.kind == opTblKind d && t.nlines == opNlines d && t.seed == opSeed d && t.nkey == opNkey d
    && t.nagg == (if opAgg d then (opAggs d).length else 0)
    && (b.drop 0x20).take 8 == tblKeys d
    && (b.drop 0x28).take 16 == (if opAgg d then tblAggs d else List.replicate 16 0)
    && (if opAgg d then t.esz == opTblEsz d
        else decide (t.esz ≤ 1) && decide (keyBytesLen d ≤ (if t.esz = 0 then 8 else 24)))

/-! ## Field checks -/

/-- 0x0220: VER or a reserved field; the entry concerned. -/
def opBad0 (d : List Byte) : Option Nat :=
  let w := leAt d 0 8
  if bits w 63 60 ≠ 1 ∨ bits w 50 48 ≠ 0 ∨ bits w 39 37 ≠ 0 ∨ bits w 31 0 ≠ 0 ∨ bits (leAt d 8 8) 31 27 ≠ 0
      ∨ leNat ((d.drop 0x20).take 32) ≠ 0 then some 0
  else if opKind d = 1 then firstBad (fun s : StepEnt => s.resv) (opSteps d)
  else firstBad (fun k : KeyEnt => k.resv) (opEnts d)

/-- CTRL bits that a kind uses (R226). -/
def ctrlUsed (kind : Nat) : Nat :=
  match kind with
  | 2 => 0xFF * 2 ^ 56 + 2 ^ 55 + 2 ^ 54 + 2 ^ 51
  | 3 => 0xFF * 2 ^ 56 + 2 ^ 55 + 3 * 2 ^ 52
  | 4 => 0xF * 2 ^ 44 + 0x3F * 2 ^ 38 + 2 ^ 37
  | 5 => 2 ^ 54 + 7 * 2 ^ 48
  | 6 => 7 * 2 ^ 48 + 0xFFFFFFFF
  | 7 => 2 ^ 54 + 0x1F * 2 ^ 32
  | _ => 0

def stepListed (opc : Nat) : Bool :=
  (decide (1 ≤ opc) && decide (opc ≤ 4)) || (decide (8 ≤ opc) && decide (opc ≤ 0x0B))
    || (decide (0x10 ≤ opc) && decide (opc ≤ 0x14))

/-- The size of the table region is valid (R251, R263). -/
def tableSizeOk (d : List Byte) : Bool :=
  let n := opTableBytes d
  match opKind d with
  | 7 => n == 2 ^ opHllP d
  | 2 => n % 256 == 0 && pow2 (n / 256 - 1) && decide (n / 256 - 1 ≤ 262144)
  | 3 => n % 256 == 0 && pow2 (n / 256 - 1) && decide (n / 256 - 1 ≤ 262144)
  | 5 => n % 256 == 0 && pow2 (n / 256 - 1) && decide (n / 256 - 1 ≤ 262144)
  | 6 => n % 256 == 0 && pow2 (n / 256 - 1) && decide (n / 256 - 1 ≤ 262144)
  | _ => opTable d == 0 && n == 0

/-- 0x0221: a field out of range, a port conflict, or an invalid table region size; the entry concerned. -/
def opBad1 (d : List Byte) : Option Nat :=
  let k := opKind d
  let n := opNent d
  let headBad := k == 0 || decide (7 < k) || n == 0 || decide (16 < n)
    || (opCtrl d &&& ctrlUsed k) != opCtrl d
    || (opWide d && !(opInit d))
    || ((k == 2 || k == 3 || k == 4 || k == 7) && decide (4 < n))
    || (opAgg d && (opNkeyF d == 0 || decide (4 < opNkeyF d) || decide (n < opNkeyF d + 1) || decide (opNkeyF d + 8 < n)))
    || (k == 4 && (opP d == 0 || decide (10 < opP d) || decide (64 < opPshift d + opP d)))
    || (k == 7 && (decide (opHllP d < 10) || decide (16 < opHllP d)))
    || !(tableSizeOk d)
    || (k == 4 && opOutA d == opOutB d)
  if headBad then some 0
  else if k = 1 then
    (upto n).find? (fun i =>
      let s := stepEnt d i
      !(stepListed s.opc) || decide (i < s.src) || (s.nout != 0 && s.opc != 0x0B)
        || (s.emit && decide (15 < s.outPort + s.nout))
        || (opSel d && s.src == 0 && s.inPort == opSelIn d)
        || (stepPorts s).any (fun p => ((opSteps d).take i).any (fun t => (stepPorts t).contains p)))
  else
    (upto n).find? (fun i =>
      let e := keyEnt d i
      let key := decide (i < opNkey d)
      (k == 6 && ((opEnts d).take i).any (fun f => f.outPort == e.outPort))
        || (opSel d && e.afn != 3 && e.inPort == opSelIn d)
        || (if key then e.afn != 0 else e.afn == 0 || decide (6 < e.afn))
        || (if k = 6 then e.inPort != 0 else e.outPort != 0)
        || (e.afn == 3 && (e.inPort != 0 || e.ty.code != 0)))

/-- Bytes of a step's parameter block. -/
def paramBytes (s : StepEnt) : Nat := if s.opc = 0x09 then 8 * s.nb else if s.opc = 0x10 then 64 else 0

/-- 0x020A of TABLE_ADDR and PARAM_ADDR (R251, R266). -/
def opBadA (x : Wheel) (d : List Byte) : Option Nat :=
  let k := opKind d
  if k = 1 then
    firstBad (fun s : StepEnt => decide (0 < paramBytes s) && !(caveAddrOk x s.param (paramBytes s))) (opSteps d)
  else if k = 4 then none
  else if !(caveAddrOk x (opTable d) (opTableBytes d)) then some 0 else none

/-- The type a step's output counts as when another step reads it, none where it has no column type. -/
def stepOutTy (s : StepEnt) : Option ColTy :=
  if s.opc = 0x14 then none else if s.otE then elemColTy s.otype else some ⟨s.otype, 0⟩

/-- Element types the normalising steps emit (R236). -/
def normType (s : StepEnt) : Bool := s.otE && (s.otype == 0x01 || s.otype == 0x02 || s.otype == 0x04 || s.otype == 0x05)

/-- The step's output type is one R236 gives it. -/
def stepTypeOk (s : StepEnt) : Bool :=
  match s.opc with
  | 0x01 => !s.otE && s.otype == 0x08
  | 0x02 => !s.otE && s.otype == 0x08
  | 0x03 => !s.otE && (s.otype == 0x09 || (s.otype == 0x08 && decide (1 ≤ s.p1) && decide (s.p1 ≤ 2 ^ 32)))
  | 0x04 => !s.otE && s.otype == 0x09
  | 0x08 => s.otE && s.otype == 0x12
  | 0x09 => s.otE && s.otype == 0x12
  | 0x0A => s.otE && s.otype == 0x12
  | 0x0B => s.otE && s.otype == 0x12
  | _ => normType s

/-- A step accepts an input column of a type (R236, R239). -/
def stepInOk (s : StepEnt) (t : ColTy) : Bool :=
  match s.opc with
  | 0x01 => true
  | 0x02 => true
  | 0x03 => true
  | 0x04 => tyOrder t
  | 0x09 => if bitAt s.p0 0 then tyInt t.code else tyNumeric t.code
  | 0x0A => tyOrder t
  | 0x0B => t.code == 0x08 || (t.code == 0x12 && (t.width == 4 || t.width == 16))
  | 0x14 => t.code == 0x04
  | _ => tyNumeric t.code

def widthOk (t : ColTy) : Bool := if t.code = 0x12 then decide (1 ≤ t.width) && decide (t.width ≤ 64) else t.width == 0

/-- 0x0222 from the descriptor alone: types, key widths (R236, R250, R254, R259, R260). -/
def opBad2 (d : List Byte) : Option Nat :=
  let k := opKind d
  if k = 1 then
    (upto (opNent d)).find? (fun i =>
      let s := stepEnt d i
      !(stepTypeOk s) || (s.src != 0 && (match stepOutTy (stepEnt d (s.src - 1)) with
        | none => true
        | some t => !(stepInOk s t))))
  else
    let klen := keyBytesLen d
    let lenBad := (k == 2 && opInit d && decide ((if opWide d then 24 else 8) < klen))
      || (opAgg d && decide (24 < klen)) || (opHot d && decide (15 < klen))
    if lenBad then some 0
    else
      (upto (opNent d)).find? (fun i =>
        let e := keyEnt d i
        if i < opNkey d then !(tyFixed e.ty.code) || !(widthOk e.ty)
        else if e.afn = 3 then e.ty.width != 0
        else !(widthOk e.ty) || !(if e.afn = 2 then ctypeListed e.ty.code else tyNumeric e.ty.code))

def f64Nan (x : Nat) : Bool := numIsNan (numOf fp64 x)
def f64Lt (a b : Nat) : Bool := numLt (numOf fp64 a) (numOf fp64 b)
def f64Le (a b : Nat) : Bool := numLe (numOf fp64 a) (numOf fp64 b)

/-- Boundaries strictly ascending, without NaN (R239). -/
def boundsOk (ints : Bool) : List Nat → Bool
  | [] => true
  | [a] => ints || !(f64Nan a)
  | a :: b :: r => (if ints then decide (sext 64 a < sext 64 b) else f64Lt a b) && boundsOk ints (b :: r)

def boundBlock (x : Wheel) (s : StepEnt) : List Nat := (upto s.nb).map (fun i => leNat (caveRead x (s.param + 8 * i) 8))

/-- A statistics block (R243). -/
structure ZBlock where
  n : Nat
  sum : Int
  sq : Nat
  f : Int
  resv : Bool
  nonfin : Nat
  deriving DecidableEq, Repr

def zBlock (x : Wheel) (a : Nat) : ZBlock :=
  let b := caveRead x a 64
  ⟨leAt b 0 8, sext 128 (leAt b 8 16), leAt b 0x18 24, sext 8 (leAt b 0x30 1), leAt b 0x31 7 != 0, leAt b 0x38 8⟩

def zBytes (z : ZBlock) : List Byte :=
  leBytes 8 z.n ++ leBytes 16 (wrapInt 128 z.sum) ++ leBytes 24 z.sq ++ leBytes 1 (wrapInt 8 z.f) ++ List.replicate 7 0
    ++ leBytes 8 z.nonfin

/-- A step's parameters and parameter block are valid (R236, R239, R243, R244, R247). -/
def stepParamOk (x : Wheel) (s : StepEnt) : Bool :=
  let noParam := s.param == 0
  match s.opc with
  | 0x08 => noParam && decide (1 ≤ s.nb) && decide (s.nb ≤ 65536)
  | 0x09 => decide (1 ≤ s.nb) && decide (s.nb ≤ 4096) && boundsOk (bitAt s.p0 0) (boundBlock x s)
  | 0x10 =>
    let z := zBlock x s.param
    s.nb == 0 && f64Le 0 s.p0 && s.p1 % 4 != 3 && !z.resv && decide (-32 ≤ z.f) && decide (z.f ≤ 32) && decide (z.n ≤ 2 ^ 63)
  | 0x11 => noParam && s.nb == 0 && f64Lt s.p0 s.p1
  | 0x13 => noParam && s.nb == 0 && f64Le s.p0 s.p1
  | 0x14 => noParam && decide (1 ≤ s.nb) && decide (s.nb ≤ 4096)
  | _ => noParam && s.nb == 0

/-- Parameter blocks and table header (R266): code and entry. -/
def opBadP (x : Wheel) (d : List Byte) : Option (Nat × Nat) :=
  let k := opKind d
  if k = 1 then
    let lost := firstBad (fun s : StepEnt => decide (0 < paramBytes s) && caveUncorr x s.param (paramBytes s)) (opSteps d)
    match lost, firstBad (fun s : StepEnt => !(stepParamOk x s)) (opSteps d) with
    | some i, _ => some (0x020B, i)
    | none, some i => some (0x0223, i)
    | none, none => none
  else if k = 4 ∨ k = 7 then none
  else if (k = 2 ∨ k = 5) ∧ opInit d = true then none
  else
    let t := tblOf x (opTable d)
    if caveUncorr x (opTable d) 256 then some (0x020B, 0)
    else if t.ver ≠ 1 ∨ t.resv = true then some (0x0220, 0)
    else if !(tblMatches x d t) then some (0x0222, 0)
    else if k ≠ 6 ∧ t.full = true then some (0x0224, 0)
    else none

/-- The descriptor's bytes as the press copies them. -/
def opCopy (x : Wheel) (a : Nat) : List Byte := caveRead x a (64 + 32 * min 16 (opNent (caveRead x a 64)))

/-- The entry whose column an input port carries, for PRS_ERR_DETAIL. -/
def portEntry (d : List Byte) (port : Nat) : Nat :=
  ((upto (opNent d)).find? (fun i =>
    if opKind d = 1 then (stepEnt d i).src == 0 && (stepEnt d i).inPort == port else (keyEnt d i).inPort == port)).getD 0

/-- The entry that writes an output port. -/
def outEntry (d : List Byte) (port : Nat) : Nat :=
  if opKind d = 1 then ((upto (opNent d)).find? (fun i => (stepPorts (stepEnt d i)).contains port)).getD 0
  else if opKind d = 6 then ((upto (opNent d)).find? (fun i => (keyEnt d i).outPort == port)).getD 0
  else 0

/-- Bind the ports an operator uses (R694); the error is the entry of the first port conflict, 0 for the selection. -/
def opBind (x : Wheel) (u : UnitId) (e : Eng) (ctx : Nat) (d : List Byte) : Except Nat Wheel :=
  let ins := (opInPorts d).map (fun p => (portEntry d p, portHoop e.inP p))
    ++ (if opSel d then [(0, portHoop e.inP (opSelIn d))] else [])
  match bindMany u ctx true ins x with
  | .error k => .error k
  | .ok x1 => bindMany u ctx false ((opOutPorts d).map (fun p => (outEntry d p, portHoop e.outP p))) x1

/-- A running press operator that uses a table, other than the one on `u`, whose region shares a byte with this one (R257). -/
def sharesTable (u : UnitId) (d : List Byte) (p : Nat × Eng) : Bool :=
  let f := p.2.desc
  p.1 != u.idx && p.2.op.isSome && p.2.fin.isNone && p.2.sub == 1 && p.2.tbl != []
    && spansMeet (opTable d) (opTableBytes d) (opTable f) (opTableBytes f)
    && (opKind d == 2 || opKind d == 5 || opKind f == 2 || opKind f == 5)

/-- Start an operator: what it draws from a table that another press writes, and what the other draws, is open (R257). -/
def opStart (x : Wheel) (u : UnitId) (seed : Nat) (d : List Byte) : Wheel :=
  let k := opKind d
  let tbl := if k = 2 ∨ k = 3 ∨ k = 5 ∨ k = 6 then
      (if opInit d then tblHeader d false 0 0 else caveRead x (opTable d) 256) else []
  let x1 := onEng x u (fun e => { e with st := .run, desc := d, tbl := tbl })
  if tbl != [] && x1.presses.any (sharesTable u d) then tearAll x1 seed (fun p => p.1 == u.idx || sharesTable u d p) else x1

/-- Single-bit errors in an operator's descriptor, parameter blocks and table header are corrected (R112). -/
def opCorrect (x : Wheel) (a : Nat) (d : List Byte) : Wheel :=
  let x1 := caveCorrect x a d.length
  let k := opKind d
  if k = 1 then (opSteps d).foldl (fun x s => caveCorrect x s.param (paramBytes s)) x1
  else if k = 2 ∨ k = 3 ∨ k = 5 ∨ k = 6 then (if opInit d then x1 else caveCorrect x1 (opTable d) 256)
  else x1

/-- The checks of R266 in order; the press then runs. -/
def opCheck (x : Wheel) (u : UnitId) (ctx seed : Nat) : Wheel :=
  let e := engOf x u
  let a := e.descAddr
  let fail := checkFail x u
  if !(caveAddrOk x a 64) then fail 0x020A 0
  else if caveUncorr x a 64 then fail 0x020B 0
  else
    let d := opCopy x a
    if !(caveAddrOk x a d.length) then fail 0x020A 0
    else if caveUncorr x a d.length then fail 0x020B 0
    else match opBad0 d, opBad1 d with
      | some i, _ => fail 0x0220 i
      | none, some i => fail 0x0221 i
      | none, none =>
        match opBind x u e ctx d with
        | .error i => fail 0x0221 i
        | .ok x1 =>
          match opBadA x d, opBad2 d with
          | some i, _ => checkFail x1 u 0x020A i
          | none, some i => checkFail x1 u 0x0222 i
          | none, none =>
            match opBadP x d with
            | some (c, i) => checkFail x1 u c i
            | none => opStart (opCorrect x1 a d) u seed d

end Sys2Proof.Machine
end

