-- ==== Sys2Proof/Machine/Rennet.lean ====
section
/-!
DEFINITION. Sys2Proof/Machine/Rennet.lean: Rennet's matching store, readiness, ranking and dispatch (R413–R439). The
functions act on one wheel and collect what leaves it: mesh messages and the completions of instances.
-/

namespace Sys2Proof.Machine

/-- A flow that entered FAILED, as its record reports it (R433, R534): the instance, the unit, the code, AUX and
DETAIL1. -/
structure FailRec where
  ctx : Nat
  flow : Nat
  iter : Nat
  opid : Nat
  code : Nat
  unit : UnitId
  aux : Nat
  d1 : Nat
  deriving DecidableEq, Repr

/-- A wheel being worked on by Rennet, with what leaves it: messages, failed flows, and the flow counters that saturated
(context, flow, counter). -/
structure RCtx where
  x : Wheel
  w : Nat
  mesh : List MeshMsg := []
  fails : List FailRec := []
  sats : List (Nat × Nat × Nat) := []
  deriving DecidableEq, Repr

def rOn (c : RCtx) (f : Rennet → Rennet) : RCtx := { c with x := { c.x with rnt := f c.x.rnt } }
def rRegs (c : RCtx) (f : Regs → Regs) : RCtx := rOn c (fun r => { r with regs := f r.regs })
def rNow (c : RCtx) : Nat := regGet c.x.rnt.regs 0x078

/-- The operation record of (context, OPID) on this wheel. -/
def findOp (r : Rennet) (ctx opid : Nat) : Option OpRec := r.ops.find? (fun o => o.ctx == ctx && o.opid == opid)

def flowOf (r : Rennet) (f : Nat) : Flow := tget {} r.flows (f % 2048)
def setFlow (r : Rennet) (f : Nat) (y : Flow) : Rennet := { r with flows := tset {} r.flows (f % 2048) y }

/-- KIND of a slot entry: 0 TOKEN, 1 CMD, 2 HOOP (R417). -/
def slotKind (o : OpRec) (s : Nat) : Nat := bits (nth 0xC000 o.slots s) 15 14

/-- The slots of an operation that the matching store holds: TOKEN and CMD (R416). -/
def storeSlots (o : OpRec) : List Nat := (upto o.slots.length).filter (fun s => slotKind o s ≤ 1)

def hoopSlots (o : OpRec) : List Nat :=
  ((upto o.slots.length).filter (fun s => slotKind o s = 2)).map (fun s => bits (nth 0 o.slots s) 9 0)

def sameInst (i : Inst) (ctx opid iter : Nat) : Bool := i.ctx == ctx && i.opid == opid && i.iter == iter

def findInst (r : Rennet) (ctx opid iter : Nat) : Option Inst := r.insts.find? (fun i => sameInst i ctx opid iter)

/-- An instance occupies its store slots from its first operand until its dispatch (R416). -/
def instSlots (r : Rennet) (i : Inst) : Nat :=
  match i.st, findOp r i.ctx i.opid with
  | .waiting, some o => (storeSlots o).length
  | _, _ => 0

def flowSlots (r : Rennet) (f : Nat) : Nat :=
  (r.insts.filter (fun i =>
    match findOp r i.ctx i.opid with
    | some o => o.flow % 2048 == f % 2048
    | none => false)).foldl (fun n i => n + instSlots r i) 0

def usedSlots (r : Rennet) : Nat := r.insts.foldl (fun n i => n + instSlots r i) 0

def setInst (r : Rennet) (j : Inst) : Rennet :=
  { r with insts := r.insts.map (fun i => if sameInst i j.ctx j.opid j.iter then j else i) }

def delInst (r : Rennet) (ctx opid iter : Nat) : Rennet :=
  { r with insts := r.insts.filter (fun i => !(sameInst i ctx opid iter)) }

def findPass (r : Rennet) (ctx iter : Nat) : Option Pass := r.passes.find? (fun p => p.ctx == ctx && p.iter == iter)
def setPass (r : Rennet) (q : Pass) : Rennet :=
  { r with passes := r.passes.map (fun p => if p.ctx == q.ctx && p.iter == q.iter then q else p) }

/-! ## Trace (R437, R438) -/

/-- A trace record (R437). -/
def traceRec (time event prio cls engine flow iter opid code : Nat) : BitVec 128 :=
  BitVec.ofNat 128 (time % 2 ^ 40 * 2 ^ 88 + event * 2 ^ 84 + prio % 8 * 2 ^ 81 + cls % 8 * 2 ^ 78
    + engine % 128 * 2 ^ 71 + flow % 2 ^ 14 * 2 ^ 57 + iter % 2 ^ 16 * 2 ^ 41 + opid % 2 ^ 24 * 2 ^ 17 + code % 2 ^ 16)

/-- Record an event that RNT_TRACE_CTRL selects (R437, R444). -/
def traceEv (c : RCtx) (event prio cls engine flow iter opid code : Nat) : RCtx :=
  let ctl := regGet c.x.rnt.regs 0x028
  if bitAt ctl 31 && bitAt ctl (8 + event) then
    rOn c (fun r => { r with trace := r.trace ++ [traceRec (rNow c) event prio cls engine flow iter opid code] })
  else c

/-! ## Errors and counters -/

def rErr (c : RCtx) (mask flow code opid : Nat) : RCtx := rRegs c (fun g => errSet g mask (errInfo flow code) opid)

/-- Count one of a flow's four counters (R439): 0 DISPATCHED, 1 COMPLETED, 2 CANCELLED, 3 FAILED. A counter that
saturates sets FLOW_SAT and records the flow in RNT_SAT_INFO (R7). -/
def flowCount (c : RCtx) (flow k : Nat) : RCtx :=
  let f := flowOf c.x.rnt flow
  let (x, sat) := satBump (match k with
    | 0 => f.dispatched
    | 1 => f.completed
    | 2 => f.cancelled
    | _ => f.failed)
  let f' := match k with
    | 0 => { f with dispatched := x }
    | 1 => { f with completed := x }
    | 2 => { f with cancelled := x }
    | _ => { f with failed := x }
  let c' := rOn c (fun r => setFlow r flow f')
  if sat then
    let c1 := rErr (rRegs c' (fun g => regSet g 0x02C (k * 2 ^ 14 + flow % 2 ^ 14))) 0x8 flow 0 0
    { c1 with sats := c1.sats ++ [(f.ctx, flow, k)] }
  else c'

def dropOperand (c : RCtx) : RCtx := rRegs c (fun g => bump g 3 1)

/-! ## Storing operands (R416, R420, R433, R434, R436) -/

/-- The slots of an operation that count as filled in a resumed pass (R465). -/
def givenSlots (r : Rennet) (ctx opid iter : Nat) : List Nat :=
  match findPass r ctx iter with
  | some p => tget [] p.given opid
  | none => []

/-- The instance of (context, OPID, ITER), or a new one (R420). A slot fed by a layer at or before the one a pass was
resumed after counts as filled (R465). -/
def openInst (r : Rennet) (o : OpRec) (iter : Nat) : Inst :=
  match findInst r o.ctx o.opid iter with
  | some i => i
  | none => { ctx := o.ctx, opid := o.opid, iter := iter, filled := givenSlots r o.ctx o.opid iter }

/-- An operation of a pass has its instance. -/
def openedInst (r : Rennet) (ctx opid iter : Nat) : Rennet :=
  { r with passes := r.passes.map (fun p =>
      if p.ctx == ctx && p.iter == iter then { p with toOpen := p.toOpen.filter (· ≠ opid) } else p) }

/-- A new instance finds room in its flow's quota and in the store (R415). -/
def instRoom (r : Rennet) (o : OpRec) : Bool :=
  decide (flowSlots r o.flow + (storeSlots o).length ≤ (flowOf r o.flow).quota) && decide (usedSlots r + (storeSlots o).length ≤ 32768)

/-- Storing an operand: it is stored, dropped, or has to wait (R434). -/
inductive StoreRes where
  | stored (c : RCtx)
  | waits
  deriving DecidableEq, Repr

/-- Offer an operand for a slot of kind `kind` (0 TOKEN, 1 CMD). Discarded operands are counted (R433, R436, R465). -/
def storeOperand (c : RCtx) (kind ctx opid slot iter : Nat) : StoreRes :=
  match findOp c.x.rnt ctx opid with
  | none => .stored (traceEv (rErr (dropOperand c) 0x2 0 0x0706 opid) 7 0 0 0 0 iter opid 0)
  | some o =>
    let f := flowOf c.x.rnt o.flow
    let early := match findPass c.x.rnt ctx iter with
      | some p => match p.resumed with
        | some n => decide (o.layer ≤ n)
        | none => false
      | none => false
    if slotKind o slot ≠ kind ∨ early = true then
      .stored (traceEv (rErr (dropOperand c) 0x2 o.flow 0x0706 opid) 7 o.prio o.cls 0 o.flow iter opid 0)
    else if f.st = .cancelled ∨ f.st = .failed then
      .stored (traceEv (dropOperand c) 7 o.prio o.cls 0 o.flow iter opid 0)
    else
      let i := openInst c.x.rnt o iter
      if i.filled.contains slot then
        .stored (traceEv (rErr (dropOperand c) 0x2 o.flow 0x0705 opid) 7 o.prio o.cls 0 o.flow iter opid 0)
      else
        let fresh := (findInst c.x.rnt ctx opid iter).isNone
        if fresh && !(instRoom c.x.rnt o) then .waits
        else
          let i' := { i with filled := insertNat slot i.filled }
          let c' := rOn c (fun r => if fresh then openedInst { r with insts := r.insts ++ [i'] } ctx opid iter else setInst r i')
          .stored (rRegs c' (fun g => bump g 2 1))

/-- Store a token from an engine of this wheel, or put it in the token queue (R434). -/
def localToken (c : RCtx) (t : Token) : RCtx :=
  match storeOperand c 0 t.ctx t.opid t.slot t.iter with
  | .stored c' => c'
  | .waits => rOn c (fun r => { r with tokq := r.tokq ++ [t] })

/-- Retry the token queue in order; a token that still cannot be stored stays (R434). -/
def drainTokens (c : RCtx) : List Token → RCtx
  | [] => c
  | t :: r =>
    match storeOperand c 0 t.ctx t.opid t.slot t.iter with
    | .stored c' => drainTokens c' r
    | .waits => rOn (drainTokens c r) (fun q => { q with tokq := t :: q.tokq })

/-- Open the instances that a resumed pass's filled slots open (R420, R465), those that find room. -/
def openGiven (c : RCtx) : RCtx :=
  c.x.rnt.passes.foldl (fun c p => p.toOpen.foldl (fun c opid =>
    match findOp c.x.rnt p.ctx opid with
    | none => c
    | some o =>
      let f := flowOf c.x.rnt o.flow
      if f.st = .cancelled ∨ f.st = .failed then rOn c (fun r => openedInst r p.ctx opid p.iter)
      else if instRoom c.x.rnt o then
        rOn c (fun r => openedInst { r with insts := r.insts ++ [openInst r o p.iter] } p.ctx opid p.iter)
      else c) c) c

def resumeTokens (c : RCtx) : RCtx :=
  let q := c.x.rnt.tokq
  drainTokens (openGiven (rOn c (fun r => { r with tokq := [] }))) q

/-! ## Readiness (R422, R423) -/

def nowReady (x : Wheel) (i : Inst) : Bool :=
  match findOp x.rnt i.ctx i.opid with
  | none => false
  | some o =>
    let pass := findPass x.rnt i.ctx i.iter
    i.st = .waiting && i.ready.isNone && (storeSlots o).all (fun s => i.filled.contains s)
      && (hoopSlots o).all (fun h => !((hoopOf x h).q.isEmpty))
      && (match pass with
          | some p => decide (o.layer ≤ p.released)
          | none => false)
      && (flowOf x.rnt o.flow).st = .openF

/-- A yielded instance is eligible again once its hoop conditions hold (R428). -/
def yieldedReady (x : Wheel) (i : Inst) : Bool :=
  match i.st, findOp x.rnt i.ctx i.opid with
  | .saved v true, some _ =>
    let t := vatOf x v
    t.saved.any (fun s => s.2.op.ctx == i.ctx && s.2.op.opid == i.opid && s.2.op.iter == i.iter
      && (match s.2.wait with
          | some w => match (inPortHoop s.2.prog w.port) with
            | some h => !((hoopOf x h).q.isEmpty)
            | none => true
          | none => true))
  | _, _ => false
where
  inPortHoop (r : VatProg) (q : Nat) : Option Nat := (tget {} r.inP q : VPort).hoop

/-- Mark the instances that become ready in this clock (R422). -/
def markReady (c : RCtx) : RCtx :=
  c.x.rnt.insts.foldl (fun c i =>
    if nowReady c.x i then
      let c' := rOn c (fun r => setInst r { i with ready := some (rNow c) })
      match findOp c.x.rnt i.ctx i.opid with
      | some o => traceEv c' 0 o.prio o.cls 0 o.flow i.iter i.opid 0
      | none => c'
    else c) c

/-! ## Ranking (R424) -/

/-- a precedes b in rank: PRIO, ready time, OPID, ITER under R8. -/
def ranksBefore (a b : OpRec × Inst) : Bool :=
  if a.1.prio ≠ b.1.prio then decide (b.1.prio < a.1.prio)
  else if a.2.ready.getD 0 ≠ b.2.ready.getD 0 then decide (a.2.ready.getD 0 < b.2.ready.getD 0)
  else if a.1.opid ≠ b.1.opid then decide (a.1.opid < b.1.opid)
  else
    let d := (b.2.iter + 65536 - a.2.iter) % 65536
    decide (1 ≤ d) && decide (d ≤ 32767)

/-- The ready instances that wait for a dispatch or a restore, in rank order. -/
def ranked (x : Wheel) : List (OpRec × Inst) :=
  sortBy ranksBefore ((x.rnt.insts.filter (fun i => i.ready.isSome && (match i.st with
    | .waiting => true
    | .saved _ _ => true
    | _ => false))).filterMap (fun i => (findOp x.rnt i.ctx i.opid).map (fun o => (o, i))))

/-- An instance of the flow is in service, saved ones included (R424). -/
def flowBusy (r : Rennet) (f : Nat) : Bool :=
  r.insts.any (fun i => match i.st, findOp r i.ctx i.opid with
    | .waiting, _ => false
    | _, some o => o.flow % 2048 == f % 2048
    | _, none => false)

/-! ## Free engines (R425) -/

def vatFree (x : Wheel) (v : Nat) : Bool := (vatOf x v).op.isNone && (vatOf x v).st == .idle
def engFree (e : Eng) : Bool := e.op.isNone && e.st == .idle

/-- An engine waits for a replay, or runs one: it takes no other instance (R590). -/
def reserved (x : Wheel) (cls idx : Nat) : Bool :=
  x.rnt.insts.any (fun i => i.replay && (match i.st with
    | .service u _ => u.cls == cls && u.idx == idx
    | _ => false))

/-- The engine itself is idle. -/
def rawFree (x : Wheel) (cls idx : Nat) : Bool :=
  match cls with
  | 0 => true
  | 1 => vatFree x idx
  | 2 => engFree (pressOf x idx)
  | 3 => engFree (ladleOf x idx)
  | 4 => engFree (graderOf x idx)
  | _ => x.whey.st == 0

def unitFree (x : Wheel) (cls idx : Nat) : Bool := rawFree x cls idx && !(reserved x cls idx)

def classUnits (cls : Nat) : Nat :=
  match cls with
  | 1 => 32
  | 2 => 12
  | 3 => 8
  | 4 => 4
  | _ => 1

/-- The descriptors of a vat operation name the slice buffer at a range of its bank (R114). -/
def sliceOverlap (x : Wheel) (recAddr dst len : Nat) : Bool :=
  (upto 8).any (fun k =>
    let e := leNat (caveRead x (recAddr + 64 + 0x20 + 4 * k) 4)
    if bitAt e 31 then
      let base := leNat (caveRead x (bits e 26 0 + 8) 7)
      decide (dst ≤ base) && decide (base < dst + len)
    else false)

/-- Two dispatches of one instance: a saved operation and the same one restored. -/
def sameRun (a b : Option OpRef) : Bool :=
  match a, b with
  | some p, some q => p.ctx == q.ctx && p.opid == q.opid && p.iter == q.iter
  | _, _ => false

/-- The operation of a record has finished with the slices of a vat that it read or sent (R114, R167). -/
def sliceUsed (x : Wheel) (op : Option OpRef) (recAddr : Nat) (q : Slice) : Slice :=
  if sameRun q.sent op || sliceOverlap x recAddr q.dst q.len then { q with sent := none, used := true } else q

/-- An operation that is cancelled before it runs has finished with the slices it would have read. -/
def slicesDropped (x : Wheel) (o : OpRec) : Wheel :=
  if o.cls = 1 then
    { x with vats := x.vats.map (fun p =>
        if o.any || p.1 == o.target then (p.1, { p.2 with slices := p.2.slices.map (sliceUsed x none o.addr) }) else p) }
  else x

/-- A ring transfer under way fills a slice buffer that the operation reads: the slice has not fully arrived (R114). A
transfer that waits for the buffer's credit leaves the slice that lies there to be read first. -/
def sliceWaits (x : Wheel) (recAddr v : Nat) : Bool :=
  match (vatOf x ((v + 31) % 32)).ring with
  | some r => sliceOverlap x recAddr r.dst r.len && !((vatOf x v).slices.any (fun q => q.dst == r.dst && !q.used))
  | none => false

/-- Send an instance's tokens: to this wheel's store, or over the mesh (R421). `succ` entries hold the physical wheel. -/
def sendTokens (c : RCtx) (o : OpRec) (iter : Nat) : RCtx :=
  o.succ.foldl (fun c e =>
    let wh := bits e 31 29
    let slot := bits e 28 25
    let opid := bits e 23 0
    if wh = c.w then localToken c ⟨o.ctx, opid, slot, iter⟩
    else { c with mesh := c.mesh ++ [.token wh c.w o.ctx opid slot iter] }) c

/-- The tokens of an instance for this wheel can leave: each is stored, once the instance's own slots are free, or finds room
in the token queue of 256 entries (R434). -/
def tokensFit (x : Wheel) (w : Nat) (o : OpRec) (iter : Nat) : Bool :=
  let y := { x with rnt := delInst x.rnt o.ctx o.opid iter }
  decide ((sendTokens { x := y, w := w } o iter).x.rnt.tokq.length ≤ 256)

/-- The unit a ready instance would be dispatched to now, none when it is passed over (R424, R425, R428). -/
def pickUnit (x : Wheel) (w : Nat) (whyUsed : Bool) (o : OpRec) (i : Inst) : Option UnitId :=
  match i.st with
  | .saved v yielded =>
    if unitFree x 1 v && (!yielded || yieldedReady x i) then some ⟨1, v⟩ else none
  | .waiting =>
    if (flowOf x.rnt o.flow).st != .openF then none
    else if (flowOf x.rnt o.flow).atomic && flowBusy x.rnt o.flow then none
    else if o.cls = 5 ∨ o.cls = 6 then
      if whyUsed || !(unitFree x o.cls o.target) then none else some ⟨o.cls, o.target⟩
    else if o.cls = 0 then (if tokensFit x w o i.iter then some ⟨0, 0⟩ else none)
    else if o.any then
      ((upto (classUnits o.cls)).find? (fun k => unitFree x o.cls k && !(o.cls == 1 && sliceWaits x o.addr k))).map
        (fun k => ⟨o.cls, k⟩)
    else if unitFree x o.cls o.target && !(o.cls == 1 && sliceWaits x o.addr o.target) then some ⟨o.cls, o.target⟩
    else none
  | _ => none

/-! ## Cancellation of instances that are not dispatched (R433) -/

/-- Complete an instance without running it: 0x0701 or 0x0702. It sends no tokens and counts for its layer. -/
def layerCount (c : RCtx) (ctx iter layer : Nat) : RCtx :=
  match findPass c.x.rnt ctx iter with
  | some p => rOn c (fun r => setPass r { p with counts := tmod 0 p.counts layer (· + 1) })
  | none => c

def opRefOf (o : OpRec) (i : Inst) (disp : Nat) : OpRef :=
  { ctx := i.ctx, opid := i.opid, iter := i.iter, flow := o.flow, prio := o.prio, layer := o.layer, disp := disp }

def dropInst (c : RCtx) (o : OpRec) (i : Inst) (code : Nat) : RCtx :=
  let c1 := rOn { c with x := slicesDropped c.x o } (fun r => delInst r i.ctx i.opid i.iter)
  let c2 := layerCount (flowCount (rRegs c1 (fun g => bump g 1 1)) o.flow 2) i.ctx i.iter o.layer
  traceEv c2 3 o.prio o.cls 0 o.flow i.iter i.opid code

/-- Complete every instance of a flow that is not dispatched. A saved one frees its vat's slot (R125). -/
def dropWaiting (c : RCtx) (flow code : Nat) : RCtx :=
  c.x.rnt.insts.foldl (fun c i =>
    match findOp c.x.rnt i.ctx i.opid with
    | some o =>
      if o.flow % 2048 ≠ flow % 2048 then c
      else match i.st with
        | .waiting => dropInst c o i code
        | _ => c
    | none => c) c

/-- A saved operation of the vat holds a hoop on its input (or output) side. -/
def savedHolds (t : Vat) (input : Bool) (h : Nat) : Bool :=
  t.saved.any (fun s => (if input then s.2.prog.inP else s.2.prog.outP).any (fun p => p.2.hoop == some h))

/-- End the hoop bindings of a vat's operation (R381); those of its saved operations stay. -/
def unbindVat (x : Wheel) (v : Nat) : Wheel :=
  let t := vatOf x v
  { x with hoops := x.hoops.map (fun (k, y) =>
      (k, { y with prod := if y.prod = some ⟨1, v⟩ && !(savedHolds t false k) then none else y.prod,
                   cons := if y.cons = some ⟨1, v⟩ && !(savedHolds t true k) then none else y.cons })) }

/-- Return an operation's handles and buffers (R153): the handles taken are released, the buffers obtained and not put
go back to their pools in the order they were obtained. -/
def returnPorts (x : Wheel) (v : Nat) (prog : VatProg) : Wheel :=
  let x1 := prog.inP.foldl (fun x p => match p.2.hoop with
    | some h => p.2.taken.foldl (fun x hd => hoopRelease x h (bufIndex (hoopOf x h) hd.addr)) x
    | none => x) x
  let x2 := prog.outP.foldl (fun x p => match p.2.hoop with
    | some h => p.2.got.foldl (fun x i => hoopReturn x h i) x
    | none => x) x1
  unbindVat x2 v

/-- Free the slot of a saved instance that is cancelled (R125): its handles, buffers and slices are given back, and the
vat records 0x0701 as a code other than 0x0000 (R132; DESIGN CHOICE, log 68: R133 says a code of block 0x01). -/
def dropSlot (x : Wheel) (v : Nat) (i : Inst) (flow : Nat) : Wheel :=
  let mine := fun (s : Nat × SavedOp) => s.2.op.ctx == i.ctx && s.2.op.opid == i.opid && s.2.op.iter == i.iter
  match (vatOf x v).saved.find? mine with
  | none => x
  | some (_, sv) =>
    let x1 := onVat x v (fun t =>
      { t with saved := t.saved.filter (fun s => !(mine s)), slices := t.slices.map (sliceUsed x (some sv.op) sv.record)
               regs := errSet t.regs 1 (errInfo flow 0x0701) 0 })
    returnPorts x1 v sv.prog

/-- Complete the saved instances of a flow with 0x0701, freeing their slots without a restore (R125). -/
def dropSaved (c : RCtx) (flow : Nat) : RCtx :=
  c.x.rnt.insts.foldl (fun c i =>
    match i.st, findOp c.x.rnt i.ctx i.opid with
    | .saved v _, some o =>
      if o.flow % 2048 ≠ flow % 2048 then c
      else dropInst { c with x := dropSlot c.x v i o.flow } o i 0x0701
    | _, _ => c) c

/-- A flow enters FAILED (R433): every other instance not yet dispatched completes with 0x0702. A flow that is not OPEN
stays as it is. -/
def failFlow (c : RCtx) (r : FailRec) : RCtx :=
  let f := flowOf c.x.rnt r.flow
  if f.st ≠ .openF then c
  else
    let c1 := rOn c (fun y => setFlow y r.flow { f with st := .failed, failCode := r.code, failOpid := r.opid })
    dropWaiting { (rErr c1 0x1 r.flow r.code r.opid) with fails := c1.fails ++ [r] } r.flow 0x0702

/-! ## Completion (R433, R436, R439) -/

/-- An instance in service completes with a code; `aux` and `d1` go into the record of a flow that fails (R433, R436,
R534). -/
def completeInst (c : RCtx) (op : OpRef) (code aux d1 : Nat) : RCtx :=
  match findInst c.x.rnt op.ctx op.opid op.iter, findOp c.x.rnt op.ctx op.opid with
  | some i, some o =>
    let st := (flowOf c.x.rnt o.flow).st
    let u : UnitId := match i.st with
      | .service u _ => u
      | _ => ⟨o.cls, 0⟩
    let c1 := rOn c (fun r => delInst r op.ctx op.opid op.iter)
    let c2 := rRegs c1 (fun g => bump g 1 1)
    let c3 := flowCount c2 o.flow (if code = 0 then 1 else if code = 0x0701 ∨ code = 0x0702 then 2 else 3)
    let c4 := layerCount c3 op.ctx op.iter o.layer
    let c5 := traceEv c4 2 o.prio u.cls u.idx o.flow op.iter op.opid code
    let c6 := rOn c5 (fun r => { r with intr := r.intr.filter (fun e => e.1 ≠ u || u.cls = 0 || u.cls > 4) })
    if code = 0 then (if st = .openF ∨ st = .failed then sendTokens c6 o op.iter else c6)
    else if code ≠ 0x0701 then failFlow c6 ⟨op.ctx, o.flow, op.iter, op.opid, code, u, aux, d1⟩
    else c6
  | _, _ => c

/-! ## Dispatch (R424–R428) -/

/-- The operation record bytes in the Cave, or none where they hold an uncorrectable error (R692). -/
def recordOk (x : Wheel) (o : OpRec) : Bool := !(caveUncorr x o.addr (64 + 32 * o.body))

/-- Port bindings of an engine body: entries whose V is 1 (R418). -/
def portList (x : Wheel) (a n : Nat) : List (Nat × Nat) :=
  (upto n).filterMap (fun k =>
    let e := leNat (caveRead x (a + 2 * k) 2)
    if bitAt e 15 then some (k, bits e 9 0) else none)

/-- Put an operation on an engine: a press, ladle or grader (R418). -/
def startEng (x : Wheel) (e : Eng) (o : OpRec) (op : OpRef) : Eng :=
  let b := o.addr + 64
  let split := decide (o.cls = 2)
  { e with
    st := .check, op := some op
    sub := if o.cls = 2 then leNat (caveRead x (b + 4) 1) % 2 else 0
    descAddr := bits (leNat (caveRead x b 4)) 26 0
    inP := portList x (b + 0x20) 16
    outP := if split then portList x (b + 0x40) 16 else portList x (b + 0x20) 16
    desc := [], acc := [], held := [], outs := [], fin := none, pend := none, work := none, lw := {}, prog := [], col := 0, irrev := false,
    cancel := none, dicts := [], tbl := [], torn := none }

/-- Dispatch one instance to a unit. -/
def dispatchTo (c : RCtx) (u : UnitId) (o : OpRec) (i : Inst) : RCtx :=
  let d := c.x.rnt.nextDisp
  let op := opRefOf o i d
  let restore := match i.st with
    | .saved _ _ => true
    | _ => false
  let c1 := rOn c (fun r => setInst { r with nextDisp := d + 1 } { i with st := .service u d })
  let c2 := rRegs c1 (fun g => bump g 0 1)
  let c3 := traceEv c2 1 o.prio o.cls u.idx o.flow i.iter i.opid 0
  if restore then
    -- R424: an instance counts once in DISPATCHED; a restore counts in RNT_DISPATCHES alone
    let slot := ((vatOf c.x u.idx).saved.find? (fun s =>
      s.2.op.ctx == i.ctx && s.2.op.opid == i.opid && s.2.op.iter == i.iter)).map (·.1)
    { c3 with x := onVat c3.x u.idx (fun t => { t with op := some op, st := .restore, restoring := slot }) }
  else
    let c4 := flowCount c3 o.flow 0
    if !(recordOk c.x o) then
      completeInst (rErr c4 0x10 o.flow 0x0709 o.opid) op 0x0709 0 0
    else match o.cls with
      | 0 => completeInst c4 op 0 0 0
      | 1 => { c4 with x := onVat c4.x u.idx (fun t =>
          { t with op := some op, record := o.addr, started := false, irrev := false, fin := none, closed := false, issue := none,
                   wait := none }) }
      | 2 => { c4 with x := setPress c4.x u.idx (startEng c4.x (pressOf c4.x u.idx) o op) }
      | 3 => { c4 with x := setLadle c4.x u.idx (startEng c4.x (ladleOf c4.x u.idx) o op) }
      | 4 => { c4 with x := setGrader c4.x u.idx (startEng c4.x (graderOf c4.x u.idx) o op) }
      | 5 =>
        let sd := bits (leNat (caveRead c4.x (o.addr + 64) 4)) 26 0
        { c4 with x := { c4.x with whey := { c4.x.whey with arms := c4.x.whey.arms ++ [(.inst op, o.target, sd, o.flow)] } } }
      | _ =>
        let rec' := caveRead c4.x (o.addr + 64) 32
        { c4 with x := { c4.x with whey := { c4.x.whey with drips := c4.x.whey.drips ++ [⟨.inst op, op.ctx, op.flow, rec'⟩] } } }

/-- Take instances in rank order, at most `n` dispatches (R424). -/
def dispatchLoop (c : RCtx) (whyUsed : Bool) : Nat → List (OpRec × Inst) → RCtx
  | _, [] => c
  | 0, _ => c
  | n + 1, (o, i) :: r =>
    -- an earlier completion of this clock may have cancelled or failed it (R436)
    match findInst c.x.rnt i.ctx i.opid i.iter with
    | none => dispatchLoop c whyUsed (n + 1) r
    | some i' =>
      match pickUnit c.x c.w whyUsed o i' with
      | none => dispatchLoop c whyUsed (n + 1) r
      | some u => dispatchLoop (dispatchTo c u o i') (whyUsed || u.cls = 5 || u.cls = 6) n r

/-! ## Work interrupts (R427) -/

/-- The operation an engine of classes 1 to 4 runs. -/
def unitOp (x : Wheel) (u : UnitId) : Option OpRef :=
  match u.cls with
  | 1 => (vatOf x u.idx).op
  | 2 => (pressOf x u.idx).op
  | 3 => (ladleOf x u.idx).op
  | 4 => (graderOf x u.idx).op
  | _ => none

/-- The engine a work interrupt for an instance goes to: its TARGET, or the one running the lowest PRIO, then the most
recently dispatched, then the lowest-numbered; none where every one runs an equal or higher PRIO. A saved instance can go
to its own vat only (R428; DEDUCED, log 81). -/
def intrTarget (x : Wheel) (o : OpRec) (i : Inst) : Option UnitId :=
  let units := match i.st with
    | .saved v _ => [v]
    | _ => if o.any then upto (classUnits o.cls) else [o.target]
  let cand := units.filterMap (fun k =>
    match unitOp x ⟨o.cls, k⟩ with
    | some op => if op.prio < o.prio then some (k, op) else none
    | none => none)
  let better := fun (a b : Nat × OpRef) =>
    if a.2.prio ≠ b.2.prio then decide (a.2.prio < b.2.prio)
    else if a.2.disp ≠ b.2.disp then decide (b.2.disp < a.2.disp)
    else decide (a.1 < b.1)
  match sortBy better cand with
  | [] => none
  | p :: _ => some ⟨o.cls, p.1⟩

/-- No engine of the class is free. -/
def noneFree (x : Wheel) (cls : Nat) : Bool := (upto (classUnits cls)).all (fun k => !(unitFree x cls k))

/-- A ranked instance wants its class: every one does, those held for an atomic flow and the saved ones included (R424), but
a yielded one whose HOOP condition does not hold again (R428). -/
def wantsClass (x : Wheel) (i : Inst) : Bool :=
  match i.st with
  | .saved _ true => yieldedReady x i
  | _ => true

/-- Raise the work interrupts of a clock: for each class, the instance ranked first among those that want it. At most
one is outstanding per engine. -/
def raiseIntrs (c : RCtx) : RCtx :=
  [1, 2, 3, 4].foldl (fun c cls =>
    match (ranked c.x).find? (fun p => p.1.cls == cls && wantsClass c.x p.2) with
    | none => c
    | some (o, i) =>
      if !(noneFree c.x cls) then c
      else match intrTarget c.x o i with
        | none => c
        | some u =>
          if c.x.rnt.intr.any (fun e => e.1 = u) then c
          else
            let c1 := rOn c (fun r => { r with intr := r.intr ++ [(u, i.ctx, i.opid, i.iter)] })
            traceEv (rRegs c1 (fun g => bump g 4 1)) 4 o.prio o.cls u.idx o.flow i.iter i.opid 0) c

/-- The instances whose slots in the matching store hold an uncorrectable error, which no command reports, fail with 0x0709,
and so do their flows (R440). -/
def storeFail (c : RCtx) : RCtx :=
  (c.x.rnt.storeBad).foldl (fun c k =>
    match findInst c.x.rnt k.1 k.2.1 k.2.2, findOp c.x.rnt k.1 k.2.1 with
    | some i, some o => if i.st = .waiting then completeInst (rErr c 0x10 o.flow 0x0709 o.opid) (opRefOf o i 0) 0x0709 0 0 else c
    | _, _ => c) (rOn c (fun r => { r with storeBad := [] }))

/-- One Rennet clock (R424): time advances, ready times are taken, up to four dispatches are made, and work interrupts
are raised. -/
def rennetClock (c : RCtx) : RCtx :=
  if c.x.rnt.st ≠ 0 then c
  else
    let c1 := rRegs c (fun g => bump g 7 1)
    let c3 := markReady (storeFail c1)
    raiseIntrs (dispatchLoop c3 false 4 (ranked c3.x))

end Sys2Proof.Machine
end

