-- ==== Sys2Proof/Machine/VatControl.lean ====
section
/-!
DEFINITION. Sys2Proof/Machine/VatControl.lean: what each control-slot instruction does (the control slot's table, R153,
R169).
-/

namespace Sys2Proof.Machine

def effNop : VEff := fun c => .ok c

/-- END marks the bundle as the program's last (R153). -/
def effEnd : VEff := fun c =>
  .ok (vOn c (fun t => { t with issue := t.issue.map (fun i => { i with ending := true }) }))

/-- TRAP raises 0x0149 with the value of S[FA]; it is a condition of the bundle that executes, so the other slots take
effect first (R153). The slot records it and the bundle's end raises it. -/
def effTrap (fa : Nat) : VEff := fun c =>
  .ok (vOn c (fun t => { t with issue := t.issue.map (fun i => { i with trap := some (vS c fa).toNat }) }))

def effJmp (tgt : Nat) : VEff := fun c => .ok { c with next := tgt }
def effBnz (fa tgt : Nat) : VEff := fun c => .ok (if vS c fa = 0 then c else { c with next := tgt })
def effBz (fa tgt : Nat) : VEff := fun c => .ok (if vS c fa = 0 then { c with next := tgt } else c)

/-- LOOP: S[D] − 1, branching while the result is not zero; 0 leaves 0xFFFF_FFFF and branches (R153). -/
def effLoop (d tgt : Nat) : VEff := fun c =>
  let x := vS c d - 1
  let c' := vProg c (fun r => sSet r d x)
  .ok (if x = 0 then c' else { c' with next := tgt })

def effLi (d : Nat) (imm : Word) : VEff := fun c => putS c d imm

/-- A two-source scalar instruction: S[D] = f S[FA] S[FB]. -/
def effS3 (f : Word → Word → Word) (d fa fb : Nat) : VEff := fun c => putS c d (f (vS c fa) (vS c fb))

def boolWord (b : Bool) : Word := if b then 1 else 0

def sAdd (a b : Word) : Word := a + b
def sSub (a b : Word) : Word := a - b
def sMul (a b : Word) : Word := a * b
def sAnd (a b : Word) : Word := a &&& b
def sOr (a b : Word) : Word := a ||| b
def sXor (a b : Word) : Word := a ^^^ b
def sShl (a b : Word) : Word := a <<< (b.toNat % 32)
def sShr (a b : Word) : Word := a >>> (b.toNat % 32)
def sSra (a b : Word) : Word := a.sshiftRight (b.toNat % 32)
def sMin (a b : Word) : Word := if a.slt b then a else b
def sMax (a b : Word) : Word := if a.slt b then b else a
def sSlt (a b : Word) : Word := boolWord (a.slt b)
def sSltu (a b : Word) : Word := boolWord (a.ult b)
def sSeq (a b : Word) : Word := boolWord (a == b)

def effAdd (d fa fb : Nat) : VEff := effS3 sAdd d fa fb
def effAddi (d fa : Nat) (imm : Word) : VEff := fun c => putS c d (vS c fa + imm)
def effSub (d fa fb : Nat) : VEff := effS3 sSub d fa fb
def effMul (d fa fb : Nat) : VEff := effS3 sMul d fa fb
def effAnd (d fa fb : Nat) : VEff := effS3 sAnd d fa fb
def effOr (d fa fb : Nat) : VEff := effS3 sOr d fa fb
def effXor (d fa fb : Nat) : VEff := effS3 sXor d fa fb
def effShl (d fa fb : Nat) : VEff := effS3 sShl d fa fb
def effShr (d fa fb : Nat) : VEff := effS3 sShr d fa fb
def effSra (d fa fb : Nat) : VEff := effS3 sSra d fa fb
def effMin (d fa fb : Nat) : VEff := effS3 sMin d fa fb
def effMax (d fa fb : Nat) : VEff := effS3 sMax d fa fb
def effSlt (d fa fb : Nat) : VEff := effS3 sSlt d fa fb
def effSltu (d fa fb : Nat) : VEff := effS3 sSltu d fa fb
def effSeq (d fa fb : Nat) : VEff := effS3 sSeq d fa fb

/-- A two-source predicate instruction, lane by lane. -/
def effP3 (f : DWord → DWord → DWord) (d fa fb : Nat) : VEff := fun c => putP c d (f (pGet c.snap fa) (pGet c.snap fb))

def pAnd (a b : DWord) : DWord := a &&& b
def pOr (a b : DWord) : DWord := a ||| b
def pXor (a b : DWord) : DWord := a ^^^ b

def effPand (d fa fb : Nat) : VEff := effP3 pAnd d fa fb
def effPor (d fa fb : Nat) : VEff := effP3 pOr d fa fb
def effPxor (d fa fb : Nat) : VEff := effP3 pXor d fa fb
def effPnot (d fa : Nat) : VEff := fun c => putP c d (~~~ (pGet c.snap fa))

/-- Lanes below a number, all 64 where it is 64 or more. -/
def lanesBelow (n : Nat) : DWord := BitVec.ofNat 64 (2 ^ (min n 64) - 1)

def effPfirst (d fa : Nat) : VEff := fun c => putP c d (lanesBelow (vS c fa).toNat)
def effPset (d fa fb : Nat) : VEff := fun c =>
  putP c d (BitVec.ofNat 64 ((vS c fa).toNat + (vS c fb).toNat * 2 ^ 32))

/-- The number of true lanes. -/
def laneCount (p : DWord) : Nat := (upto 64).foldl (fun n i => if p.getLsbD i then n + 1 else n) 0

def effPcount (d fa : Nat) : VEff := fun c => putS c d (BitVec.ofNat 32 (laneCount (pGet c.snap fa)))

end Sys2Proof.Machine
end

