-- ==== Sys2Proof/Machine/VatMatrix.lean ====
section
/-!
DEFINITION. Sys2Proof/Machine/VatMatrix.lean: what each matrix-slot instruction does (R154–R160).
-/

namespace Sys2Proof.Machine

def putTile (c : VCtx) (n : Nat) (t : Tile) : VCtx := vProg c (fun r => tileSet r n t)

/-- Correct the single-bit errors in the bank words that a set of runs occupies (R112). -/
def correctRuns (c : VCtx) (d : Desc) (k0 n : Nat) (rows : List Nat) : VCtx :=
  if c.x.caveBad.all (fun b => b.2 != 1) then c
  else rows.foldl (fun acc row =>
    let acc := correctIndex acc d [row]
    match elemAt d (descIx c d) [0, row] with
    | .offset _ cs =>
      (upto n).foldl (fun acc k =>
        let cs' := putAt cs 0 ((k0 + k : Nat) : Int)
        let sp := elemSpan d (layoutOffset d cs')
        let acc := bankCorrect acc sp.1 sp.2
        let acc := if tyMX d.ty then bankCorrect acc (scaleAddr d cs') 1 else acc
        if tyCB d.ty then bankCorrect acc (cbAddr d cs') 16 else acc) acc
    | _ => acc) c

/-- MCFG: set the configuration word and clear the tile (R154); a word of zero leaves it unconfigured (R146). -/
def effMcfg (n : Nat) (imm : Word) : VEff := fun c =>
  if cfgCheck imm ≠ 0 then .cond 0x0111 0 else .ok (putTile c n { cfg := imm })

/-- MCLR: clear the tile according to its kind (R154). -/
def effMclr (n : Nat) : VEff := fun c =>
  let t := tileGet c.snap n
  match tileKind t with
  | none => .cond 0x0143 0
  | some _ => .ok (putTile c n (tileClear t))

/-- The operand rows a tile names: every row and column within SIZE[1], and equal SIZE[0] (R155, R156). -/
def operandsOk (da db : Desc) (t : Tile) (i0 j0 : Nat) : Bool :=
  dSize da 0 == dSize db 0 && decide (i0 + tileRows t ≤ dSize da 1) && decide (j0 + tileCols t ≤ dSize db 1)

/-- The anchors of a pre-pass, in row-major output order (R155). -/
def prePass (c : VCtx) (t : Tile) (da db : Desc) (i0 j0 : Nat) : Except (Nat × Nat) (List Int) :=
  match bothOk (collect (fun r => readScales c da (i0 + r)) (upto (tileRows t)))
      (collect (fun q => readScales c db (j0 + q)) (upto (tileCols t))) with
  | .error e => .error e
  | .ok (ra, cb) => .ok (ra.flatMap (fun a => cb.map (fun b => anchorK a b + tileTT t - 71)))

/-- The tile a pre-pass leaves: every W and flag zero, every anchor present (R155). -/
def anchoredTile (t : Tile) (ls : List Int) (m : MancOps) : Tile :=
  { tileClear t with outs := outsOf (ls.map (fun l => { anchor := some l })), anchored := true, manc := some m }

/-- Correct the single-bit errors in the index words and scale bytes that a pre-pass read (R112). -/
def correctScales (c : VCtx) (d : Desc) (rows : List Nat) : VCtx :=
  if c.x.caveBad.all (fun b => b.2 != 1) then c
  else rows.foldl (fun acc row =>
    let acc := correctIndex acc d [row]
    match elemAt d (descIx c d) [0, row] with
    | .offset _ cs => if tyMX d.ty then bankCorrect acc (scaleAddr d cs) (cdiv (dSize d 0) 32) else acc
    | _ => acc) c

/-- MANC: the anchor pre-pass over the whole reduction (R155, R47). DESIGN CHOICE (log 66): where several of its
conditions hold, 0x0143 comes first, then those of the descriptors, 0x0142 and 0x014A, as R155 names them. -/
def effManc (n ta tb si sj : Nat) : VEff := fun c =>
  let t := tileGet c.snap n
  match tileKind t with
  | none => .cond 0x0143 0
  | some .bf16 => .cond 0x0143 0
  | some k =>
    vBind (matDesc c ta) fun da =>
    vBind (matDesc c tb) fun db =>
    let i0 := (vS c si).toNat
    let j0 := (vS c sj).toNat
    if da.ty ≠ tileTA t ∨ db.ty ≠ tileTB t then .cond 0x0142 0
    else if !(operandsOk da db t i0 j0) then .cond 0x014A 0
    else if k = .integer then
      .ok (putTile c n { tileClear t with anchored := true, manc := some ⟨ta, tb, i0, j0⟩ })
    else
      vBind (prePass c t da db i0 j0) fun ls =>
      let c' := putTile c n (anchoredTile t ls ⟨ta, tb, i0, j0⟩)
      .ok (correctScales (correctScales c' da ((upto (tileRows t)).map (· + i0))) db ((upto (tileCols t)).map (· + j0)))

/-- One output of an MMA on an integer or exact tile: its new entry. -/
def exactOutput (t : Tile) (i : Nat) (a b : Option (List Opnd)) : Except (Nat × Nat) TileOut :=
  let o := tileOut t i
  match a, b with
  | some xs, some ys =>
    let L := (tileAnchor t i).getD 0
    let K := L + 71 - tileTT t
    let K' := if tileKind t = some .integer then 0 else K
    match exactFold L K' (outWin o) (xs.zip ys) with
    | .error e => .error e
    | .ok W => .ok (winOutEntry W o.anchor)
  | _, _ => .ok o

/-- One output of an MMA on a BF16 tile: its chunks of 32 indices in ascending order (R59, R156). -/
def bfOutput (t : Tile) (i n : Nat) (a b : Option (List Opnd)) : TileOut :=
  let o := tileOut t i
  let zero := List.replicate n (Opnd.null (some 0))
  let ps := ((a.getD zero).zip (b.getD zero)).map (fun p => bfProduct p.1 p.2)
  let w := (chunksOf 32 (n + 1) ps).foldl (fun w ch => bfAddChunk w (chunkSum ch)) o.w
  { o with w := w }

/-- Every output of a tile computed from its row and column, in row-major order. -/
def tileMap (t : Tile) (as bs : List (Option (List Opnd)))
    (f : Nat → Option (List Opnd) → Option (List Opnd) → Except (Nat × Nat) TileOut) : Except (Nat × Nat) (List TileOut) :=
  collect (fun (p : Nat × Option (List Opnd) × Option (List Opnd)) => f p.1 p.2.1 p.2.2)
    ((as.zipIdx.flatMap (fun a => bs.zipIdx.map (fun b => (a.2 * tileCols t + b.2, a.1, b.1)))))

/-- The tile after an MMA over indices k0 … k0 + n − 1 (R156). -/
def mmaTile (t : Tile) (k : TileKind) (k0 n : Nat) (as bs : List (Option (List Opnd))) : Except (Nat × Nat) Tile :=
  match tileMap t as bs (fun i a b => if k = .bf16 then .ok (bfOutput t i n a b) else exactOutput t i a b) with
  | .error e => .error e
  | .ok os =>
    .ok { t with
      outs := outsOf os
      count := t.count + n
      nextk := if k = .bf16 then k0 + n else t.nextk
      short := t.short || (k = .bf16 && (k0 + n) % 32 != 0) }

/-- Every anchor of an exact tile is present (R156 step 3). -/
def anchorsPresent (t : Tile) : Bool := (upto 4096).all (fun i => (tileAnchor t i).isSome)

/-- MMA: apply the reduction indices k0 to k0 + cnt − 1 to every output (R156); a count of zero applies none. DESIGN CHOICE
(log 66): an unconfigured tile's 0x0143 and the descriptors' conditions come before the checks that R156 lists. DESIGN
CHOICE (log 67): VAT_MAC_OPS counts these multiply-accumulates and no others; VFMA's are not counted. -/
def mmaRange (n ta tb si sj k0 cnt : Nat) : VEff := fun c =>
  let t := tileGet c.snap n
  match tileKind t with
  | none => .cond 0x0143 0
  | some k =>
    vBind (matDesc c ta) fun da =>
    vBind (matDesc c tb) fun db =>
    let i0 := (vS c si).toNat
    let j0 := (vS c sj).toNat
    if da.ty ≠ tileTA t ∨ db.ty ≠ tileTB t then .cond 0x0142 0
    else if !(operandsOk da db t i0 j0) || decide (dSize da 0 < k0 + cnt) then .cond 0x014A 0
    else if k = .exact && !(anchorsPresent t) then .cond 0x0143 0
    else if k = .bf16 && (k0 != t.nextk || t.short) then .cond 0x0144 0
    else if 16777216 < t.count + cnt then .cond 0x0110 0
    else if cnt = 0 then .ok c
    else if tileParity t then .cond 0x0102 0
    else
      vBind (bothOk (collect (fun r => readRun c da k0 cnt (i0 + r)) (upto (tileRows t)))
        (collect (fun q => readRun c db k0 cnt (j0 + q)) (upto (tileCols t)))) fun runs =>
      vBind (mmaTile t k k0 cnt runs.1 runs.2) fun t' =>
      let c' := putTile c n t'
      let c' := correctRuns c' da k0 cnt ((upto (tileRows t)).map (· + i0))
      let c' := correctRuns c' db k0 cnt ((upto (tileCols t)).map (· + j0))
      .ok (vCount c' 0 (4096 * cnt))

/-- MMA: the range that its registers give, less the indices applied before a pre-emption (R156, R157). -/
def effMma (n ta tb si sj sk sn : Nat) : VEff := fun c =>
  mmaRange n ta tb si sj ((vS c sk).toNat + c.mma) ((vS c sn).toNat - c.mma) c

/-- The value of output i as R159 converts it: exact and integer windows by R56, BF16 entries by R59 step 5. -/
def outputNum (t : Tile) (k : TileKind) (i : Nat) : FNum :=
  match k with
  | .bf16 => numOf fp32 (bfValue (tileOut t i).w)
  | _ =>
    match tileAnchor t i with
    | some L => winNum L (outWin (tileOut t i))
    | none => .fin false 0 0

/-- An output converted to a type: INT32 always saturates (R57). -/
def convertOut (ty : Nat) (inf : Bool) (x : FNum) : Nat :=
  match tyFmt ty with
  | some f => roundTo f (!inf) x
  | none => wrapInt 32 (roundInt (-(2 ^ 31)) (2 ^ 31 - 1) x)

def mcvtTypeOk (ty : Nat) : Bool :=
  ty == 0x01 || ty == 0x02 || ty == 0x03 || ty == 0x04 || ty == 0x05 || ty == 0x12

/-- The staging buffer a conversion leaves (R148, R159): row-major, packed at the output width from byte 0. -/
def mcvtStaging (t : Tile) (k : TileKind) (n ty : Nat) (inf : Bool) : Staging :=
  { ty := ty, shape := tileShape t, tile := n, inf := inf
    bytes := (upto 4096).flatMap (fun i => leBytes (tyBits ty / 8) (convertOut ty inf (outputNum t k i))) }

/-- MCVT: convert every output into the staging buffer (R159). DESIGN CHOICE (log 66): 0x0143 comes before 0x0123. -/
def effMcvt (n : Nat) (ty : Byte) (inf : Bool) : VEff := fun c =>
  let t := tileGet c.snap n
  match tileKind t with
  | none => .cond 0x0143 0
  | some k =>
    if !(mcvtTypeOk ty.toNat) then .cond 0x0123 0
    else if tileParity t then .cond 0x0102 0
    else .ok (vProg c (fun r => { r with staging := some (mcvtStaging t k n ty.toNat inf) }))

/-- An entry with its NAN flag set. -/
def nanOut (o : TileOut) : TileOut := { o with flags := o.flags ||| 1 }

/-- One output of MADDP (R160): the entry with the partial added, and the code of its condition, 0 for none. A malformed
partial and one of another anchor leave the NAN flag set (R55, R160). -/
def addPartial (t : Tile) (i p : Nat) : TileOut × Nat :=
  let o := tileOut t i
  if p = 0 then (o, 0)
  else if partialBad p then (nanOut o, 0x0113)
  else
    match tileAnchor t i with
    | none => (winOutEntry (partialWin p) (some (partialL p)), 0)
    | some L =>
      if L = partialL p then (winOutEntry (winAdd (outWin o) (partialWin p)) o.anchor, 0)
      else (nanOut o, 0x0112)

/-- The partial at column `col` and row `row` of a descriptor of type 0x20; 0 for a null element (R160). -/
def readPartial (c : VCtx) (d : Desc) (row col : Nat) : Except (Nat × Nat) Nat :=
  match elemAt d (descIx c d) [col, row] with
  | .stop code j => .error (code, j)
  | .null => .ok 0
  | .offset o _ =>
    match elemCode d (fun a n => bankRead c a n) o with
    | none => .error (0x0101, 0)
    | some p => .ok p

/-- Row and column of every output of a tile, with its number, in row-major order. -/
def outputCells (t : Tile) : List (Nat × Nat × Nat) :=
  (upto (tileRows t)).flatMap (fun r => (upto (tileCols t)).map (fun q => (r * tileCols t + q, r, q)))

/-- Correct the single-bit errors in the index words and partials that MADDP read (R112). -/
def correctPartials (c : VCtx) (d : Desc) (cells : List (Nat × Nat × Nat)) (i0 j0 : Nat) : VCtx :=
  if c.x.caveBad.all (fun b => b.2 != 1) then c
  else cells.foldl (fun acc p =>
    let acc := correctIndex acc d [i0 + p.2.1]
    match elemAt d (descIx c d) [j0 + p.2.2, i0 + p.2.1] with
    | .offset o _ => bankCorrect acc (elemSpan d o).1 (elemSpan d o).2
    | _ => acc) c

/-- MADDP: add one wide partial per output (R160). A partial that cannot be added raises its condition; of the outputs
only that one changes, its NAN flag set (log 65). DESIGN CHOICE (log 66): 0x0143 comes first, then the descriptor's
conditions. -/
def effMaddp (n ta si sj : Nat) : VEff := fun c =>
  let t := tileGet c.snap n
  match tileKind t with
  | none => .cond 0x0143 0
  | some .bf16 => .cond 0x0143 0
  | some _ =>
    vBind (matDesc c ta) fun d =>
    let i0 := (vS c si).toNat
    let j0 := (vS c sj).toNat
    if d.ty ≠ 0x20 then .cond 0x0142 0
    else if dSize d 0 < j0 + tileCols t ∨ dSize d 1 < i0 + tileRows t then .cond 0x014A 0
    else if tileParity t then .cond 0x0102 0
    else
      vBind (collect (fun (p : Nat × Nat × Nat) => readPartial c d (i0 + p.2.1) (j0 + p.2.2)) (outputCells t)) fun ps =>
      let os := ps.zipIdx.map (fun p => addPartial t p.2 p.1)
      match os.zipIdx.find? (fun p => p.1.2 != 0) with
      | some ((o, code), i) => .fail (putTile c n { t with outs := tset {} t.outs i o }) code 0
      | none =>
        .ok (correctPartials (putTile c n { t with outs := outsOf (os.map (·.1)) }) d (outputCells t) i0 j0)

/-- MSEG: close the current segment of a BF16 tile (R158). -/
def effMseg (n : Nat) : VEff := fun c =>
  let t := tileGet c.snap n
  if tileKind t ≠ some .bf16 then .cond 0x0143 0
  else if tileParity t then .cond 0x0102 0
  else .ok (putTile c n { t with outs := outsOf ((upto 4096).map (fun i =>
    { tileOut t i with w := bfCloseSeg (tileOut t i).w })) })

end Sys2Proof.Machine
end

