-- ==== Sys2Proof/Machine/VatMove.lean ====
section
/-!
DEFINITION. Sys2Proof/Machine/VatMove.lean: what each move-slot instruction does (the move slot's table, R165–R168).
-/

namespace Sys2Proof.Machine

/-- A 32-bit immediate added to an address register, sign-extended. -/
def immAdd (a : DWord) (imm : Word) : DWord := a + imm.signExtend 64

def lanesOf (bs : List Byte) : List Word := (upto 64).map (fun i => BitVec.ofNat 32 (leAt bs (4 * i) 4))

/-- Clocks of an own transfer, counted in VAT_XFER_CLOCKS (R117). -/
def xferClocks (c : VCtx) (n : Nat) : VCtx := vCount c 3 n

/-- VLD: 256 bytes at A[FA] + IMM (R165). -/
def effVld (d fa : Nat) (imm : Word) : VEff := fun c =>
  let off := (immAdd (vA c fa) imm).toNat
  vBind (bankRange c off 256 32) fun _ =>
  vBind (bankReadE c off 256) fun bs =>
  putV (xferClocks (bankCorrect c off 256) 1) d (lanesOf bs)

/-- VST: the lanes of V[FB] true in P[PR] to A[FA] + IMM (R165). -/
def effVst (fa fb : Nat) (imm : Word) (pr : Nat) : VEff := fun c =>
  let off := (immAdd (vA c fa) imm).toNat
  vBind (bankRange c off 256 32) fun _ =>
  let c' := (upto 64).foldl (fun acc i =>
    if pLane c.snap pr i then bankWrite acc (off + 4 * i) (leBytes 4 (vLane c.snap fb i).toNat) else acc) c
  .ok (xferClocks c' 2)

/-- VLDXB: a load through the exchange network in bit-permute mode, control word S[FC] (R165, R97). -/
def effVldxb (d fa fc : Nat) (imm : Word) : VEff := fun c =>
  let off := (immAdd (vA c fa) imm).toNat
  let ctl := (vS c fc).toNat
  vBind (bankRange c off 256 32) fun _ =>
  if !(permuteOk ctl) then .cond 0x0132 0
  else
    vBind (bankReadE c off 256) fun bs =>
    putV (xferClocks (bankCorrect c off 256) 1) d (exchangePermute ctl (lanesOf bs))

/-- VLDXE: a load in explicit mode, the 64-byte control block at A[FB] (R165, R97). -/
def effVldxe (d fa fb : Nat) (imm : Word) : VEff := fun c =>
  let off := (immAdd (vA c fa) imm).toNat
  let cb := (vA c fb).toNat
  vBind (bankRange c off 256 32) fun _ =>
  vBind (bankRange c cb 64 32) fun _ =>
  vBind (bankReadE c cb 64) fun ctl =>
  if leNat (ctl.drop 44) ≠ 0 then .cond 0x0132 0
  else
    vBind (bankReadE c off 256) fun bs =>
    putV (xferClocks (bankCorrect (bankCorrect c off 256) cb 64) 2) d (exchangeExplicit (leNat ctl) (lanesOf bs))

/-- VXLD: 256 bytes of the staging buffer (R165): 0x0143 beyond its 16 KiB or while it is not valid; bytes beyond the
converted outputs read as zero. -/
def effVxld (d fa : Nat) : VEff := fun c =>
  let k := (vS c fa).toNat
  match c.snap.staging with
  | none => .cond 0x0143 0
  | some g =>
    if 64 ≤ k then .cond 0x0143 0
    else putV c d (lanesOf (takePad 0 256 (g.bytes.drop (256 * k))))

def effStov (d fa lane : Nat) : VEff := fun c => .ok (vProg c (fun r => vSetLane r d lane (vS c fa)))
def effVtos (d fa lane : Nat) : VEff := fun c => putS c d (vLane c.snap fa lane)
def effAadd (d fa : Nat) (imm : Word) : VEff := fun c => putA c d (immAdd (vA c fa) imm)
def effAadds (d fa fb : Nat) : VEff := fun c => putA c d (immAdd (vA c fa) (vS c fb))
def effAmov (d fa fb : Nat) : VEff := fun c =>
  putA c d (BitVec.ofNat 64 ((vS c fb).toNat * 2 ^ 32 + (vS c fa).toNat))
def effAtos (d fa : Nat) : VEff := fun c => putS c d ((vA c fa).setWidth 32)

/-- Write one element through a descriptor under its WMODE (R85–R87, R73): null elements are not written. `ix` gives the
index words, each read once before the writes (R95). The answer carries the code of a combination that fails, whose
element then holds the partial with NAN set (R55). STORE reads nothing of the element: the vat's write types are whole
bytes (R693). -/
def writeElem (c : VCtx) (d : Desc) (ix : Nat → Except Nat Nat) (row col code : Nat) : Except (Nat × Nat) (VCtx × Nat) :=
  match elemAt d ix [col, row] with
  | .stop e j => .error (e, j)
  | .null => .ok (c, 0)
  | .offset o _ =>
    let sp := elemSpan d o
    if d.wmode = 1 then
      match bankRead c sp.1 sp.2 with
      | none => .error (0x0101, 0)
      | some old =>
        let (x, e) := reduceAdd d.ty (leNat old / 2 ^ (elemByte d o).2 % 2 ^ tyBits d.ty) code
        .ok (bankWrite (bankCorrect c sp.1 sp.2) sp.1 (putCode d o old x), e)
    else .ok (bankWrite c sp.1 (putCode d o (List.replicate sp.2 0) code), 0)

/-- Write every output in row-major order (R85, R166). -/
def writeOutputs (d : Desc) (ix : Nat → Except Nat Nat) (i0 j0 : Nat) (code : Nat → Nat) :
    VCtx → List (Nat × Nat × Nat) → Except (Nat × Nat) VCtx
  | c, [] => .ok c
  | c, (i, r, q) :: rest =>
    match writeElem c d ix (i0 + r) (j0 + q) (code i) with
    | .error e => .error e
    | .ok (c', 0) => writeOutputs d ix i0 j0 code c' rest
    | .ok (_, e) => .error (e, i)

/-- Leave the partial with NAN set that a failed combination of one element gives (R55). -/
def nanElem (c : VCtx) (d : Desc) (row col code : Nat) : VCtx :=
  match elemAt d (descIx c d) [col, row] with
  | .offset o _ =>
    let sp := elemSpan d o
    bankWrite c sp.1 (leBytes 16 (nanPartial (leNat ((bankRead c sp.1 sp.2).getD [])) code))
  | _ => c

/-- The outputs of a tile or of the staging buffer through a descriptor (R166). Where a combination fails, only its element
is written (log 65). -/
def storeOutputs (c : VCtx) (d : Desc) (i0 j0 : Nat) (code : Nat → Nat) (cells : List (Nat × Nat × Nat)) (k : VCtx → VRes) : VRes :=
  match writeOutputs d (descIx c d) i0 j0 code c cells with
  | .ok c' => k (correctIndex c' d (cells.map (fun p => i0 + p.2.1)))
  | .error (e, i) =>
    match cells.find? (fun p => p.1 == i && (e == 0x0112 || e == 0x0113)) with
    | some (_, r, q) => .fail (nanElem c d (i0 + r) (j0 + q) (code i)) e 0
    | none => .cond e i

/-- Clocks of MSTO and MSTP: 128 B per clock, and with REDUCE_ADD a read at 256 B per clock (R166). -/
def storeClocks (d : Desc) : Nat :=
  let b := 4096 * tyBits d.ty / 8
  b / 128 + (if d.wmode = 1 then b / 256 else 0)

/-- The rows and columns of a shape of a stored tile lie within the descriptor (0x014A). -/
def storeFits (d : Desc) (sh i0 j0 : Nat) : Bool :=
  decide (j0 + (shapeDims sh).2 ≤ dSize d 0) && decide (i0 + (shapeDims sh).1 ≤ dSize d 1)

def shapeCells (sh : Nat) : List (Nat × Nat × Nat) :=
  (upto (shapeDims sh).1).flatMap (fun r =>
    (upto (shapeDims sh).2).map (fun q => (r * (shapeDims sh).2 + q, r, q)))

/-- MSTO: the staging buffer into a descriptor's elements (R166). DESIGN CHOICE (log 66): the descriptor's conditions come
first, then 0x0143, 0x0142 and 0x014A. -/
def effMsto (t si sj : Nat) : VEff := fun c =>
  vBind (matDesc c t) fun d =>
  match c.snap.staging with
  | none => .cond 0x0143 0
  | some g =>
    let i0 := (vS c si).toNat
    let j0 := (vS c sj).toNat
    let n := tyBits g.ty / 8
    if d.ty ≠ g.ty then .cond 0x0142 0
    else if !(storeFits d g.shape i0 j0) then .cond 0x014A 0
    else
      storeOutputs c d i0 j0 (fun i => leAt g.bytes (n * i) n) (shapeCells g.shape) fun c' =>
      .ok (xferClocks c' (storeClocks d))

/-- The wide partial of one output as MSTP assembles it: empty where a microscaled tile's anchor is absent (R166). -/
def outputPartial (t : Tile) (i : Nat) : Nat :=
  match tileAnchor t i with
  | some L => packPartial L (outWin (tileOut t i))
  | none => 0

/-- MSTP: a tile's outputs as wide partials (R166). DESIGN CHOICE (log 66): the descriptor's conditions come first, then an
unconfigured tile's 0x0143, 0x0142, a BF16 tile's 0x0143 and 0x014A. -/
def effMstp (t n si sj : Nat) : VEff := fun c =>
  vBind (matDesc c t) fun d =>
  let u := tileGet c.snap n
  match tileKind u with
  | none => .cond 0x0143 0
  | some k =>
    let i0 := (vS c si).toNat
    let j0 := (vS c sj).toNat
    if d.ty ≠ 0x20 then .cond 0x0142 0
    else if k = .bf16 then .cond 0x0143 0
    else if !(storeFits d (tileShape u) i0 j0) then .cond 0x014A 0
    else if tileParity u then .cond 0x0102 0
    else
      storeOutputs c d i0 j0 (outputPartial u) (outputCells u) fun c' =>
      .ok (xferClocks c' (storeClocks d))

/-! ## Hoop ports (R168) -/

/-- The buffer of a handle lies in the vat's own bank, in its visible part (R168). -/
def inOwnBank (c : VCtx) (addr len : Nat) : Bool :=
  addr / bankBytes == c.v && decide (addr % bankBytes + len ≤ vVisible c)

/-- Give a handle taken on port q to the program: A[D] and S[FB] (R168, R380). The data of its buffer becomes visible
(R152). -/
def takeHandle (c : VCtx) (q d fb : Nat) (h : Handle) : VCtx :=
  vProg { c with x := caveShow c.x h.addr h.len } (fun r =>
    let p := inPort r q
    sSet (aSet (inPortSet r q { p with taken := p.taken ++ [h] }) d (BitVec.ofNat 64 (h.addr % bankBytes))) fb
      (BitVec.ofNat 32 h.len))

/-- HTAKE: the next handle of an input port; on an empty hoop the vat enters HANDLE_WAIT (R168, R118). -/
def effHtake (d fb q : Nat) : VEff := fun c =>
  let p := inPort c.snap q
  match p.hoop with
  | none => .cond 0x0148 0
  | some h =>
    if 4 ≤ p.taken.length then .cond 0x0148 0
    else match (hoopOf c.x h).q with
      | [] => .ok (vOn c (fun t => { t with wait := some ⟨true, q, d, fb⟩, st := .handleWait }))
      | hd :: r =>
        if !(inOwnBank c hd.addr (bufBytes (hoopOf c.x h))) then .cond 0x0148 0
        else .ok (takeHandle { c with x := onHoop c.x h (fun y => { y with q := r }) } q d fb hd)

/-- HREL: release the oldest handle taken on a port (R168). -/
def effHrel (q : Nat) : VEff := fun c =>
  let p := inPort c.snap q
  match p.hoop, p.taken with
  | some h, hd :: _ =>
    let c' := { c with x := hoopRelease c.x h (bufIndex (hoopOf c.x h) hd.addr) }
    .ok (vOn (vProg c' (fun r => let p' := inPort r q; inPortSet r q { p' with taken := p'.taken.drop 1 })) (fun t => { t with irrev := true }))
  | _, _ => .cond 0x0148 0

/-- Give an obtained buffer to the program (R168). -/
def giveBuffer (c : VCtx) (q d h i : Nat) : VCtx :=
  let off := bufAddr (hoopOf c.x h) i % bankBytes
  vProg { c with x := hoopObtain c.x h 1 } (fun r =>
    let p := outPort r q
    aSet (outPortSet r q { p with got := p.got ++ [i] }) d (BitVec.ofNat 64 off))

/-- HGET: a free buffer of an output port; it waits while the port holds no credit (R168, R21). -/
def effHget (d q : Nat) : VEff := fun c =>
  let p := outPort c.snap q
  match p.hoop with
  | none => .cond 0x0148 0
  | some h =>
    if 4 ≤ p.got.length then .cond 0x0148 0
    else match (hoopOf c.x h).free with
      | [] => .ok (vOn c (fun t => { t with wait := some ⟨false, q, d, 0⟩ }))
      | i :: _ =>
        if !(inOwnBank c (bufAddr (hoopOf c.x h) i) (bufBytes (hoopOf c.x h))) then .cond 0x0148 0
        else .ok (giveBuffer c q d h i)

/-- HPUT: put the oldest buffer obtained on a port, with length S[FB] (R168). -/
def effHput (fb q : Nat) : VEff := fun c =>
  let p := outPort c.snap q
  let len := (vS c fb).toNat
  match p.hoop, p.got with
  | some h, i :: _ =>
    let y := hoopOf c.x h
    if bufBytes y < len then .cond 0x0148 0
    else
      let hd : Handle := ⟨false, false, h, len, bufAddr y i⟩
      let c' := { c with x := hoopPut c.x h ⟨1, c.v⟩ hd }
      .ok (vOn (vProg c' (fun r => let p' := outPort r q; outPortSet r q { p' with got := p'.got.drop 1 })) (fun t => { t with irrev := true }))
  | _, _ => .cond 0x0148 0

/-- RSEND: start a ring transfer to the next vat's bank (R167); it issues when the previous one has sent its last
byte. -/
def effRsend (fa fb fc : Nat) : VEff := fun c =>
  let src := (vA c fa).toNat
  let dst := (vA c fc).toNat
  let len := (vS c fb).toNat
  if src % 32 ≠ 0 ∨ dst % 32 ≠ 0 ∨ len % 32 ≠ 0 ∨ len < 32 ∨ 2621440 < len then .cond 0x0145 0
  else if vVisible c < src + len ∨ vVisible c < dst + len then .cond 0x0145 0
  else if (vatOf c.x c.v).ring.isSome then .stall
  else .ok (vOn c (fun t =>
    { t with ring := some ⟨src, dst, len, t.op, c.snap.pc⟩, slices := t.slices.map (fun q => if q.dst = src then { q with sent := t.op } else q) }))

end Sys2Proof.Machine
end

