-- ==== Sys2Proof/Machine/VatIssue.lean ====
section
/-!
DEFINITION. Sys2Proof/Machine/VatIssue.lean: the issue of a bundle (R137, R140–R143, R149, R153, R169, R170). A slot
command names the instruction that one slot of the bundle at PC holds; the bundle is checked as a whole before its first
slot takes effect, every slot reads the registers as they were then, and the program moves on when all four have.
-/

namespace Sys2Proof.Machine

def imm9 (w : Nat) : Nat := bits w 8 0
def immW (w : Nat) : Word := BitVec.ofNat 32 (slImm w)
def imm5 (w k : Nat) : Nat := bits w (5 * k + 4) (5 * k)

/-- The meaning of a control slot's word. -/
def controlEff (w : Nat) : VEff :=
  let d := slD w
  let a := slFA w
  let b := slFB w
  match slOp w with
  | 0x01 => effEnd
  | 0x02 => effTrap a
  | 0x03 => effJmp (imm9 w)
  | 0x04 => effBnz a (imm9 w)
  | 0x05 => effBz a (imm9 w)
  | 0x06 => effLoop d (imm9 w)
  | 0x08 => effLi d (immW w)
  | 0x09 => effAdd d a b
  | 0x0A => effAddi d a (immW w)
  | 0x0B => effSub d a b
  | 0x0C => effMul d a b
  | 0x0D => effAnd d a b
  | 0x0E => effOr d a b
  | 0x0F => effXor d a b
  | 0x10 => effShl d a b
  | 0x11 => effShr d a b
  | 0x12 => effSra d a b
  | 0x13 => effMin d a b
  | 0x14 => effMax d a b
  | 0x15 => effSlt d a b
  | 0x16 => effSltu d a b
  | 0x17 => effSeq d a b
  | 0x20 => effPand d a b
  | 0x21 => effPor d a b
  | 0x22 => effPxor d a b
  | 0x23 => effPnot d a
  | 0x24 => effPfirst d a
  | 0x25 => effPset d a b
  | 0x26 => effPcount d a
  | _ => effNop

/-- The meaning of a matrix slot's word. -/
def matrixEff (w : Nat) : VEff :=
  let d := slD w
  match slOp w with
  | 0x01 => effMcfg d (immW w)
  | 0x02 => effMclr d
  | 0x03 => effManc d (slFA w) (slFB w) (slFC w) (imm5 w 0)
  | 0x04 => effMma d (slFA w) (slFB w) (slFC w) (imm5 w 0) (imm5 w 1) (imm5 w 2)
  | 0x05 => effMcvt d (BitVec.ofNat 8 (slImm w)) (bitAt w 8)
  | 0x06 => effMaddp d (slFA w) (slFC w) (imm5 w 0)
  | 0x07 => effMseg d
  | _ => effNop

/-- The meaning of a vector slot's word. -/
def vectorEff (w : Nat) : VEff :=
  let d := slD w
  let a := slFA w
  let b := slFB w
  let p := slPR w
  match slOp w with
  | 0x01 => effVadd d a b p
  | 0x02 => effVsub d a b p
  | 0x03 => effVmul d a b p
  | 0x04 => effVfma d a b (slFC w) p
  | 0x05 => effVmin d a b p
  | 0x06 => effVmax d a b p
  | 0x07 => effVabs d a p
  | 0x08 => effVneg d a p
  | 0x10 => effVexp2 d a p
  | 0x11 => effVlog2 d a p
  | 0x12 => effVrcp d a p
  | 0x13 => effVrsq d a p
  | 0x14 => effVtanh d a p
  | 0x15 => effVerf d a p
  | 0x18 => effVcmplt d a b p
  | 0x19 => effVcmple d a b p
  | 0x1A => effVcmpeq d a b p
  | 0x1B => effVcmpun d a b p
  | 0x20 => effViadd d a b p
  | 0x21 => effVisub d a b p
  | 0x22 => effVimul d a b p
  | 0x23 => effVand d a b p
  | 0x24 => effVor d a b p
  | 0x25 => effVxor d a b p
  | 0x26 => effVshl d a (imm5 w 0) p
  | 0x27 => effVshr d a (imm5 w 0) p
  | 0x28 => effVsra d a (imm5 w 0) p
  | 0x29 => effVimin d a b p
  | 0x2A => effVimax d a b p
  | 0x2B => effVicmplt d a b p
  | 0x30 => effVcvt d a (BitVec.ofNat 8 (slImm w)) (BitVec.ofNat 8 (slImm w / 256)) (bitAt w 16) p
  | 0x31 => effVmxq d a (BitVec.ofNat 8 (slImm w)) p
  | 0x32 => effVmxd d a (BitVec.ofNat 8 (slImm w)) p
  | 0x38 => effVbcast d a p
  | 0x39 => effVsel d a b p
  | 0x3A => effVrsum d a p
  | 0x3B => effVrmax d a p
  | 0x3C => effVlane d p
  | _ => effNop

/-- The meaning of a move slot's word. -/
def moveEff (w : Nat) : VEff :=
  let d := slD w
  let a := slFA w
  let b := slFB w
  match slOp w with
  | 0x01 => effVld d a (immW w)
  | 0x02 => effVst a b (immW w) (slPR w)
  | 0x03 => effVldxb d a (slFC w) (immW w)
  | 0x04 => effVldxe d a b (immW w)
  | 0x05 => effVxld d a
  | 0x06 => effStov d a (bits w 5 0)
  | 0x07 => effVtos d a (bits w 5 0)
  | 0x08 => effAadd d a (immW w)
  | 0x09 => effAadds d a b
  | 0x0A => effAmov d a b
  | 0x0B => effAtos d a
  | 0x10 => effMsto d (slFC w) (imm5 w 0)
  | 0x11 => effMstp d a (slFC w) (imm5 w 0)
  | 0x18 => effHtake d b (bits w 1 0)
  | 0x19 => effHrel (bits w 1 0)
  | 0x1A => effHget d (bits w 1 0)
  | 0x1B => effHput b (bits w 1 0)
  | 0x20 => effRsend a b (slFC w)
  | _ => effNop

def slotEff (k w : Nat) : VEff :=
  match k with
  | 0 => controlEff w
  | 1 => matrixEff w
  | 2 => vectorEff w
  | _ => moveEff w

/-- What keeps a bundle from issuing: a condition with its code and value and the wheel it leaves, or a slot that must
wait. -/
inductive IssueRes where
  | cond (x : Wheel) (code value : Nat)
  | stall
  | go
  deriving DecidableEq, Repr

def slotStalls : VRes → Bool
  | .stall => true
  | _ => false

/-- The first condition in slot order: control, matrix, vector, move (R170), with the wheel it leaves. -/
def firstCond (x : Wheel) : List VRes → Option (Wheel × Nat × Nat)
  | [] => none
  | .cond code value :: _ => some (x, code, value)
  | .fail c code value :: _ => some (c.x, code, value)
  | _ :: r => firstCond x r

/-- The check of a whole bundle at issue (R142, R143, R170, R138): parity, legality, double writes, then each slot's own
conditions. A bundle that holds TRAP and a condition of another slot reports the control slot's 0x0149 (R170), and no slot
takes effect (R169). -/
def issueCheck (x : Wheel) (v : Nat) : IssueRes :=
  let t := vatOf x v
  let pc := t.prog.pc
  if 512 ≤ pc then .cond x 0x0146 0
  else if t.istoreBad.contains pc then .cond x 0x0103 0
  else
    let b := tget 0 t.istore pc
    if (upto 4).any (fun k => !(slotLegal k (bundleSlot b k))) then .cond x 0x0140 0
    else if destClash b then .cond x 0x0147 0
    else
      let c : VCtx := ⟨x, v, t.prog, pc + 1, 0⟩
      let rs := (upto 4).map (fun k => slotEff k (bundleSlot b k) c)
      if rs.any slotStalls then .stall
      else match firstCond x rs with
        | some (y, code, value) =>
          if slOp (bundleSlot b 0) = 0x02 then .cond x 0x0149 (vS c (slFA (bundleSlot b 0))).toNat else .cond y code value
        | none => .go

/-- End the operation on a condition: the code, the index of the faulting bundle and the value (R169). -/
def raiseAt (x : Wheel) (v code place value : Nat) : Wheel :=
  onVat x v (fun t => { t with fin := some ⟨code, place, value⟩, issue := none, wait := none, st := .run })

/-- A condition of the bundle at PC: no slot of it takes effect (R169), so the registers are as they were at its issue; what
a hoop has given or taken back stays with the port. -/
def raiseCond (x : Wheel) (v code value : Nat) : Wheel :=
  let t := vatOf x v
  raiseAt (onVat x v (fun t => { t with prog := match t.issue with
    | some i => { i.snap with inP := t.prog.inP, outP := t.prog.outP }
    | none => t.prog })) v code t.prog.pc value

/-- A bundle ends when its four slots have taken effect: the program moves on, or ends (R153, R169). -/
def bundleDone (t : Vat) : Vat :=
  match t.issue with
  | none => t
  | some i =>
    if i.done.length < 4 || t.wait.isSome then t
    else
      match i.trap with
      | some value => { t with issue := none, regs := bump t.regs 1 1, fin := some ⟨0x0149, t.prog.pc, value⟩ }
      | none =>
        if i.ending then { t with issue := none, regs := bump t.regs 1 1, fin := some ⟨0, t.prog.pc, 0⟩ }
        else { t with issue := none, regs := bump t.regs 1 1, prog := { t.prog with pc := i.next } }

def bundleEnd (x : Wheel) (v : Nat) : Wheel := onVat x v bundleDone

/-- Run one slot of the bundle in issue. -/
def runSlot (x : Wheel) (v k w : Nat) (eff : VEff) : Wheel :=
  let t := vatOf x v
  match t.issue with
  | none => x
  | some i =>
    if i.done.contains k then x
    else if bundleSlot (tget 0 t.istore t.prog.pc) k ≠ w then x
    else
      match eff ⟨x, v, i.snap, i.next, i.mma⟩ with
      | .ok c =>
        bundleEnd (onVat c.x v (fun t =>
          { t with issue := t.issue.map (fun i => { i with done := insertNat k i.done, next := c.next }) })) v
      | .cond code value => raiseCond x v code value
      | .fail c code value => raiseAt c.x v code t.prog.pc value
      | .stall => x

/-- The vat can issue: an operation is in service on it, its program has not ended, and it runs; a bundle already in
issue goes on while its HTAKE waits. -/
def canIssue (t : Vat) : Bool :=
  t.op.isSome && t.fin.isNone && !t.closed
    && ((t.st == .run && t.wait.isNone) || (t.issue.isSome && (t.st == .run || t.st == .handleWait)))

/-- A slot command: the slot `k` of the bundle at PC holds the instruction with word `w` and meaning `eff`. The first
slot command of a bundle checks the whole bundle. -/
def slotCmd (x : Wheel) (v k w : Nat) (eff : VEff) : Wheel :=
  let t := vatOf x v
  if !(canIssue t) then x
  else match t.issue with
    | some _ => runSlot x v k w eff
    | none =>
      match issueCheck x v with
      | .cond y code value => raiseCond y v code value
      | .stall => x
      | .go =>
        if bundleSlot (tget 0 t.istore t.prog.pc) k ≠ w then x
        else runSlot (onVat x v (fun t => { t with issue := some { snap := t.prog, next := t.prog.pc + 1 } })) v k w eff

/-- The slot command on the module. -/
def slotOn (s : State) (w : Fin 8) (v : Fin 32) (k word : Nat) (eff : VEff) : Host.Outcome State Fault Refusal :=
  .next (onWheel s w (fun x => slotCmd x v k word eff))

end Sys2Proof.Machine
end

