-- ==== Sys2Proof/Machine/VatOps.lean ====
section
/-!
DEFINITION. Sys2Proof/Machine/VatOps.lean: the life of a vat operation around its program: start (R137), completion
(R153, R169), waits and yields (R118, R119), pre-emption, save and restore (R120–R125, R172), and the ring (R113–R116).
-/

namespace Sys2Proof.Machine

/-! ## Start (R137, R114, R116) -/

/-- Bits set in a mask, ascending. -/
def maskBits (n m : Nat) : List Nat := (upto n).filter (fun k => bitAt m k)

/-- The role in which a slot's descriptor is checked: that of its DESC entry, or both vat rows (R693). -/
def slotRole (x : Wheel) (addr : Nat) : DescRole :=
  match x.rnt.roles.find? (fun p => p.1 == addr) with
  | some (_, r) => descRole (r / 16) (r % 16)
  | none => .vatAny

/-- A port of a starting operation: bound when its hoop's side can be (R694); otherwise an instruction that uses it
raises 0x0148. -/
def vatPorts (x : Wheel) (v ctx a : Nat) (consumer : Bool) : List (Nat × VPort) :=
  (upto 4).filterMap (fun k =>
    let e := leNat (caveRead x (a + 2 * k) 2)
    let h := bits e 9 0
    let y := hoopOf x h
    let side := if consumer then y.cons else y.prod
    if bitAt e 15 && y.owner == some ctx && canBind side ⟨1, v⟩ then some (k, { hoop := some h }) else none)

def bindPorts (x : Wheel) (v : Nat) (ins outs : List (Nat × VPort)) : Wheel :=
  let x1 := ins.foldl (fun x p => match p.2.hoop with
    | some h => bindCons x h ⟨1, v⟩
    | none => x) x
  outs.foldl (fun x p => match p.2.hoop with
    | some h => bindProd x h ⟨1, v⟩
    | none => x) x1

/-- The first failing check of an operation's descriptors and tile words (R137), 0 for none. -/
def startCheck (x : Wheel) (ts : List (Nat × Nat × List Byte)) (c0 c1 : Word) : Nat :=
  let bound := visibleEnd x.saveSlots
  let codes := ts.map (fun t => descCheck (descOf t.2.2) (slotRole x t.2.1) bound true)
  match codes.find? (· ≠ 0) with
  | some code => code
  | none => if cfgCheck c0 ≠ 0 then cfgCheck c0 else cfgCheck c1

/-- A slice buffer of this bank that the operation's descriptors read was cut off (R116): the slice next in its buffer. -/
def sliceFailed (x : Wheel) (v rec : Nat) : Bool :=
  let l := (vatOf x v).slices
  l.any (fun q => q.failed && sliceOverlap x rec q.dst q.len && l.find? (fun p => p.dst == q.dst) == some q)

/-- The registers an operation starts with (R137): the named S and A values, the rest zero, V zero, P1–P7 false, the
tiles configured as MCFG does. -/
def startProg (x : Wheel) (v ctx rec : Nat) : VatProg × List (Nat × Nat × List Byte) :=
  let b := rec + 64
  let w0 := leNat (caveRead x b 8)
  let am := maskBits 16 (bits w0 31 16)
  let sm := maskBits 32 (bits w0 63 32)
  let tiles := leNat (caveRead x (b + 8) 8)
  let vals := b + 0x40
  let s := sm.zipIdx.foldl (fun t p => tset 0 t p.1 (BitVec.ofNat 32 (leNat (caveRead x (vals + 4 * p.2) 4)))) []
  let va := vals + 4 * sm.length
  let a := am.zipIdx.foldl (fun t p => tset 0 t p.1 (BitVec.ofNat 64 (leNat (caveRead x (va + 8 * p.2) 8)))) []
  let ts := (upto 8).filterMap (fun k =>
    let e := leNat (caveRead x (b + 0x20 + 4 * k) 4)
    if bitAt e 31 then some (k, bits e 26 0, caveRead x (bits e 26 0) 128) else none)
  ({ s := s, a := a
     c0 := { cfg := BitVec.ofNat 32 (bits tiles 31 0) }, c1 := { cfg := BitVec.ofNat 32 (bits tiles 63 32) }
     t := ts.map (fun t => (t.1, t.2.2))
     inP := vatPorts x v ctx (b + 0x10) true, outP := vatPorts x v ctx (b + 0x18) false
     pc := bits w0 8 0 }, ts)

/-- The Cave ranges that the start of an operation reads: its body and the descriptors it names (R137). -/
def startReads (x : Wheel) (rec : Nat) (ts : List (Nat × Nat × List Byte)) : List (Nat × Nat) :=
  let w0 := leNat (caveRead x (rec + 64) 8)
  (rec + 64, 0x40 + 4 * (maskBits 32 (bits w0 63 32)).length + 8 * (maskBits 16 (bits w0 31 16)).length)
    :: ts.map (fun t => (t.2.1, 128))

/-- Some descriptor of the operation cannot be read (R112, R692). -/
def descUncorr (x : Wheel) (ts : List (Nat × Nat × List Byte)) : Bool := ts.any (fun t => caveUncorr x t.2.1 128)

def vatStart (x : Wheel) (v : Nat) : Wheel :=
  let t := vatOf x v
  match t.op with
  | none => x
  | some op =>
    if t.started || t.st != .idle then x
    else
      let (prog, ts) := startProg x v op.ctx t.record
      -- R152: dispatch makes what lies in the bank visible to the program
      let x0 := (startReads x t.record ts).foldl (fun y r => caveCorrect y r.1 r.2) (caveShow x (bankAddr v 0) bankBytes)
      let x1 := bindPorts x0 v prog.inP prog.outP
      let code := if sliceFailed x v t.record then 0x0105
        else if descUncorr x ts then 0x0101
        else startCheck x ts prog.c0.cfg prog.c1.cfg
      onVat x1 v (fun t =>
        { t with st := .run, started := true, prog := prog, issue := none, wait := none, closed := false
                 fin := if code = 0 then none else some ⟨code, prog.pc, 0⟩ })

/-- VAT_OPERATION_START. -/
def execVatOperationStart (w : Fin 8) (v : Fin 32) (s : State) : Host.Outcome State Fault Refusal :=
  .next (onWheel s w (fun x => vatStart x v))

/-! ## Completion (R153, R169, R132, R133) -/

/-- The bits of VAT_ERR_STATUS that a completion code sets (R132). -/
def vatErrMask (code : Nat) : Nat :=
  if code = 0 then 0
  else 1 + (match code with
    | 0x0101 => 4
    | 0x0102 => 8
    | 0x0103 => 16
    | 0x0104 => 32
    | 0x0105 => 64
    | 0x0106 => 128
    | _ => 0)

/-- A completion code in VAT_ERR_STATUS and VAT_ERR_INFO. DESIGN CHOICE (log 68): CODE takes 0x0701 of a cancelled operation
too, since R132 sets OP_ERROR for it; R133 says a code of block 0x01. -/
def vatErr (t : Vat) (flow code : Nat) : Vat :=
  if code = 0 then t else { t with regs := errSet t.regs (vatErrMask code) (errInfo flow code) 0 }

/-- The vat is behind a rind or out of service. -/
def vatAway (t : Vat) : Bool := t.st == .fenced || t.st == .outOfService

def vatComplete (x : Wheel) (v : Nat) : Wheel :=
  let t := vatOf x v
  match t.op, t.fin with
  | some op, some f =>
    if t.closed || t.ring.any (fun r => sameRun r.op (some op)) || putsOpen x ⟨1, v⟩ || vatAway t then x
    else onVat (returnPorts x v t.prog) v (fun t =>
      vatErr { t with closed := true, st := .run, slices := t.slices.map (sliceUsed x (some op) t.record) } op.flow f.code)
  | _, _ => x

/-- Port accesses of the bank that R111 refused are counted in VAT_BANK_CONFLICTS (R128): how many is the clock's, so an
open number is added when the operation completes (log 10). -/
def bankConflicts (t : Vat) (n : Nat) : Vat := { t with regs := bump t.regs 6 n }

/-- VAT_OPERATION_COMPLETE. -/
def execVatOperationComplete (w : Fin 8) (v : Fin 32) (s : State) : Host.Outcome State Fault Refusal :=
  let s1 := onWheel s w (fun x => vatComplete x v)
  if (vatOf (wheelOf s1 w) v).closed && !(vatOf (wheelOf s w) v).closed then
    .next { onWheel s1 w (fun x => onVat x v (fun t => bankConflicts t (Config.free s.free).toNat)) with free := s.free + 1 }
  else .next s1

/-! ## Save (R122, R123) -/

/-- The 12-byte entries of a tile in output order, and its flag plane (R106, R123). -/
def tileBytes (t : Tile) : List Byte := (upto 4096).flatMap (fun i => leBytes 12 (tileOut t i).w.toNat)
def flagBytes (t : Tile) : List Byte :=
  (upto 2048).map (fun i => BitVec.ofNat 8 ((tileOut t (2 * i)).flags.toNat + 16 * (tileOut t (2 * i + 1)).flags.toNat))

/-- A tile's part of the tile position (Pre-emption and the program): its configuration, its counts and state, and the
operands of its last MANC. -/
def tilePos (t : Tile) : List Byte :=
  let m := t.manc.getD ⟨0, 0, 0, 0⟩
  leBytes 4 t.cfg.toNat ++ leBytes 4 t.count ++ leBytes 4 t.nextk
    ++ leBytes 1 (b2n t.anchored + 2 * b2n t.short + 4 * b2n t.manc.isSome) ++ leBytes 1 m.ta ++ leBytes 1 m.tb
    ++ leBytes 4 m.i0 ++ leBytes 4 m.j0

/-- The tile position: both tiles', the indices an interrupted MMA has applied, the counts of the hoop ports, the last MCVT
control word and whether the staging buffer is valid. -/
def posBytes (p : VatProg) (mma : Nat) : List Byte :=
  tilePos p.c0 ++ tilePos p.c1 ++ leBytes 4 mma
    ++ (upto 4).map (fun q => BitVec.ofNat 8 (inPort p q).taken.length)
    ++ (upto 4).map (fun q => BitVec.ofNat 8 (outPort p q).got.length)
    ++ (match p.staging with
      | some g => leBytes 2 (g.ty + 256 * b2n g.inf + 512 * g.tile + 1024)
      | none => leBytes 2 0)

/-- The save area without its CRC (R123). The order within the 508 bytes at 0x1_B000 is the model's (log 17): no other unit
reads it. -/
def saveBytes (p : VatProg) (op : OpRef) (mma : Nat) : List Byte :=
  tileBytes p.c0 ++ tileBytes p.c1 ++ flagBytes p.c0 ++ flagBytes p.c1
    ++ (upto 2048).flatMap (fun k => leBytes 4 (tget 0 p.v k).toNat)
    ++ takePad 0 508 ((upto 32).flatMap (fun k => leBytes 4 (sGet p k).toNat)
        ++ (upto 16).flatMap (fun k => leBytes 8 (aGet p k).toNat)
        ++ (upto 8).flatMap (fun k => leBytes 8 (pGet p k).toNat)
        ++ leBytes 4 p.pc ++ leBytes 4 op.opid ++ leBytes 4 op.iter ++ leBytes 4 op.flow ++ posBytes p mma)

/-- The save area with its CRC-32C (R122 step 4). -/
def saveArea (p : VatProg) (op : OpRef) (mma : Nat) : List Byte :=
  let b := saveBytes p op mma
  b ++ leBytes 4 (crc32c b)

/-- The indices that an interrupted MMA has applied. -/
def mmaDone (i : Option Issue) : Nat := match i with
  | some i => i.mma
  | none => 0

/-- The bank offset of save slot k: the slots occupy the top of the bank (R145). -/
def slotOffset (saveSlots k : Nat) : Nat := visibleEnd saveSlots + k * saveSlotBytes

/-- The lowest free save slot of a vat (R121). -/
def freeSlot (x : Wheel) (v : Nat) : Option Nat :=
  (upto x.saveSlots).find? (fun k => !((vatOf x v).saved.any (fun s => s.1 == k)))

/-- Start a save: the area is written to the slot, and the vat enters SAVE (R122). -/
def startSave (x : Wheel) (v k : Nat) (yielded : Bool) : Wheel :=
  let t := vatOf x v
  match t.op with
  | none => x
  | some op =>
    let x1 := caveStore x (bankAddr v (slotOffset x.saveSlots k)) (saveArea t.prog op (mmaDone t.issue))
    onVat x1 v (fun t =>
      { t with
        saved := tins k { op := op, prog := t.prog, issue := t.issue, wait := t.wait, yielded := yielded, irrev := t.irrev, record := t.record } (tdel t.saved k)
        st := .save, saving := some (k, yielded)
        regs := bump (bump t.regs 3 868) (if yielded then 4 else 5) 1 })

/-- The vat may stop for a save: between bundles, or waiting in HANDLE_WAIT (R120, R122), its operation not ended. -/
def atBoundary (t : Vat) : Bool :=
  t.op.isSome && t.started && t.fin.isNone && !t.closed && t.saving.isNone
    && ((t.st == .run && t.issue.isNone && t.wait.isNone)
        || (t.st == .handleWait && (match t.issue with
            | some i => decide (i.done.length = 4)
            | none => true)))

/-- The vat is inside an MMA: the other three slots of the bundle have taken effect, and the matrix slot's MMA has not
ended. -/
def insideMma (t : Vat) : Bool :=
  t.op.isSome && t.started && t.fin.isNone && !t.closed && t.saving.isNone && t.st == .run && t.wait.isNone
    && (match t.issue with
      | some i => decide (i.done.length = 3) && !(i.done.contains 1) && slOp (bundleSlot (tget 0 t.istore t.prog.pc) 1) == 0x04
      | none => false)

/-- The indices of an MMA after which it may stop part-way: a tile boundary, every 256 indices of its tile (R120); for an
urgent interrupt any index (R122), on a BF16 tile the end of a chunk of 32. -/
def mmaStops (t : Tile) (k0 cnt : Nat) (urgent : Bool) : List Nat :=
  ((upto cnt).filter (fun j => decide (0 < j) && (
    if urgent then tileKind t != some .bf16 || (k0 + j) % 32 == 0 else (t.count + j) % 256 == 0)))

/-- Run the MMA in issue up to one of its stops; which of them the clock decides, and the model leaves it free. -/
def mmaPart (x : Wheel) (v : Nat) (urgent : Bool) (pick : Nat) : Option Wheel :=
  let t := vatOf x v
  match t.issue with
  | none => none
  | some i =>
    let w := bundleSlot (tget 0 t.istore t.prog.pc) 1
    let n := slD w
    let c : VCtx := ⟨x, v, i.snap, i.next, i.mma⟩
    let k0 := (vS c (imm5 w 1)).toNat + i.mma
    let stops := mmaStops (tileGet i.snap n) k0 ((vS c (imm5 w 2)).toNat - i.mma) urgent
    match stops[pick % stops.length]? with
    | none => none
    | some j =>
      match mmaRange n (slFA w) (slFB w) (slFC w) (imm5 w 0) k0 j c with
      | .ok c' =>
        some (onVat c'.x v (fun t =>
          { t with issue := t.issue.map (fun i => { i with snap := tileSet i.snap n (tileGet t.prog n), mma := i.mma + j }) }))
      | _ => none

/-- The interrupting operation has priority 7, the urgent level (R122). -/
def urgentIntr (x : Wheel) (e : Nat × Nat × Nat) : Bool :=
  match findOp x.rnt e.1 e.2.1 with
  | some o => o.prio == 7
  | none => false

/-- PREEMPTION: an outstanding work interrupt takes effect at a boundary when a save slot is free (R121, R122): between
bundles, or part-way through an MMA (R157). -/
def vatPreempt (x : Wheel) (v pick : Nat) : Wheel :=
  match x.rnt.intr.find? (fun e => e.1 == ⟨1, v⟩), freeSlot x v with
  | some e, some k =>
    if atBoundary (vatOf x v) then startSave x v k false
    else if insideMma (vatOf x v) then
      match mmaPart x v (urgentIntr x e.2) pick with
      | some y => startSave y v k false
      | none => x
    else x
  | _, _ => x

def execPreemption (w : Fin 8) (v : Fin 32) (s : State) : Host.Outcome State Fault Refusal :=
  let inside := insideMma (vatOf (wheelOf s w) v)
  let pick := if inside then (Config.free s.free).toNat else 0
  .next { onWheel s w (fun x => vatPreempt x v pick) with free := if inside then s.free + 1 else s.free }

/-- A ready instance that this vat can take (R118, R429). -/
def readyFor (x : Wheel) (v : Nat) : List (OpRec × Inst) :=
  (ranked x).filter (fun p => p.1.cls == 1 && (match p.2.st with
    | .waiting => (p.1.any || p.1.target == v) && (flowOf x.rnt p.1.flow).st == .openF
        && !((flowOf x.rnt p.1.flow).atomic && flowBusy x.rnt p.1.flow) && !(sliceWaits x p.1.addr v)
    | .saved u y => u == v && (!y || yieldedReady x p.2)
    | _ => false))

/-- The head of the hoop a waiting HTAKE watches. -/
def waitHoop (t : Vat) : Option Nat :=
  match t.wait with
  | some w => if w.take then (inPort t.prog w.port).hoop else (outPort t.prog w.port).hoop
  | none => none

/-- A handle reaches a waiting HTAKE: it is taken and the operation goes on (R118, R168). `n` clocks of HANDLE_WAIT were not
counted yet (R128). -/
def deliverHandle (x : Wheel) (v n : Nat) : Wheel :=
  let t := vatOf x v
  match t.wait, waitHoop t with
  | some wt, some h =>
    if !wt.take then x else
      match (hoopOf x h).q with
      | [] => x
      | hd :: r =>
        let c : VCtx := ⟨x, v, t.prog, 0, 0⟩
        if !(inOwnBank c hd.addr (bufBytes (hoopOf x h))) then raiseCond x v 0x0148 0
        else
          let c' := takeHandle { c with x := onHoop x h (fun y => { y with q := r }) } wt.port wt.d wt.fb hd
          bundleEnd (onVat c'.x v (fun t => { t with wait := none, st := .run, regs := bump t.regs 2 n })) v
  | _, _ => x

/-- A released buffer reaches a waiting HGET (R382). -/
def deliverBuffer (x : Wheel) (v : Nat) : Wheel :=
  let t := vatOf x v
  match t.wait, waitHoop t with
  | some wt, some h =>
    if wt.take then x else
      match (hoopOf x h).free with
      | [] => x
      | i :: _ =>
        let c : VCtx := ⟨x, v, t.prog, 0, 0⟩
        if !(inOwnBank c (bufAddr (hoopOf x h) i) (bufBytes (hoopOf x h))) then raiseCond x v 0x0148 0
        else
          let c' := giveBuffer c wt.port wt.d h i
          bundleEnd (onVat c'.x v (fun t => { t with wait := none, st := .run })) v
  | _, _ => x

/-- YIELD_WAIT_EXPIRY (R118, R119, R121): a handle that has arrived is taken and the vat does not yield; otherwise it
yields when a save slot is free and Rennet holds ready work for it, and else keeps waiting. -/
def vatYield (x : Wheel) (v : Nat) : Wheel :=
  let t := vatOf x v
  if t.st ≠ .handleWait ∨ atBoundary t = false then x
  else
    let x1 := onVat x v (fun t => { t with regs := bump t.regs 2 x.yieldWait })
    match waitHoop t with
    | none => x1
    | some h =>
      if !((hoopOf x h).q.isEmpty) then deliverHandle x1 v 0
      else if (readyFor x v).isEmpty then x1
      else match freeSlot x v with
        | none => x1
        | some k => startSave x1 v k true

def execYieldWaitExpiry (w : Fin 8) (v : Fin 32) (s : State) : Host.Outcome State Fault Refusal :=
  .next (onWheel s w (fun x => vatYield x v))

/-- The slot in which an operation is saved or being saved. -/
def savedSlot (t : Vat) (op : Option OpRef) : Option Nat := (t.saved.find? (fun s => sameRun (some s.2.op) op)).map (·.1)

/-- How a saved operation will end at its restore. -/
def endSaved (t : Vat) (k : Nat) (f : Ended) : Vat :=
  { t with saved := t.saved.map (fun s => if s.1 = k then (s.1, { s.2 with fault := some f }) else s) }

/-- The operation whose save has ended was cancelled meanwhile (R125). -/
def saveCancelled (t : Vat) (k : Nat) : Option Ended :=
  match t.saved.find? (fun s => s.1 == k) with
  | some (_, sv) => sv.fault.filter (fun f => f.code == 0x0701)
  | none => none

/-- SAVE_DONE: the saved instance is bound to its vat (R428), the vat is free, and Rennet dispatches the instance ranked
first for it (R427, R429). A cancellation that came during the save takes effect: the slot is freed, and the operation
ends with 0x0701 (R125). -/
def saveDone (c : RCtx) (v : Nat) : RCtx :=
  let t := vatOf c.x v
  match t.op, t.saving with
  | some op, some (k, yielded) =>
    if t.st ≠ .save then c
    else if (saveCancelled t k).isSome then
      { c with x := onVat c.x v (fun t =>
        { t with st := .run, saving := none, saved := t.saved.filter (fun s => s.1 ≠ k), issue := none, wait := none
                 fin := saveCancelled t k }) }
    else
    let c1 := rOn c (fun r =>
      let r' := match findInst r op.ctx op.opid op.iter with
        | some i => setInst r { i with st := .saved v yielded }
        | none => r
      { r' with intr := r'.intr.filter (fun e => e.1 ≠ ⟨1, v⟩) })
    let c2 := traceEv c1 5 op.prio 1 v op.flow op.iter op.opid 0
    let c3 := { c2 with x := onVat c2.x v (fun t =>
      { t with op := none, st := .idle, saving := none, started := false, issue := none, wait := none, prog := {} }) }
    match (readyFor c3.x v).filter (fun p => !(p.2.ctx == op.ctx && p.2.opid == op.opid && p.2.iter == op.iter)) with
    | [] => c3
    | (o, i) :: _ => dispatchTo c3 ⟨1, v⟩ o i
  | _, _ => c

/-! ## Restore (R124, R172) -/

/-- The save area of a slot is intact: no uncorrectable word, and its CRC-32C matches. -/
def areaOk (x : Wheel) (v k : Nat) : Bool :=
  let a := bankAddr v (slotOffset x.saveSlots k)
  let bs := caveRead x a saveSlotBytes
  !(caveUncorr x a saveSlotBytes) && crc32c (bs.take (saveSlotBytes - 4)) == leNat (bs.drop (saveSlotBytes - 4))

/-- Repeat the last MANC of an anchored exact tile (R124, R172): the anchors come from the scales as they lie in the bank
now; W and the flags stay. The anchors that only MADDP has set are kept (log 69). -/
def repeatManc (c : VCtx) (n : Nat) : Except (Nat × Nat) VCtx :=
  let t := tileGet (vNow c) n
  match t.manc with
  | none => .ok c
  | some m =>
    if !t.anchored || tileKind t != some .exact then .ok c
    else match matDesc c m.ta, matDesc c m.tb with
      | .ok da, .ok db =>
        match prePass c t da db m.i0 m.j0 with
        | .error e => .error e
        | .ok ls =>
          let c1 := putTile c n { t with outs := outsOf ((upto 4096).map (fun i => { tileOut t i with anchor := some (nth 0 ls i) })) }
          .ok (correctScales (correctScales c1 da ((upto (tileRows t)).map (· + m.i0))) db ((upto (tileCols t)).map (· + m.j0)))
      | .error e, _ => .error e
      | _, .error e => .error e

/-- Repeat the last MCVT where the staging buffer was valid (R172). -/
def repeatMcvt (c : VCtx) : Except (Nat × Nat) VCtx :=
  match (vNow c).staging with
  | none => .ok c
  | some g =>
    let t := tileGet (vNow c) g.tile
    match tileKind t with
    | none => .error (0x0143, 0)
    | some k =>
      if tileParity t then .error (0x0102, 0)
      else .ok (vProg c (fun r => { r with staging := some (mcvtStaging t k g.tile g.ty g.inf) }))

/-- What a restore repeats before the program goes on: the pre-pass of both tiles and the last MCVT. -/
def restoreRepeat (x : Wheel) (v : Nat) : Except (Nat × Nat) Wheel :=
  let c : VCtx := ⟨x, v, (vatOf x v).prog, 0, 0⟩
  match repeatManc c 0 with
  | .error e => .error e
  | .ok c1 =>
    match repeatManc c1 1 with
    | .error e => .error e
    | .ok c2 => (repeatMcvt c2).map (fun c3 => c3.x)

/-- The code that the read of a save area gives: 0x0101 for an uncorrectable word (R112), 0x0104 for a CRC that does not
match (R124). -/
def areaCode (x : Wheel) (v k : Nat) : Nat :=
  if caveUncorr x (bankAddr v (slotOffset x.saveSlots k)) saveSlotBytes then 0x0101
  else if areaOk x v k then 0 else 0x0104

/-- The vat as the slot restores it, the slot freed. -/
def restored (t : Vat) (k : Nat) (sv : SavedOp) : Vat :=
  { t with
    saved := t.saved.filter (fun s => s.1 ≠ k), restoring := none, started := true, closed := false, record := sv.record
    prog := sv.prog, issue := sv.issue, wait := sv.wait, irrev := sv.irrev
    st := if sv.wait.isSome then .handleWait else .run
    regs := bump t.regs 3 434
    fin := none }

/-- The tiles that a restore recovered, as the rest of the bundle in issue reads them. -/
def issueTiles (t : Vat) : Vat :=
  { t with issue := t.issue.map (fun i => { i with snap := { i.snap with c0 := t.prog.c0, c1 := t.prog.c1, staging := t.prog.staging } }) }

/-- RESTORE: the area is read and checked, the pre-pass and the last MCVT are repeated (R124, R172), and the operation
continues from its saved position; its waiting HTAKE is issued again (R168). What fails completes it with its code, and the
slot is freed. -/
def vatRestore (x : Wheel) (v : Nat) : Wheel :=
  let t := vatOf x v
  match t.op, t.restoring with
  | some _, some k =>
    if t.st ≠ .restore then x else
      match t.saved.find? (fun s => s.1 == k) with
      | none => x
      | some (_, sv) =>
        let x0 := caveCorrect (caveShow x (bankAddr v 0) bankBytes) (bankAddr v (slotOffset x.saveSlots k)) saveSlotBytes
        let x1 := onVat x0 v (fun t => restored t k sv)
        let code := areaCode x v k
        if code ≠ 0 then raiseAt x1 v code sv.prog.pc 0
        else match sv.fault with
          | some f => raiseAt x1 v f.code f.place f.value
          | none =>
            match restoreRepeat x1 v with
            | .error (e, j) => raiseAt x1 v e sv.prog.pc j
            | .ok x2 => deliverHandle (onVat x2 v issueTiles) v 0
  | _, _ => x

def execRestore (w : Fin 8) (v : Fin 32) (s : State) : Host.Outcome State Fault Refusal :=
  .next (onWheel s w (fun x => vatRestore x v))

/-! ## The ring (R113–R116, R167) -/

def nextVat (v : Nat) : Nat := (v + 1) % 32

/-- Two ranges of a bank meet. -/
def sliceMeets (a n b m : Nat) : Bool := decide (a < b + m) && decide (b < a + n)

/-- The operation on vat v reads the range through a descriptor, or the vat's ring-out port sends from it: the vat has
not finished with that buffer (R114). -/
def bufferInUse (x : Wheel) (v dst len : Nat) : Bool :=
  let t := vatOf x v
  (t.op.isSome && t.started && !t.closed && sliceOverlap x t.record dst len)
    || (match t.ring with
      | some r => sliceMeets r.src r.len dst len
      | none => false)

/-- Vat v holds a ring credit of its neighbour for a range of the neighbour's bank: the neighbour has released whatever
slice lay there and does not use the buffer (R21, R114). -/
def ringCredit (x : Wheel) (n dst len : Nat) : Bool :=
  !((vatOf x n).slices.any (fun q => sliceMeets q.dst q.len dst len)) && !(bufferInUse x n dst len)

/-- The ring transfer of a vat ends with a code: it is that of the operation whose RSEND started it, running or saved
(R112, R116, R167), and carries the index of that bundle (R169). -/
def ringFailed (x : Wheel) (v : Nat) (r : RingOut) (code : Nat) : Wheel :=
  let x1 := onVat x v (fun t => { t with ring := none })
  match savedSlot (vatOf x v) r.op with
  | some k => onVat x1 v (fun t => endSaved t k ⟨code, r.pc, 0⟩)
  | none => if sameRun r.op (vatOf x v).op then raiseAt x1 v code r.pc 0 else x1

/-- RING_TRANSFER_ARRIVAL: the last byte of the transfer of vat v arrives in the next vat's bank. The receiver must hold
a credit for the buffer; the slice is marked arrived (R114). DESIGN CHOICE (log 70): the transfer carries the bytes that its
source holds now; the spec does not say what leaves when the program overwrites the source meanwhile. -/
def ringArrive (x : Wheel) (v : Nat) : Wheel :=
  let t := vatOf x v
  let n := nextVat v
  match t.ring with
  | none => x
  | some r =>
    let y := vatOf x n
    if !(ringCredit x n r.dst r.len) || vatAway y then x
    else if caveUncorr x (bankAddr v r.src) r.len then
      ringFailed x v r 0x0101
    else
      let x0 := caveCorrect x (bankAddr v r.src) r.len
      let x1 := caveWrite x0 (bankAddr n r.dst) (caveRead x (bankAddr v r.src) r.len)
      let x2 := onVat x1 v (fun t => { t with ring := none })
      onVat x2 n (fun y => { y with slices := y.slices ++ [{ dst := r.dst, len := r.len }] })

def execRingTransferArrival (w : Fin 8) (v : Fin 32) (s : State) : Host.Outcome State Fault Refusal :=
  .next (onWheel s w (fun x => ringArrive x v))

/-- The vat has finished with a slice (R114): the operation that read or sent it has completed, and the buffer is not in
use. -/
def sliceDone (x : Wheel) (v : Nat) (q : Slice) : Bool := q.used && !(bufferInUse x v q.dst q.len)

/-- RING_CREDIT: the vat releases the slice buffer at an offset of its bank, once it has finished with the slice
(R114, R167). -/
def ringCreditAt (x : Wheel) (v off : Nat) : Wheel :=
  match (vatOf x v).slices.find? (fun q => q.dst == off) with
  | some q => if sliceDone x v q then onVat x v (fun t => { t with slices := t.slices.erase q }) else x
  | none => x

def execRingCredit (w : Fin 8) (v : Fin 32) (off : Fin 2621440) (s : State) : Host.Outcome State Fault Refusal :=
  .next (onWheel s w (fun x => ringCreditAt x v off))

/-- RING_FAULT on the transfer of vat v (R116): a receiver that is away ends the sending operation with 0x0105; a sender
that is away leaves the receiver's slice failed. -/
def ringFault (x : Wheel) (v : Nat) : Wheel :=
  let t := vatOf x v
  let n := nextVat v
  match t.ring with
  | none => x
  | some r =>
    if vatAway (vatOf x n) && !(vatAway t) then
      ringFailed x v r 0x0105
    else if vatAway t then
      onVat (onVat x v (fun t => { t with ring := none })) n (fun y =>
        { y with slices := y.slices ++ [{ dst := r.dst, len := r.len, failed := true }] })
    else x

/-- The receiver of vat v's transfer is away, and vat v is not: the transfer is answered ABSENT (R617). -/
def ringAbsent (x : Wheel) (v : Nat) : Bool := (vatOf x v).ring.isSome && vatAway (vatOf x (nextVat v)) && !(vatAway (vatOf x v))

/-- RING_FAULT with the answer counted in the window of the wheel's die. -/
def ringFaultOn (s : State) (w v : Nat) : State :=
  onWheel (if ringAbsent (wheelOf s w) v then absentAt s (w / 4) (59 * (w % 4) + nextVat v) else s) w (fun x => ringFault x v)

def execRingFault (w : Fin 8) (v : Fin 32) (s : State) : Host.Outcome State Fault Refusal :=
  .next (ringFaultOn s w v)

/-! ## Cancellation of a running vat operation (R125) -/

/-- Complete the bundle in issue (R125): the slots that have not taken effect do so, but an MMA applies no further index
(log 71). -/
def finishBundle (x : Wheel) (v : Nat) : Wheel :=
  (upto 4).foldl (fun x k =>
    let t := vatOf x v
    let w := bundleSlot (tget 0 t.istore t.prog.pc) k
    match t.issue with
    | none => x
    | some i =>
      if i.done.contains k || t.fin.isSome || (k == 1 && slOp w == 0x04) then x
      else runSlot x v k w (slotEff k w)) x

/-- Rennet cancels the operation of a vat (R125): no further bundle issues, the issued one completes, and the operation ends
with 0x0701; its handles and buffers go back when it completes. One that is being restored ends without its restore, and
one that is being saved when the save has ended. -/
def vatCancel (x : Wheel) (v : Nat) : Wheel :=
  let t := vatOf x v
  let f := fun (p : VatProg) => some (Ended.mk 0x0701 p.pc 0)
  if t.op.isNone || t.fin.isSome || vatAway t then x
  else match t.saving, t.restoring with
    | some (k, _), _ => onVat x v (fun t => endSaved t k ⟨0x0701, t.prog.pc, 0⟩)
    | none, some k =>
      match t.saved.find? (fun s => s.1 == k) with
      | some (_, sv) => onVat x v (fun t => { restored t k sv with st := .run, issue := none, wait := none, fin := f sv.prog })
      | none => x
    | none, none =>
      onVat (finishBundle x v) v (fun t => { t with fin := f t.prog, issue := none, wait := none, started := true, st := .run })

end Sys2Proof.Machine
end

