-- ==== Sys2Proof/Machine/Records.lean ====
section
/-!
DEFINITION. Sys2Proof/Machine/Records.lean: what the module does with host memory and how it reports: reads and writes of
a port's host memory (R400, R529), the errors of a port (R545), MSI-X (R536), and completion records with their rings and
stores (R531–R536).
-/

namespace Sys2Proof.Machine

def portOf (s : State) (p : Nat) : Port := tget {} s.ports p
def setPort (s : State) (p : Nat) (x : Port) : State := { s with ports := tset {} s.ports p x }
def onPort (s : State) (p : Nat) (f : Port → Port) : State := setPort s p (f (portOf s p))
def setCtx (s : State) (c : Nat) (x : Ctx) : State := { s with ctxs := tset {} s.ctxs c x }
def onCtx (s : State) (c : Nat) (f : Ctx → Ctx) : State := setCtx s c (f (ctxOf s c))
def hostOf (s : State) (p : Nat) : HostMem := tget {} s.hosts p

/-- A port's host can be reached: its link is up and the port is not lost (R537). -/
def portReach (s : State) (p : Nat) : Bool := (portOf s p).up && !(portOf s p).lost

/-- Read host memory through a port; none is an error completion, poisoned data or no completion. -/
def hostRead (s : State) (p a n : Nat) : Option (List Byte) :=
  let h := hostOf s p
  if !(portReach s p) || h.bad.any (fun b => decide (a ≤ b) && decide (b < a + n)) then none
  else some (rdMem 0 h.cells a n)

/-- Write host memory through a port; none where the port is lost (R537). -/
def hostWrite (s : State) (p a : Nat) (bs : List Byte) : Option State :=
  if portReach s p then
    some { s with hosts := tset {} s.hosts p { hostOf s p with cells := wrMem 0 (hostOf s p).cells a bs } }
  else none

/-- A wheel's region and memory are visible through a port: assigned to it or shared (R514, R519). -/
def wheelVisible (s : State) (p w : Nat) : Bool := nth 3 s.assign w == 2 || nth 3 s.assign w == p

/-! ## Port statistics, MSI-X and errors -/

/-- HST_ statistics counter k (0x100 + 8k, flag k of HST_STAT_OVF). -/
def hostBump (s : State) (p k : Nat) : State := onPort s p (fun x => { x with regs := bumpAt x.regs 0x020 k (0x100 + 8 * k) 1 })

/-- Send a vector's message; a masked vector becomes pending (R536). -/
def msixSend (s : State) (p vec : Nat) : State :=
  if (portOf s p).unmasked.contains vec && (portOf s p).up then
    hostBump { s with out := s.out ++ [.msix p vec] } p 4
  else onPort s p (fun x => { x with pba := insertNat vec x.pba })

/-- Set bits of HST_ERR_STATUS; a bit that changes from 0 to 1 sends the vector of HST_PORT_IRQ (R536). -/
def hostErr (s : State) (p mask ctx code seq : Nat) : State :=
  let r := (portOf s p).regs
  let fresh := (regGet r 0x00C ||| mask) != regGet r 0x00C
  let s1 := onPort s p (fun x => { x with regs := errSet x.regs mask (ctx * 2 ^ 16 + code) seq })
  if fresh && bitAt (regGet r 0x060) 31 then msixSend s1 p (bits (regGet r 0x060) 10 0) else s1

/-! ## Completion records -/

/-- The 32 bytes of a record (R532). -/
def cplBytes (ctx phase : Nat) (c : Cpl) : List Byte :=
  leBytes 8 (c.seq % 2 ^ 32 * 2 ^ 32 + c.code % 2 ^ 16 * 2 ^ 16 + c.kind % 16 * 16 + phase % 2)
    ++ leBytes 8 (ctx % 1024 * 2 ^ 54 + c.flow % 2 ^ 14 * 2 ^ 40 + c.iter % 2 ^ 16 * 2 ^ 24 + c.opid % 2 ^ 24)
    ++ leBytes 8 c.d0 ++ leBytes 8 c.d1

/-- The store holds fewer than 256 records (R535). -/
def recRoom (s : State) (ctx : Nat) : Bool := decide ((ctxOf s ctx).held.length < 256)

/-- The context's ring is written: an owner that can be reached, not orphaned (R535, R537, R540). -/
def ringOpen (s : State) (ctx : Nat) : Bool :=
  let x := ctxOf s ctx
  (x.st == .openC || x.st == .closing) && !x.gone && portReach s x.owner

/-- Write the first held record into the ring where there is room, and send the message it brings due (R531, R536). -/
def writeRec (s : State) (ctx : Nat) : Option State :=
  let x := ctxOf s ctx
  match x.held with
  | [] => none
  | c :: r =>
    let n := x.tail
    if ringOpen s ctx && decide ((n + 2 ^ 32 - x.head) % 2 ^ 32 < 2 ^ x.log2) then
      (hostWrite s x.owner (x.base + 32 * (n % 2 ^ x.log2)) (cplBytes ctx ((n / 2 ^ x.log2 + 1) % 2) c)).map (fun s1 =>
        let s2 := hostBump s1 x.owner 3
        let due := bitAt x.irq 31 && decide (max 1 (bits x.irq 23 16) ≤ x.since + 1)
        let s3 := setCtx s2 ctx { x with held := r, tail := (n + 1) % 2 ^ 32, since := if due then 0 else x.since + 1, stall := false }
        if due then msixSend s3 x.owner (bits x.irq 10 0) else s3)
    else none

def flushGo (ctx : Nat) : Nat → State → State
  | 0, s => s
  | n + 1, s =>
    match writeRec s ctx with
    | none => s
    | some s1 => flushGo ctx n s1

/-- Write every held record that the ring has room for. -/
def flushRing (s : State) (ctx : Nat) : State := flushGo ctx ((ctxOf s ctx).held.length) s

/-- Produce a record: it is held, and written as soon as the ring allows. A store that is full sets RING_STALL. -/
def emitRec (s : State) (ctx : Nat) (c : Cpl) : State :=
  if (ctxOf s ctx).st = .free then s
  else
    let s1 := flushRing (onCtx s ctx (fun x => { x with held := x.held ++ [c] })) ctx
    if recRoom s1 ctx ∨ (ctxOf s1 ctx).stall then s1
    else hostErr (onCtx s1 ctx (fun x => { x with stall := true })) (ctxOf s1 ctx).owner 0x40 ctx 0 0

/-- The event record of a flow counter that saturated (R439, R541). -/
def satEvent (s : State) (ctx flow k : Nat) : State :=
  emitRec s ctx { kind := 5, code := 0x0912, d0 := k * 2 ^ 16 + flow % 2 ^ 14 }

/-- MSIX_TIMER_EXPIRY (R536): the timer of a context's first record since its last message. -/
def msixTimer (s : State) (ctx : Nat) : State :=
  let x := ctxOf s ctx
  if bitAt x.irq 31 && decide (0 < x.since) && x.st != .free then
    msixSend (setCtx s ctx { x with since := 0 }) x.owner (bits x.irq 10 0)
  else s

def execMsixTimerExpiry (x : Fin 1024) (s : State) : Host.Outcome State Fault Refusal := .next (msixTimer s x)

end Sys2Proof.Machine
end

