-- ==== Sys2Proof/Machine/Whey.lean ====
section
/-!
DEFINITION. Sys2Proof/Machine/Whey.lean: what a stream channel does with one unit of its transfer: translation (R398–R400),
index streams (R389, R390), sources and destinations (R386), buffers and credits (R391, R394), faults (R401) and failures
(R404). A unit is one element, or the two elements of a byte for 4-bit types.
-/

namespace Sys2Proof.Machine

def chOf (s : State) (w c : Nat) : Chan := chanOf (wheelOf s w) c
def onChan (s : State) (w c : Nat) (f : Chan → Chan) : State := onWheel s w (fun x => setChan x c (f (chanOf x c)))
def onWhey (s : State) (w : Nat) (f : Whey → Whey) : State := onWheel s w (fun x => { x with whey := f x.whey })

/-- WHY_ statistics counter k (0x040 + 8k). -/
def wheyBump (s : State) (w k n : Nat) : State := onWhey s w (fun y => { y with regs := bump y.regs k n })
def wheyErr (s : State) (w mask flow code detail : Nat) : State :=
  onWhey s w (fun y => { y with regs := errSet y.regs mask (errInfo flow code) detail })

/-- The unit that binds a channel to a hoop of its own wheel, and to a hoop of another wheel (R394). -/
def chUnit (c : Nat) : UnitId := ⟨5, c⟩
def rchUnit (w c : Nat) : UnitId := ⟨8, w * 128 + c⟩

/-- A number of clocks that no rule fixes, for a clock-count statistic (R5 gives the counter; log 10). -/
def clocksOf (s : State) : Nat := (Config.free s.free).toNat

/-- A stream leaves CREDIT_WAIT: the clocks it waited join WHY_CREDIT_WAIT_CLOCKS (R407). -/
def creditWaited (s : State) (w c : Nat) : State :=
  if (chOf s w c).st = .creditWait then { wheyBump s w 7 (clocksOf s) with free := s.free + 1 } else s

def hostArmed (ch : Chan) : Bool := match ch.own with
  | some (.cmd _ _) => true
  | _ => false

/-! ## The stream descriptor (R384) -/

def sdF (sd : List Byte) (o hi lo : Nat) : Nat := bits (leAt sd o 8) hi lo
def sdSrcKind (sd : List Byte) : Nat := sdF sd 0 59 58
def sdDstKind (sd : List Byte) : Nat := sdF sd 0 57 56
def sdIxs (sd : List Byte) : Bool := bitAt (leAt sd 0 8) 55
def sdIxFmt (sd : List Byte) : Nat := sdF sd 0 54 53
def sdSrcHoop (sd : List Byte) : Nat := sdF sd 0 41 32
def sdDstHoop (sd : List Byte) : Nat := sdF sd 0 31 22
def sdDstWheel (sd : List Byte) : Nat := sdF sd 0 21 19
def sdIxHoop (sd : List Byte) : Nat := sdF sd 0 18 9
def sdSrcDesc (sd : List Byte) : Nat := sdF sd 8 26 0
def sdBufBytes (sd : List Byte) : Nat := sdF sd 8 53 32
def sdDstDesc (sd : List Byte) : Nat := sdF sd 16 26 0
def sdNet (sd : List Byte) : Nat := sdF sd 24 13 0

/-- The reserved fields are zero; NET is a field of its own for DST_KIND NET alone (R490). -/
def sdReservedOk (sd : List Byte) : Bool :=
  sdF sd 0 52 42 == 0 && sdF sd 0 8 0 == 0 && sdF sd 8 63 54 == 0 && sdF sd 8 31 27 == 0 && sdF sd 16 63 27 == 0
    && (sdDstKind sd != 3 || sdF sd 24 63 14 == 0) && (sd.drop 32).all (· == 0)

def chSrcD (ch : Chan) : Desc := descOf ch.src
def chDstD (ch : Chan) : Desc := descOf ch.dst

/-- The elements of a unit and its bytes. -/
def unitElems (d : Desc) : Nat := if tyBits d.ty < 8 then 8 / tyBits d.ty else 1
def unitBytes (d : Desc) : Nat := if tyBits d.ty < 8 then 1 else tyBits d.ty / 8

/-! ## Translation (R398–R400) -/

/-- What a step of a stream gives: bytes and the state to go on from, a halt, or a failure with its code and value. -/
inductive WOut where
  | ok (s : State) (bs : List Byte)
  | halt (s : State)
  | fail (s : State) (code value : Nat)

/-- The walks in progress on a wheel; at most 16 (R399). -/
def walksNow (x : Wheel) : Nat := (x.whey.chans.filter (fun c => c.2.st == .walk)).length

def setRun (ch : Chan) (toDst : Bool) (r : Option Run) : Chan := if toDst then { ch with runW := r } else { ch with runR := r }

/-- The device physical address of a device virtual one, for the source or the destination side: from the run in progress,
from the Mould, or by a walk, for which the stream halts. The address is answered as a run. -/
def streamDev (s : State) (w c : Nat) (toDst : Bool) (va : Nat) (needR needW : Bool) : State × Option Run :=
  let ch := chOf s w c
  let sw := (wheelOf s w).mld.swept
  let cur := if ch.swept = sw then (if toDst then ch.runW else ch.runR) else none
  let go := fun (_ : Unit) =>
    match mouldRun (wheyBump s w 4 1) w ch.ctx va needR needW with
    | (s1, some run, _) =>
      (onChan s1 w c (fun y => setRun { (if y.swept = sw then y else { y with runR := none, runW := none }) with swept := sw }
        toDst (some run)), some run)
    | (s1, none, at_) =>
      if 16 ≤ walksNow (wheelOf s1 w) then (s1, none)
      else
        (onChan (wheyBump s1 w 5 1) w c (fun y =>
          { (if y.swept = sw then y else { y with runR := none, runW := none }) with
            swept := sw, st := .walk, missAddr := va, missDst := toDst, missWrite := needW, missRead := needR
            missAt := at_ }), none)
  match cur with
  | some r => if inRun r va && runAllows r needR needW then (s, some r) else go ()
  | none => go ()

/-- The address sent on a port for a host address: as it is, or under ATS through the run that the port returned; without
one, the stream asks for it (R400). -/
def streamHost (s : State) (w c : Nat) (toDst : Bool) (port a : Nat) (needR needW : Bool) : State × Option Nat :=
  if !(portOf s port).ats then (s, some a)
  else
    let ch := chOf s w c
    match (if toDst then ch.runW else ch.runR) with
    | some r =>
      if inRun r a && runAllows r needR needW then (s, some (runAddr r a))
      else (onChan s w c (fun y => { y with ats := true, missAddr := a, missDst := toDst, missWrite := needW, missRead := needR }), none)
    | none => (onChan s w c (fun y => { y with ats := true, missAddr := a, missDst := toDst, missWrite := needW, missRead := needR }), none)

/-- The stream code of a device code: an uncorrectable error or exhausted repeats in GDDR7 are 0x060D. -/
def streamCode (code : Nat) : Nat := if code = 0x0A01 ∨ code = 0x0A02 then 0x060D else code

/-- Read `n` bytes of a space for a stream. -/
def streamRead (s : State) (w c : Nat) (toDst : Bool) (space a n : Nat) (needW : Bool) : WOut :=
  if space = 0 then
    match streamDev s w c toDst a true needW with
    | (s1, none) => .halt s1
    | (s1, some r) =>
      match devRead s1 w (runAddr r a) n with
      | (s2, bs, 0) => .ok (wheyBump s2 w 0 n) bs
      | (s2, _, code) => .fail s2 (streamCode code) 0
  else
    match streamHost s w c toDst (space - 2) a true needW with
    | (s1, none) => .halt s1
    | (s1, some h) =>
      match hostRead s1 (space - 2) h n with
      | some bs => .ok (wheyBump s1 w 0 n) bs
      | none => .fail s1 0x0606 0

/-- Write bytes to a space for a stream. -/
def streamWrite (s : State) (w c : Nat) (space a : Nat) (bs : List Byte) (needR : Bool) : WOut :=
  if space = 0 then
    match streamDev s w c true a needR true with
    | (s1, none) => .halt s1
    | (s1, some r) =>
      match devWrite s1 w (runAddr r a) bs with
      | (s2, 0) => .ok (wheyBump s2 w 1 bs.length) []
      | (s2, code) => .fail s2 (streamCode code) 0
  else
    match streamHost s w c true (space - 2) a needR true with
    | (s1, none) => .halt s1
    | (s1, some h) =>
      match hostWrite s1 (space - 2) h bs with
      | some s2 => .ok (wheyBump s2 w 1 bs.length) []
      | none => .fail s1 0x0606 0

/-! ## Index streams (R389) -/

/-- The products of the sizes below dimension k, and of those from it on. -/
def sizesBelow (d : Desc) (k : Nat) : Nat := (d.size.take k).foldl (· * ·) 1
def sizesAbove (d : Desc) (k : Nat) : Nat := ((d.size.take d.rank).drop (k + 1)).foldl (· * ·) 1

/-- The index width, and where the indices begin in the index stream's bytes: none while the header is not complete or
where it is malformed (IX_FMT 1). -/
def ixShape (fmt n : Nat) (bs : List Byte) : Option (Nat × Nat) :=
  if fmt = 0 then some (4, 0)
  else
    let t := leAt bs 4 1
    if bs.length < 32 ∨ leAt bs 0 4 ≠ n ∨ (t ≠ 0x04 ∧ t ≠ 0x07) ∨ bits (leAt bs 0 8) 63 48 ≠ 0 ∨ leAt bs 8 8 ≠ 0 then none
    else some (if t = 0x04 then 4 else 2, 32)

/-- The bytes of a whole index stream of `n` indices. -/
def ixTotal (fmt n width : Nat) : Nat := if fmt = 0 then 4 * n else 32 + alignUp (n * width) 32

/-- The indices that `b` bytes of the stream supply. -/
def ixCount (fmt n width b : Nat) : Nat := if fmt = 0 then b / 4 else min n ((b - 32) / width)

/-- Take one index handle. -/
def ixTake (s : State) (w c : Nat) : WOut :=
  let ch := chOf s w c
  let h := sdIxHoop ch.sd
  let fmt := sdIxFmt ch.sd
  let n := dSize (chSrcD ch) (chSrcD ch).idxDim
  match (hoopOf (wheelOf s w) h).q with
  | [] => .halt s
  | hd :: r =>
    let s1 := onWheel s w (fun x => onHoop x h (fun y => { y with q := r }))
    let x := wheelOf s1 w
    let s2 := onWheel s1 w (fun x => caveCorrect x hd.addr hd.len)
    let bs := ch.ixBytes ++ caveRead x hd.addr hd.len
    let bad := match ixShape fmt n bs with
      | some (width, _) =>
        ch.ixTaken.any (fun t => decide (t.1.len % width ≠ 0)) || decide (hd.len % width ≠ 0)
          || decide (ixTotal fmt n width < bs.length) || (hd.last && decide (bs.length < ixTotal fmt n width))
      | none => hd.last || decide (32 ≤ bs.length)
    let e := match ixShape fmt n bs with
      | some (width, _) => ixCount fmt n width bs.length
      | none => 0
    let s3 := onChan s2 w c (fun y => { y with ixBytes := bs, ixLast := hd.last || hd.err, ixTaken := y.ixTaken ++ [(hd, e)] })
    if hd.len ≠ 0 ∧ caveUncorr x hd.addr hd.len then .fail s3 0x060E 0
    else if bad || hd.err then .fail s3 0x0608 0
    else .ok (wheyBump s3 w 0 hd.len) []

/-- Index word j of the index stream, taking handles until it is there. -/
def ixWord (w c j : Nat) : Nat → State → WOut
  | 0, s => .halt s
  | n + 1, s =>
    let ch := chOf s w c
    match ixShape (sdIxFmt ch.sd) (dSize (chSrcD ch) (chSrcD ch).idxDim) ch.ixBytes with
    | some (width, o) =>
      if o + (j + 1) * width ≤ ch.ixBytes.length then .ok s (takePad 0 4 ((ch.ixBytes.drop (o + j * width)).take width))
      else if ch.ixLast then .fail s 0x0608 0
      else match ixTake s w c with
        | .ok s1 _ => ixWord w c j n s1
        | r => r
    | none => match ixTake s w c with
      | .ok s1 _ => ixWord w c j n s1
      | r => r

/-- Take what is left of the index stream once every element is committed: it must end with LAST. -/
def ixFinish (w c : Nat) : Nat → State → WOut
  | 0, s => .halt s
  | n + 1, s =>
    let ch := chOf s w c
    if !(sdIxs ch.sd) || ch.ixLast then .ok s []
    else match ixTake s w c with
      | .ok s1 _ => ixFinish w c n s1
      | r => r

/-- Release the index handles whose elements are all committed (R389). -/
def ixRelease (s : State) (w c : Nat) : State :=
  let ch := chOf s w c
  let d := chSrcD ch
  let k := d.idxDim
  let p := sizesBelow d k
  let relPos := fun (b : Nat) => min (descCount d) ((sizesAbove d k - 1) * p * dSize d k + b * p)
  let (go, keep) := ch.ixTaken.partition (fun t => decide (relPos t.2 ≤ ch.pos))
  let h := sdIxHoop ch.sd
  let s1 := onWheel s w (fun x => go.foldl (fun x t => hoopRelease x h (bufIndex (hoopOf x h) t.1.addr)) x)
  onChan s1 w c (fun y => { y with ixTaken := keep, irrev := y.irrev || !go.isEmpty })

/-! ## Elements (R72, R73, R390) -/

/-- Where an element lies for a stream. -/
inductive WLoc where
  | at_ (s : State) (o : Int)
  | null (s : State)
  | halt (s : State)
  | fail (s : State) (code value : Nat)

/-- The index word that redirects an element: from the index stream, or from the index tensor, each word read once (R95). -/
def indexWord (s : State) (w c : Nat) (toDst : Bool) (d : Desc) (j : Nat) : WOut :=
  let ch := chOf s w c
  if !toDst && sdIxs ch.sd then ixWord w c j ((hoopOf (wheelOf s w) (sdIxHoop ch.sd)).q.length + 2) s
  else
    let cache := if toDst then ch.ixW else ch.ixR
    match cache.find? (fun p => p.1 == j) with
    | some (_, x) => .ok s (leBytes 4 x)
    | none =>
      match streamRead s w c toDst d.space (d.idxBase + 4 * j) 4 false with
      | .ok s1 bs =>
        .ok (onChan s1 w c (fun y =>
          if toDst then { y with ixW := (j, leNat bs) :: y.ixW } else { y with ixR := (j, leNat bs) :: y.ixR })) bs
      | r => r

def locate (s : State) (w c : Nat) (toDst : Bool) (d : Desc) (k : Nat) : WLoc :=
  let i := coordsAt d k
  if d.valid0 ≤ nth 0 i 0 then .null s
  else
    let fin := fun (s : State) (ix : Nat → Except Nat Nat) =>
      match elemAt d ix i with
      | .stop code j => WLoc.fail s code j
      | .null => .null s
      | .offset o _ => .at_ s o
    if d.idxEn then
      match indexWord s w c toDst d (nth 0 i d.idxDim) with
      | .ok s1 bs => fin s1 (fun _ => .ok (leNat bs))
      | .halt s1 => .halt s1
      | .fail s1 code v => .fail s1 code v
    else fin s (fun _ => .error 0x0101)

/-- The bytes of the unit at linear position k of the source (R386); null elements read as zero. -/
def srcUnit (s : State) (w c : Nat) (d : Desc) (k : Nat) : WOut :=
  match locate s w c false d k with
  | .halt s1 => .halt s1
  | .fail s1 code v => .fail s1 code v
  | .null s1 => .ok s1 (leBytes (unitBytes d) 0)
  | .at_ s1 o =>
    match streamRead s1 w c false d.space (elemByte d o).1 (unitBytes d) false with
    | .ok s2 bs =>
      if unitElems d = 1 then .ok s2 bs
      else match locate s2 w c false d (k + 1) with
        | .null s3 => .ok s3 (leBytes 1 (leNat bs % 16))
        | _ => .ok s2 bs
    | r => r

/-- Write the unit at linear position k of the destination under its WMODE (R85–R87). The first condition of R55 is kept. -/
def dstUnit (s : State) (w c : Nat) (d : Desc) (k : Nat) (bs : List Byte) : WOut :=
  match locate s w c true d k with
  | .halt s1 => .halt s1
  | .fail s1 code v => .fail s1 code v
  | .null s1 => .ok s1 []
  | .at_ s1 o =>
    let a := (elemByte d o).1
    if d.wmode = 1 then
      match streamRead s1 w c true d.space a (unitBytes d) true with
      | .ok s2 old =>
        let (x, code) := reduceAdd d.ty (leNat old) (leNat bs)
        match streamWrite s2 w c d.space a (leBytes (unitBytes d) x) true with
        | .ok s3 _ =>
          .ok (onChan s3 w c (fun y => { y with code := if y.code = 0 then code else y.code, irrev := true })) []
        | r => r
      | r => r
    else if unitElems d = 1 then streamWrite s1 w c d.space a bs false
    else match locate s1 w c true d (k + 1) with
      | .null s2 =>
        match streamRead s2 w c true d.space a 1 true with
        | .ok s3 old => streamWrite s3 w c d.space a (leBytes 1 (leNat old / 16 * 16 + leNat bs % 16)) false
        | r => r
      | _ => streamWrite s1 w c d.space a bs false

/-! ## Destination buffers (R386, R391, R394) -/

/-- Bytes leave the record of R696. -/
def unrecord (x : Wheel) (a n : Nat) : Wheel :=
  { x with prec := x.prec.flatMap (fun r =>
      let (c, b, k) := r
      if a + n ≤ b ∨ b + k ≤ a then [r]
      else (if b < a then [(c, b, a - b)] else []) ++ (if a + n < b + k then [(c, a + n, b + k - (a + n))] else [])) }

/-- The buffers that a stream into a hoop of its own wheel still wants: those that the rest of a MEM source, or the bytes in
hand of a HOOP source, fill beyond the buffers it holds (R391; DESIGN CHOICE, log 22: it obtains no buffer that it would
return unused). -/
def chWants (ch : Chan) : Nat :=
  let b := max 1 (sdBufBytes ch.sd)
  let d := chSrcD ch
  let n := if sdSrcKind ch.sd = 0 then cdiv (descCount d - ch.pos) (unitElems d) * unitBytes d else ch.inBuf.length
  let room := match ch.fill with
    | some (_, k) => b - k
    | none => 0
  cdiv (n - room) b - ch.credits.length

/-- A stream takes the free buffers of its hoop that it wants, as far as the pool's credits allow (R391). -/
def chHold (s : State) (w c : Nat) : State :=
  let ch := chOf s w c
  match ch.out with
  | .hoop h =>
    let y := hoopOf (wheelOf s w) h
    let k := chWants ch
    onChan (onWheel s w (fun x => hoopObtain x h k)) w c
      (fun z => { z with credits := z.credits ++ (y.free.take k).map (bufAddr y) })
  | _ => s

/-- Begin to fill the next buffer: one that the stream holds, or a free one of its own wheel's hoop. -/
def chObtain (s : State) (w c : Nat) : Option State :=
  let ch := chOf s w c
  match ch.credits, ch.out with
  | a :: r, .hoop _ => some (onChan s w c (fun y => { y with fill := some (a, 0), credits := r }))
  | a :: r, .rhoop _ _ => some (onChan s w c (fun y => { y with fill := some (a, 0), credits := r }))
  | [], .hoop h =>
    match (hoopOf (wheelOf s w) h).free with
    | [] => none
    | i :: _ =>
      let a := bufAddr (hoopOf (wheelOf s w) h) i
      some (onChan (onWheel s w (fun x => hoopObtain x h 1)) w c (fun y => { y with fill := some (a, 0) }))
  | _, _ => none

/-- Return the buffers held beside the one being filled to the hoop of this wheel, in the order they were obtained (R381); a
remote hoop's go back at completion (R394). -/
def chReturn (s : State) (w c : Nat) : State :=
  let ch := chOf s w c
  match ch.out with
  | .hoop h =>
    onChan (onWheel s w (fun x => ch.credits.foldl (fun x a => hoopReturn x h (bufIndex (hoopOf x h) a)) x)) w c
      (fun y => { y with credits := [] })
  | _ => s

/-- Put the buffer being filled. -/
def chPut (s : State) (w c : Nat) (last err : Bool) : State :=
  let ch := chOf s w c
  match ch.fill with
  | none => s
  | some (a, n) =>
    let s1 := wheyBump (onChan s w c (fun y => { y with fill := none, puts := y.puts + 1, irrev := true })) w 2 1
    match ch.out with
    | .hoop h => onWheel s1 w (fun x => hoopPut x h (chUnit c) ⟨err, last, h, n, a⟩)
    | .rhoop t h => wheyBump { s1 with mesh := s1.mesh ++ [.put t w h ⟨err, last, h, n, a⟩] } w 3 1
    | _ => s1

/-- Place bytes in the buffer being filled: none where the wheel of a remote hoop cannot be reached. -/
def chPlace (s : State) (w c : Nat) (bs : List Byte) : Except Nat State :=
  let ch := chOf s w c
  match ch.fill with
  | none => .ok s
  | some (a, n) =>
    let t := match ch.out with
      | .rhoop t _ => t
      | _ => w
    if reachCode s w t ≠ 0 then .error (reachCode s w t)
    else
      let s1 := onWheel s t (fun x =>
        let x1 := caveWrite x (a + n) bs
        if hostArmed ch then unrecord x1 (a + n) bs.length else x1)
      .ok (wheyBump (onChan s1 w c (fun y => { y with fill := some (a, n + bs.length) })) w 1 bs.length)

/-- A buffer with room for the next bytes is held: a full one is put first; without a free buffer the stream waits. -/
def chRoom (s : State) (w c : Nat) : WOut :=
  let ch := chOf s w c
  let full := match ch.fill with
    | some (_, n) => decide (sdBufBytes ch.sd ≤ n)
    | none => false
  let s1 := if full then chPut s w c false false else s
  if (chOf s1 w c).fill.isSome then .ok s1 []
  else match chObtain s1 w c with
    | some s2 => .ok (onChan s2 w c (fun y => { y with st := .run })) []
    | none => .halt (onChan s1 w c (fun y => { y with st := .creditWait }))

/-! ## The Creamery's state (R470, R507–R509, R630) -/

def onCrm (s : State) (f : Crm → Crm) : State := { s with crm := f s.crm }

/-- Bits [hi:lo] of the 4-byte word at offset `o` of the culture in effect. -/
def culF (s : State) (o hi lo : Nat) : Nat := bits (leAt s.culture o 4) hi lo

def portMode (s : State) : Nat := culF s 0xA0 1 0
def ipv6 (s : State) : Bool := culF s 0xA0 2 2 == 1

/-- The ports that PORT_MODE has, and their rate in Gb/s (R470). -/
def ePorts (s : State) : Nat := match portMode s with
  | 0 => 2
  | 1 => 4
  | _ => 8
def eRate (s : State) : Nat := match portMode s with
  | 0 => 800
  | 1 => 400
  | _ => 200

/-- The die of a port, and its place among the die's ports. -/
def eDie (s : State) (e : Nat) : Nat := e / (ePorts s / 2)
def eSlot (s : State) (e : Nat) : Nat := e % (ePorts s / 2)

def ePort (s : State) (e : Nat) : EPort := tget {} s.crm.ports e
def onEPort (s : State) (e : Nat) (f : EPort → EPort) : State :=
  onCrm s (fun c => { c with ports := tset {} c.ports e (f (tget {} c.ports e)) })

/-- CRM_ statistics counter k of a die: 0 TX_PKTS, 1 RX_PKTS, 2 RETX, 3 NACKS, 4 DUPS, 5 LATE, 6 DROPS, 7 NOFLOW,
8 FOREIGN. -/
def crmBump (s : State) (e k : Nat) : State :=
  onCrm s (fun c => { c with regs := tmod [] c.regs (eDie s e) (fun r => bump r k 1) })

/-- Set bits of CRM_ERR_STATUS of a port's die (R509). -/
def crmErr (s : State) (e mask flow code node : Nat) : State :=
  onCrm s (fun c => { c with regs := tmod [] c.regs (eDie s e) (fun r => errSet r mask (errInfo flow code) (node % 4096 * 2 ^ 16 + e)) })

/-- The port of a transmit flow: that of its first window (DESIGN CHOICE, log 29, for the port of CRM_ERR_DETAIL where no
packet names one). -/
def netPort (s : State) (ctx flow : Nat) : Nat :=
  match (ctxOf s ctx).plan with
  | some p => match p.slot with
    | some tab => match tab.wins.find? (fun w => w.flow == flow) with
      | some w => w.port
      | none => 0
    | none => 0
  | none => 0

/-! ## NET transfers (R490) -/

/-- Cut a message into packets of 8,960 bytes. -/
def cutPackets (msg : Nat) (last : Bool) : Nat → Nat → Nat → List Byte → List TxPkt
  | 0, _, _, _ => []
  | n + 1, seq, off, bs =>
    let fin := decide (bs.length ≤ 8960)
    let p : TxPkt := { seq := seq % 2 ^ 32, msg := msg, off := off, lmsg := fin, last := fin && last, bytes := bs.take 8960 }
    if fin then [p] else p :: cutPackets msg last n (seq + 1) (off + 8960) (bs.drop 8960)

def findTx (s : State) (ctx flow : Nat) : Option TxFlow := s.crm.txs.find? (fun t => t.ctx == ctx && t.flow == flow)
def setTx (s : State) (t : TxFlow) : State :=
  { s with crm := { s.crm with txs := s.crm.txs.map (fun u => if u.ctx == t.ctx && u.flow == t.flow then t else u) } }

/-- Give a message to the transmit flow. -/
def netMessage (s : State) (ctx flow : Nat) (bs : List Byte) (last : Bool) : State :=
  match findTx s ctx flow with
  | none => s
  | some t =>
    let ps := cutPackets t.msg last (bs.length / 8960 + 1) t.seq 0 bs
    setTx s { t with pkts := t.pkts ++ ps, seq := (t.seq + ps.length) % 2 ^ 32, msg := (t.msg + 1) % 2 ^ 32 }

/-- A NET stream failed with a code: OP_ERROR of R509. -/
def netNote (s : State) (ctx flow code : Nat) : State :=
  crmErr s (netPort s ctx flow) 0x1 flow code (match findTx s ctx flow with
    | some t => t.peer
    | none => 0)

/-- The flow takes no further packet of a transfer that failed. -/
def netDrop (s : State) (ctx flow : Nat) : State :=
  match findTx s ctx flow with
  | none => s
  | some t =>
    let s1 := setTx s { t with pkts := [], chan := none }
    { s1 with crm := { s1.crm with retx := s1.crm.retx.filter (fun r => !(r.ctx == ctx && r.flow == flow)) } }

/-! ## Failure and end (R404, R388) -/

/-- The indices that the elements before position `pos` name. -/
def ixConsumed (ch : Chan) : Nat :=
  let d := chSrcD ch
  if !(sdIxs ch.sd) || ch.pos = 0 then 0
  else
    let p := sizesBelow d d.idxDim
    let n := dSize d d.idxDim
    if p * n ≤ ch.pos - 1 then n else (ch.pos - 1) / max 1 p % max 1 n + 1

/-- Save the position of a halt or failure (R401, R411): of the source's element, or the destination's for a HOOP source. -/
def savePos (ch : Chan) : Chan :=
  let d := if sdSrcKind ch.sd = 0 then chSrcD ch else chDstD ch
  { ch with
    savedPos := if sdSrcKind ch.sd = 0 ∨ sdDstKind ch.sd = 2 then coordsAt d ch.pos else []
    savedOff := match ch.fill with
      | some (_, n) => n
      | none => 0
    savedPuts := ch.puts, savedIx := ixConsumed ch }

/-- Put the ERR handle of a failed stream once a buffer is held (R404 step 2). -/
def errPutStep (s : State) (w c : Nat) : State :=
  let ch := chOf s w c
  if ch.st != .ending || !ch.errPut then s
  else
    let s1 := if ch.fill.isSome then some s else chObtain s w c
    match s1 with
    | none => s
    | some s2 => chReturn (onChan (chPut s2 w c true true) w c (fun y => { y with errPut := false })) w c

/-- Release every source and index handle held. -/
def releaseTaken (s : State) (w c : Nat) : State :=
  let ch := chOf s w c
  let rel := fun (h : Nat) (x : Wheel) (t : Handle × Nat) => hoopRelease x h (bufIndex (hoopOf x h) t.1.addr)
  let s1 := onWheel s w (fun x => ch.ixTaken.foldl (rel (sdIxHoop ch.sd)) (ch.taken.foldl (rel (sdSrcHoop ch.sd)) x))
  onChan s1 w c (fun y => { y with taken := [], ixTaken := [], inBuf := [], irrev := y.irrev || !ch.taken.isEmpty || !ch.ixTaken.isEmpty })

/-- A stream fails or is cancelled (R404). -/
def chFail (s0 : State) (w c code value : Nat) : State :=
  let s := creditWaited s0 w c
  let ch := chOf s w c
  let toHoop := match ch.out with
    | .hoop _ => true
    | .rhoop t _ => reachCode s w t == 0
    | _ => false
  let s1 := onChan s w c (fun y => { savePos y with st := .ending, code := code, value := value, errPut := toHoop, ats := false })
  let s2 := match ch.out with
    | .net f => netDrop (netNote s1 ch.ctx f code) ch.ctx f
    | _ => s1
  errPutStep (releaseTaken s2 w c) w c

/-- Every element is committed: ENDING with the code of R55's conditions, or none. -/
def chEnd (s : State) (w c : Nat) : State := onChan s w c (fun y => { y with st := .ending, value := y.pos })

/-! ## One unit -/

def isByteDst (ch : Chan) : Bool := sdDstKind ch.sd != 2

/-- Take a source handle: its bytes join those taken. With its LAST handle the bytes must equal those of the elements of a MEM
destination, else 0x0607 (R386). -/
def srcTake (s : State) (w c : Nat) : WOut :=
  let ch := chOf s w c
  let h := sdSrcHoop ch.sd
  match (hoopOf (wheelOf s w) h).q with
  | [] => .halt s
  | hd :: r =>
    let x := wheelOf s w
    let bs := caveRead x hd.addr hd.len
    let s1 := onWheel s w (fun x => caveCorrect (onHoop x h (fun y => { y with q := r })) hd.addr hd.len)
    let s2 := onChan s1 w c (fun y =>
      { y with inBuf := y.inBuf ++ bs, srcIn := y.srcIn + hd.len, taken := y.taken ++ [(hd, y.srcIn + hd.len)]
               inLast := hd.last, inErr := hd.err })
    let d := chDstD ch
    let odd := !isByteDst ch && hd.last && !hd.err && decide (ch.srcIn + hd.len ≠ cdiv (descCount d * tyBits d.ty) 8)
    if hd.len ≠ 0 ∧ caveUncorr x hd.addr hd.len then .fail s2 0x060E 0
    else if odd then .fail (wheyBump s2 w 0 hd.len) 0x0607 0
    else .ok (wheyBump s2 w 0 hd.len) []

/-- Release the source handles whose bytes are placed; of a NET transfer, those whose packets are acknowledged (R491). -/
def srcRelease (s : State) (w c : Nat) : State :=
  let ch := chOf s w c
  let upTo := match ch.out with
    | .net _ => ch.netAcked
    | _ => ch.srcOut
  let (go, keep) := ch.taken.partition (fun t => decide (t.2 ≤ upTo))
  let h := sdSrcHoop ch.sd
  let s1 := onWheel s w (fun x => go.foldl (fun x t => hoopRelease x h (bufIndex (hoopOf x h) t.1.addr)) x)
  onChan s1 w c (fun y => { y with taken := keep, irrev := y.irrev || !go.isEmpty })

/-- Hand a NET stream's full message over when more bytes follow. -/
def netRoom (s : State) (w c : Nat) (flow : Nat) : State :=
  let ch := chOf s w c
  if sdBufBytes ch.sd ≤ ch.net.length then
    onChan (netMessage s ch.ctx flow (ch.net.take (sdBufBytes ch.sd)) false) w c (fun y => { y with net := y.net.drop (sdBufBytes ch.sd) })
  else s

/-- The room left in the buffer or message being filled. -/
def roomLeft (ch : Chan) : Nat :=
  match ch.out with
  | .net _ => sdBufBytes ch.sd - ch.net.length
  | _ => match ch.fill with
    | some (_, n) => sdBufBytes ch.sd - n
    | none => 0

/-- Make room at a byte destination (hoop, remote hoop or NET). -/
def byteRoom (s : State) (w c : Nat) : WOut :=
  match (chOf s w c).out with
  | .net f => .ok (netRoom s w c f) []
  | _ => chRoom s w c

/-- Place bytes at a byte destination. -/
def bytePlace (s : State) (w c : Nat) (bs : List Byte) : WOut :=
  match (chOf s w c).out with
  | .net _ => .ok (wheyBump (onChan s w c (fun y => { y with net := y.net ++ bs })) w 1 bs.length) []
  | _ => match chPlace s w c bs with
    | .ok s1 => .ok s1 []
    | .error code => .fail s code 0

/-- The last element is committed at a byte destination: the final buffer or message, which may be empty, carries LAST. -/
def byteEnd (s : State) (w c : Nat) : WOut :=
  let ch := chOf s w c
  match ch.out with
  | .net f => .ok (onChan (netMessage s ch.ctx f ch.net true) w c (fun y => { y with net := [] })) []
  | _ =>
    match (if ch.fill.isSome then some s else chObtain s w c) with
    | some s1 => .ok (chPut s1 w c true false) []
    | none => .halt (onChan s w c (fun y => { y with st := .creditWait }))

/-- The stream's last step: the index stream ends, and a byte destination gets its LAST buffer. -/
def finishStream (s : State) (w c : Nat) : WOut :=
  match ixFinish w c ((hoopOf (wheelOf s w) (sdIxHoop (chOf s w c).sd)).q.length + 2) s with
  | .ok s1 _ =>
    let s2 := if sdIxs (chOf s1 w c).sd then ixRelease s1 w c else s1
    if isByteDst (chOf s2 w c) then
      match byteEnd s2 w c with
      | .ok s3 _ => .halt (chEnd s3 w c)
      | r => r
    else .halt (chEnd s2 w c)
  | r => r

/-- Move one unit from a MEM source. -/
def memUnit (s : State) (w c : Nat) : WOut :=
  let ch := chOf s w c
  let d := chSrcD ch
  if descCount d ≤ ch.pos then finishStream s w c
  else
    let room := if isByteDst ch then byteRoom s w c else .ok s []
    match room with
    | .ok s0 _ =>
      match srcUnit s0 w c d ch.pos with
      | .ok s1 bs =>
        let put := if isByteDst ch then bytePlace s1 w c bs else dstUnit s1 w c (chDstD ch) ch.pos bs
        match put with
        | .ok s2 _ =>
          let s3 := onChan s2 w c (fun y => { y with pos := y.pos + unitElems d })
          let s4 := if sdIxs ch.sd then ixRelease s3 w c else s3
          if isByteDst ch ∧ (chOf s4 w c).pos < descCount d ∧ roomLeft (chOf s4 w c) = 0 then
            (match ch.out with
             | .net f => .ok (netRoom s4 w c f) bs
             | _ => .ok (chPut s4 w c false false) bs)
          else .ok s4 bs
        | r => r
      | r => r
    | r => r

/-- The bytes a HOOP source must have in hand before a unit can move. -/
def hoopNeed (ch : Chan) : Nat := if isByteDst ch then 1 else unitBytes (chDstD ch)

/-- Move bytes from a HOOP source: one unit of a MEM destination, or up to `n` bytes of a byte destination. -/
def hoopUnit (s : State) (w c n : Nat) : WOut :=
  let ch := chOf s w c
  if ch.inBuf.length < hoopNeed ch then
    if ch.inErr then .fail s 0x060A 0
    else if ch.inLast then finishStream (srcRelease s w c) w c
    else srcTake (srcRelease s w c) w c
  else if isByteDst ch then
    match byteRoom s w c with
    | .ok s1 _ =>
      let ch1 := chOf s1 w c
      let bs := (ch1.inBuf.take (min n (roomLeft ch1)))
      match bytePlace s1 w c bs with
      | .ok s2 _ =>
        .ok (srcRelease (onChan s2 w c (fun y =>
          { y with inBuf := y.inBuf.drop bs.length, srcOut := y.srcOut + bs.length, pos := y.pos + bs.length })) w c) bs
      | r => r
    | r => r
  else
    let d := chDstD ch
    let k := unitBytes d
    let bs := ch.inBuf.take k
    let put := if descCount d ≤ ch.pos then .ok s [] else dstUnit s w c d ch.pos bs
    match put with
    | .ok s1 _ =>
      .ok (srcRelease (onChan s1 w c (fun y =>
        { y with inBuf := y.inBuf.drop k, srcOut := y.srcOut + k, pos := min (descCount d) (y.pos + unitElems d) })) w c) bs
    | r => r

/-- A NET stream waits while its flow carries another transfer (R490). -/
def netWaits (s : State) (w c : Nat) : Bool :=
  let ch := chOf s w c
  match ch.out with
  | .net f => match findTx s ch.ctx f with
    | some t => t.chan != some c && t.chan.isSome || t.stale
    | none => false
  | _ => false

/-- Claim the flow for this transfer. -/
def netClaim (s : State) (w c : Nat) : State :=
  let ch := chOf s w c
  match ch.out with
  | .net f => match findTx s ch.ctx f with
    | some t => setTx s { t with chan := some c }
    | none => s
  | _ => s

/-- Move units until `n` bytes have moved, or the stream halts, fails or ends. -/
def moveUnits (w c : Nat) : Nat → Nat → State → State
  | 0, _, s => s
  | fuel + 1, n, s =>
    let ch := chOf s w c
    match (if sdSrcKind ch.sd = 0 then memUnit s w c else hoopUnit s w c n) with
    | .ok s1 bs => if n ≤ bs.length then s1 else moveUnits w c fuel (n - bs.length) s1
    | .halt s1 => s1
    | .fail s1 code v => chFail s1 w c code v

/-- STREAM_DATA_RETURN: the data of one request of up to 256 bytes (R392) is committed in the stream's order (R393). An
uncorrectable error of the channel's state or of the hoop store, which no command reports, fails the stream first (R406). -/
def streamData (s : State) (w c : Nat) : State :=
  let ch := chOf s w c
  if ch.st != .run || ch.ats || netWaits s w c || (wheelOf s w).whey.st != 0 then s
  else if ch.uncorr then chFail s w c 0x060E 0
  else moveUnits w c 600 256 (chHold (netClaim s w c) w c)

def execStreamDataReturn (w : Fin 8) (c : Fin 128) (s : State) : Host.Outcome State Fault Refusal :=
  .next (streamData s w c)

end Sys2Proof.Machine
end

