-- ==== Sys2Proof/Machine/WheyOps.lean ====
section
/-!
DEFINITION. Sys2Proof/Machine/WheyOps.lean: the life of a stream (R384–R388, R402–R405), ATS and PRI (R400), hoops' puts
and releases (R381–R383), the messages of remote hoops (R394), and drip operations (R396, R397, R697).
-/

namespace Sys2Proof.Machine

/-! ## Completion records of the whey engine (R388, R409) -/

/-- The bits of WHY_ERR_STATUS that a completion code sets (R409). -/
def wheyMask (code : Nat) : Nat :=
  if code = 0 then 0
  else 1 + (if code = 0x0601 ∨ code = 0x0602 ∨ (0x0607 ≤ code ∧ code ≤ 0x060C) ∨ code = 0x060F then 2 else 0)
    + (if code = 0x0610 then 4 else 0) + (if code = 0x0605 ∨ code = 0x0606 then 8 else 0)
    + (if code = 0x060D ∨ code = 0x060E then 16 else 0)

def wheyNote (s : State) (w flow code detail : Nat) : State :=
  if code = 0 then s else wheyErr s w (wheyMask code) flow code detail

def wheyFinish (s : State) (w : Nat) (d : WheyDone) : State := onWhey s w (fun y => { y with dones := y.dones ++ [d] })

/-! ## Arming (R384–R387, R694) -/

def descOrFail (x : Wheel) (a : Nat) (r : DescRole) : Except Nat (List Byte) :=
  if !(caveAddrOk x a 128) then .error 0x060B
  else if caveUncorr x a 128 then .error 0x060E
  else
    let bs := caveRead x a 128
    let code := descCheck (descOf bs) r 0 true
    if code = 0 then .ok bs else .error (if code = 0x0123 ∨ code = 0x0131 then code else 0x0602)

/-- What an accepted arm binds and copies. -/
structure ArmPlan where
  sd : List Byte
  src : List Byte
  dst : List Byte
  cons : List Nat
  out : ChDst
  deriving DecidableEq, Repr

/-- The destination of a stream, with the checks of its hoop (R384, R394, R490, R694). `unc` is the code of a hoop that
the context's plan does not claim. -/
def armDst (s : State) (w c ctx unc : Nat) (sd : List Byte) : Except Nat ChDst :=
  match sdDstKind sd with
  | 0 =>
    let h := sdDstHoop sd
    let x := wheelOf s w
    if !(hoopOwned x h ctx) then .error unc
    else if !(canBind (hoopOf x h).prod (chUnit c)) then .error 0x060C
    else if bufBytes (hoopOf x h) < sdBufBytes sd then .error 0x060C
    else .ok (.hoop h)
  | 1 =>
    let t := sdDstWheel sd
    let h := sdDstHoop sd
    if reachCode s w t ≠ 0 then .error (reachCode s w t)
    else
      let x := wheelOf s t
      if !(hoopOwned x h ctx) then .error unc
      else if !(canBind (hoopOf x h).prod (rchUnit w c)) then .error 0x060C
      else if bufBytes (hoopOf x h) < sdBufBytes sd then .error 0x060C
      else .ok (.rhoop t h)
  | 2 => .ok .mem
  | _ => if (findTx s ctx (sdNet sd)).isSome then .ok (.net (sdNet sd)) else .error 0x0808

/-- The checks of an arm, in order. -/
def armChecks (s : State) (w c ctx addr : Nat) (host : Bool) : Except Nat ArmPlan :=
  let x := wheelOf s w
  let unc := if host then 0x0908 else 0x060C
  if !(caveAddrOk x addr 64) then .error 0x060B
  else if caveUncorr x addr 64 then .error 0x060E
  else
    let sd := caveRead x addr 64
    let bb := sdBufBytes sd
    if sdF sd 0 63 60 ≠ 1 ∨ sdReservedOk sd = false then .error 0x0601
    else if 2 ≤ sdSrcKind sd ∨ (sdIxs sd ∧ (2 ≤ sdIxFmt sd ∨ sdSrcKind sd ≠ 0)) then .error 0x0602
    else if sdDstKind sd ≠ 2 ∧ (bb % 32 ≠ 0 ∨ bb < 32 ∨ 2097152 < bb) then .error 0x0602
    else if sdDstKind sd = 1 ∧ sdDstWheel sd = w then .error 0x0602
    else match (if sdSrcKind sd = 0 then descOrFail x (sdSrcDesc sd) .streamSrc else .ok []) with
      | .error code => .error code
      | .ok src => match (if sdDstKind sd = 2 then descOrFail x (sdDstDesc sd) .streamDst else .ok []) with
        | .error code => .error code
        | .ok dst =>
          let a := descOf src
          let b := descOf dst
          if sdSrcKind sd = 0 ∧ sdDstKind sd = 2 ∧ (a.ty ≠ b.ty ∨ descCount a ≠ descCount b) then .error 0x0602
          else if sdIxs sd ∧ (a.idxEn = false ∨ a.idxBase ≠ 0) then .error 0x0602
          else
            let cons := (if sdSrcKind sd = 1 then [sdSrcHoop sd] else []) ++ (if sdIxs sd then [sdIxHoop sd] else [])
            if cons.any (fun h => !(hoopOwned x h ctx)) then .error unc
            else if cons.any (fun h => !(canBind (hoopOf x h).cons (chUnit c))) then .error 0x060C
            else match armDst s w c ctx unc sd with
              | .error code => .error code
              | .ok out => .ok ⟨sd, src, dst, cons, out⟩

/-- Bind the hoops of an accepted arm. A remote hoop's free buffers are sent to the channel as credits (R394). -/
def armBind (s : State) (w c : Nat) (p : ArmPlan) : State :=
  let s1 := p.cons.foldl (fun s h => onWheel s w (fun x => bindCons x h (chUnit c))) s
  match p.out with
  | .hoop h => onWheel s1 w (fun x => bindProd x h (chUnit c))
  | .rhoop t h =>
    let y := hoopOf (wheelOf s1 t) h
    let ms := y.free.map (fun i => MeshMsg.credit w c t h (bufAddr y i))
    let s2 := onWheel s1 t (fun x => hoopObtain (bindProd x h (rchUnit w c)) h y.free.length)
    wheyBump { s2 with mesh := s2.mesh ++ ms } t 3 ms.length
  | _ => s1

/-- A channel at rest keeps the registers of R411. -/
def restChan (ch : Chan) : Chan :=
  { faultSpace := ch.faultSpace, faultAddr := ch.faultAddr, savedPos := ch.savedPos, savedOff := ch.savedOff
    savedPuts := ch.savedPuts, savedIx := ch.savedIx }

def ownerCtx (o : Owner) : Nat := match o with
  | .inst op => op.ctx
  | .cmd ctx _ => ctx

/-- STREAM_ARM: the first operation waiting for the channel is armed, or refused with 0x0603 (R387). -/
def streamArm (s : State) (w c : Nat) : State :=
  let y := (wheelOf s w).whey
  match y.arms.find? (fun a => a.2.1 == c) with
  | none => s
  | some (own, c', addr, flow) =>
    if y.st ≠ 0 then s
    else
      let s1 := onWhey s w (fun y => { y with arms := y.arms.erase (own, c', addr, flow) })
      let ch := chOf s1 w c
      if ch.st ≠ .idle then
        wheyNote (wheyFinish (wheyBump s1 w 8 1) w ⟨c, own, 0x0603, 0, 0, 0⟩) w flow 0x0603 c
      else
        let host := match own with
          | .cmd _ _ => true
          | _ => false
        match armChecks s1 w c (ownerCtx own) addr host with
        | .error code =>
          let sd := caveRead (wheelOf s1 w) addr 64
          let s0 := if sdDstKind sd = 3 then netNote s1 (ownerCtx own) (sdNet sd) code else s1
          let s2 := onChan s0 w c (fun y => { restChan y with savedPos := [], savedOff := 0, savedPuts := 0, savedIx := 0 })
          wheyNote (wheyFinish s2 w ⟨c, own, code, 0, 0, 0⟩) w flow code c
        | .ok p =>
          onChan (armBind s1 w c p) w c (fun y =>
            { restChan y with
              st := .run, own := some own, ctx := ownerCtx own, flow := flow, sd := p.sd, src := p.src, dst := p.dst
              out := p.out
              hist := match own with
                | .inst op => some (op, addr)
                | _ => none })

def execStreamArm (w : Fin 8) (c : Fin 128) (s : State) : Host.Outcome State Fault Refusal := .next (streamArm s w c)

/-! ## Walks and faults (R399, R401) -/

/-- FAULTED: the position and the address are saved and the fault is reported (R401). -/
def chFault (s : State) (w c : Nat) : State :=
  let ch := chOf s w c
  let s1 := onChan s w c (fun y =>
    { savePos y with st := .faulted, faultSpace := 0, faultAddr := y.missAddr, faultWrite := y.missWrite })
  let s2 := wheyErr (wheyBump s1 w 6 1) w 4 ch.flow 0 c
  let op := match ch.own with
    | some (.inst op) => (op.iter, op.opid)
    | _ => (0, 0)
  emitRec s2 ch.ctx { kind := 4, code := 0, flow := ch.flow, iter := op.1, opid := op.2
                      d0 := ch.missAddr + b2n ch.missWrite * 2 ^ 63, d1 := w + c * 16 }

/-- PAGE_WALK_COMPLETE: the walk of the stream's miss returns. -/
def walkDone (s : State) (w c : Nat) : State :=
  let ch := chOf s w c
  if ch.st ≠ .walk then s
  else match pageWalk s w ch.ctx ch.missAddr ch.missRead ch.missWrite with
    | (s1, .page pa size r wr) =>
      let run : Run := ⟨ch.missAddr / size * size, size, pa, r, wr⟩
      let s2 := onWheel s1 w (fun x => installWalk x ch.ctx run ch.missAt ch.swept)
      onChan s2 w c (fun y => setRun { y with st := .run } ch.missDst (some run))
    | (s1, .malformed) => chFail s1 w c 0x060F 0
    | (s1, .stop code) => chFail s1 w c (streamCode code) 0
    | (s1, _) => chFault s1 w c

def execPageWalkComplete (w : Fin 8) (c : Fin 128) (s : State) : Host.Outcome State Fault Refusal := .next (walkDone s w c)

/-- The host space of the side a stream's ATS request is for. -/
def missPort (ch : Chan) : Nat := (if ch.missDst then (chDstD ch).space else (chSrcD ch).space) - 2

/-- ATS_TRANSLATION_COMPLETION: the port's translation of the range that the stream asked for: `ok` and its rights, the
translated address, and the size of the range, of which at most 2 MiB is held (R400). -/
def atsDone (s : State) (w c : Nat) (ok : Bool) (addr log2 : Nat) (r wr : Bool) : State :=
  let ch := chOf s w c
  if ch.st ≠ .run ∨ ch.ats = false then s
  else
    let size := 2 ^ max 12 (min 21 log2)
    let run : Run := ⟨ch.missAddr / size * size, size, addr / size * size, r, wr⟩
    if ok && runAllows run ch.missRead ch.missWrite then
      onChan s w c (fun y => setRun { y with ats := false } ch.missDst (some run))
    else if (portOf s (missPort ch)).pri then
      let s1 := onChan s w c (fun y => { y with ats := false, st := .priWait, faultWrite := y.missWrite })
      let s2 := wheyErr (wheyBump s1 w 6 1) w 4 ch.flow 0 c
      { s2 with out := s2.out ++ [.pageRequest (missPort ch) ch.ctx ch.missAddr] }
    else chFail s w c 0x0605 0

def execAtsTranslationCompletion (w : Fin 8) (c : Fin 128) (ok : Bool) (addr : Fin 144115188075855872) (log2 : Fin 64)
    (rd wr : Bool) (s : State) : Host.Outcome State Fault Refusal :=
  .next (atsDone s w c ok addr log2 rd wr)

/-- PRG_RESPONSE: on Success the stream translates again, on any other response it fails (R400). -/
def prgResponse (s : State) (w c code : Nat) : State :=
  let ch := chOf s w c
  if ch.st ≠ .priWait then s
  else if code = 0 then onChan s w c (fun y => { y with st := .run, ats := true })
  else chFail s w c 0x0605 0

def execPrgResponse (w : Fin 8) (c : Fin 128) (code : Fin 16) (s : State) : Host.Outcome State Fault Refusal :=
  .next (prgResponse s w c code)

/-- Drop the runs of a channel that a host range overlaps. -/
def dropRuns (ch : Chan) (port base size : Nat) : Chan :=
  let hit := fun (d : Desc) (r : Option Run) => match r with
    | some q => decide (d.space = 2 + port) && decide (q.va < base + size) && decide (base < q.va + q.size)
    | none => false
  { ch with
    runR := if hit (chSrcD ch) ch.runR then none else ch.runR
    runW := if hit (chDstD ch) ch.runW then none else ch.runW }

/-- ATS_INVALIDATE_REQUEST: every run with an overlapping range ends, and the Invalidation Completion is sent (R400). -/
def atsInvalidate (s : State) (port base size tag : Nat) : State :=
  let s1 := (upto 8).foldl (fun s w => (upto 128).foldl (fun s c => onChan s w c (fun y => dropRuns y port base size)) s) s
  { s1 with out := s1.out ++ [Out.invalDone port tag] }

def execAtsInvalidateRequest (port : Fin 2) (base size : Fin 18446744073709551616) (tag : Fin 32) (s : State) :
    Host.Outcome State Fault Refusal :=
  .next (atsInvalidate s port base size tag)

/-! ## Resume, abort, cancel, complete (R402–R405, R388) -/

/-- A write to WHY_CH_CTRL: 1 RESUME, 2 ABORT; a write that R402 ignores sets STRAY_CTRL. -/
def chCtrl (s : State) (port w c ctx cmd : Nat) : State :=
  let ch := chOf s w c
  if !(wheelVisible s port w) then s
  else if cmd ≠ 1 ∧ cmd ≠ 2 then s
  else if ch.st ≠ .faulted ∨ ch.ctx ≠ ctx ∨ (ctxOf s ctx).owner ≠ port ∨ (ctxOf s ctx).st = .free then
    wheyErr s w 0x20 ch.flow 0 c
  else if cmd = 1 then onChan s w c (fun y => { y with st := .run })
  else chFail s w c 0x0604 0

def execChCtrlResume (port : Fin 2) (w : Fin 8) (c : Fin 128) (ctx : Fin 1024) (s : State) :
    Host.Outcome State Fault Refusal := .next (chCtrl s port w c ctx 1)

def execChCtrlAbort (port : Fin 2) (w : Fin 8) (c : Fin 128) (ctx : Fin 1024) (s : State) :
    Host.Outcome State Fault Refusal := .next (chCtrl s port w c ctx 2)

/-- The stream's operation is cancelled: its flow is CANCELLED, or its context closes (R433, R540). -/
def chCancelled (s : State) (w : Nat) (ch : Chan) : Bool :=
  match ch.own with
  | some (.inst op) => (tget {} (wheelOf s w).rnt.flows (op.flow % 2048)).st == .cancelled || (ctxOf s op.ctx).st == .closing
  | some (.cmd ctx _) => (ctxOf s ctx).st == .closing
  | none => false

/-- STREAM_CANCEL: a stream whose operation is cancelled ends with 0x0701 (R404). -/
def streamCancel (s : State) (w c : Nat) : State :=
  let ch := chOf s w c
  match ch.st with
  | .idle => s
  | .ending => s
  | .fenced => s
  | _ => if chCancelled s w ch then chFail s w c 0x0701 0 else s

def execStreamCancel (w : Fin 8) (c : Fin 128) (s : State) : Host.Outcome State Fault Refusal := .next (streamCancel s w c)

/-- R388: every handle is put, and of a NET transfer the LAST packet is acknowledged. -/
def streamSettled (s : State) (w c : Nat) : Bool :=
  let ch := chOf s w c
  !ch.errPut && !(putsOpen (wheelOf s w) (chUnit c))
    && (match ch.out with
        | .rhoop t h => !(s.mesh.any (fun m => match m with
          | .put t' w' h' _ => t' == t && w' == w && h' == h
          | _ => false))
        | .net _ => ch.netDone || ch.code != 0
        | _ => true)

/-- Return the buffers a stream still holds, in the order they were obtained (R381, R394), and end the binding of a remote
hoop. A remote hoop that its wheel's reset took away gets nothing. -/
def returnRemote (s : State) (c w : Nat) : State :=
  let ch := chOf s w c
  let back := (match ch.fill with
    | some (a, _) => [a]
    | none => []) ++ ch.credits
  let give := fun (h : Nat) (x : Wheel) => back.foldl (fun x a => hoopReturn x h (bufIndex (hoopOf x h) a)) x
  match ch.out with
  | .rhoop t h =>
    if (hoopOf (wheelOf s t) h).prod = some (rchUnit w c) then onWheel s t (fun x => unbindAll (give h x) (rchUnit w c)) else s
  | .hoop h => if back.isEmpty then s else onWheel s w (give h)
  | _ => s

/-- STREAM_COMPLETE: once R388 holds the completion is recorded and the channel is IDLE. -/
def streamComplete (s : State) (w c : Nat) : State :=
  let ch := chOf s w c
  match ch.own with
  | none => s
  | some own =>
    if ch.st ≠ .ending ∨ streamSettled s w c = false then s
    else
      let s1 := onWheel (returnRemote (releaseTaken s w c) c w) w (fun x => unbindAll x (chUnit c))
      let s2 := match ch.out with
        | .net f => match findTx s1 ch.ctx f with
          | some t => if t.chan = some c then setTx s1 { t with chan := none } else s1
          | none => s1
        | _ => s1
      let s3 := wheyNote (onChan s2 w c restChan) w ch.flow ch.code c
      wheyFinish s3 w ⟨c, own, ch.code, ch.pos, ch.puts, ch.value⟩

def execStreamComplete (w : Fin 8) (c : Fin 128) (s : State) : Host.Outcome State Fault Refusal :=
  .next (streamComplete s w c)

/-! ## Hoops (R381–R383) -/

/-- HANDLE_PUT: the bytes of the hoop's oldest put are acknowledged and the handle joins the hoop (R383). -/
def handlePut (x : Wheel) (h : Nat) : Wheel :=
  onHoop x h (fun y => match y.puts with
    | [] => y
    | (_, hd) :: r => { y with puts := r, q := y.q ++ [hd] })

def execHandlePut (w : Fin 8) (h : Fin 1024) (s : State) : Host.Outcome State Fault Refusal :=
  .next (onWheel s w (fun x => handlePut x h))

/-- The oldest release under way ends: the buffer is free, or of a remote producer sent to it as a credit (R381, R394). -/
def bufferRelease (s : State) (w h : Nat) : State :=
  let y := hoopOf (wheelOf s w) h
  match y.rels with
  | [] => s
  | i :: r =>
    let s1 := onWheel s w (fun x => onHoop x h (fun y => { y with rels := r }))
    match y.prod with
    | some ⟨8, k⟩ => wheyBump { s1 with mesh := s1.mesh ++ [.credit (k / 128) (k % 128) w h (bufAddr y i)] } w 3 1
    | _ => onWheel s1 w (fun x => hoopReturn x h i)

/-- HANDLE_DELIVERED: a handle reaches the unit that waits for it (R382): a vat in HANDLE_WAIT; engines and streams take
it with their next command. -/
def handleDelivered (x : Wheel) (h n : Nat) : Wheel :=
  match (hoopOf x h).cons with
  | some ⟨1, v⟩ => if (vatOf x v).st = .handleWait then deliverHandle x v n else x
  | _ => x

/-- The clocks that the wait has lasted are open (log 10). -/
def execHandleDelivered (w : Fin 8) (h : Fin 1024) (s : State) : Host.Outcome State Fault Refusal :=
  .next { onWheel s w (fun x => handleDelivered x h (Config.free s.free).toNat) with free := s.free + 1 }

/-- A channel that waits for a credit goes on (R405). -/
def creditArrived (s : State) (w c : Nat) : State :=
  let s1 := onChan (creditWaited s w c) w c (fun y => if y.st = .creditWait then { y with st := .run } else y)
  errPutStep (if (chOf s1 w c).st = .run then chHold s1 w c else s1) w c

/-- FREE_BUFFER_DELIVERED: a free buffer reaches the unit that waits for it (R382). -/
def freeDelivered (s : State) (w h : Nat) : State :=
  let y := hoopOf (wheelOf s w) h
  if y.free.isEmpty then s
  else match y.prod with
    | some ⟨1, v⟩ => onWheel s w (fun x => if (vatOf x v).st = .run then deliverBuffer x v else x)
    | some ⟨5, c⟩ => creditArrived s w c
    | _ => s

def execFreeBufferDelivered (w : Fin 8) (h : Fin 1024) (s : State) : Host.Outcome State Fault Refusal :=
  .next (freeDelivered s w h)

/-! ## Messages of remote hoops (R394) -/

/-- Sender and receiver of a message (R397): the whey engines of two wheels, their Rennets, or two ladles (DEDUCED,
log 61: the units that R394, R421, R461 and R334 name). -/
def meshKey (m : MeshMsg) : Nat × Nat × Nat := match m with
  | .credit w _ src _ _ => (0, src, w)
  | .put w src _ _ => (0, src, w)
  | .token w src _ _ _ _ => (1, src, w)
  | .release w src _ _ _ => (1, src, w)
  | .invalidate w l _ _ _ src => (2, src, w * 8 + l)

/-- The message is the oldest between its sender and its receiver, so it arrives next (R397). -/
def arrivesNext (s : State) (m : MeshMsg) : Bool := s.mesh.find? (fun k => meshKey k == meshKey m) == some m

def creditFor (s : State) (w : Nat) (m : MeshMsg) : Bool := match m with
  | .credit t _ _ _ _ => t == w && arrivesNext s m
  | _ => false

def putFor (s : State) (w : Nat) (m : MeshMsg) : Bool := match m with
  | .put t _ _ _ => t == w && arrivesNext s m
  | _ => false

/-- DRIP_CREDIT_MESSAGE: the oldest credit that can arrive at the wheel does. One that finds its stream gone returns to its
pool. -/
def dripCredit (s : State) (w : Nat) : State :=
  match s.mesh.find? (creditFor s w) with
  | some (.credit t c src h a) =>
    let s1 := { s with mesh := s.mesh.erase (.credit t c src h a) }
    let ch := chOf s1 w c
    if ch.out = .rhoop src h ∧ ch.st ≠ .idle ∧ ch.st ≠ .fenced then
      creditArrived (onChan s1 w c (fun y => { y with credits := y.credits ++ [a] })) w c
    else onWheel s1 src (fun x => hoopReturn x h (bufIndex (hoopOf x h) a))
  | _ => s

def execDripCreditMessage (w : Fin 8) (s : State) : Host.Outcome State Fault Refusal := .next (dripCredit s w)

/-- DRIP_PUT_MESSAGE: the oldest put that can arrive at the wheel does, and its handle joins the hoop. -/
def dripPut (s : State) (w : Nat) : State :=
  match s.mesh.find? (putFor s w) with
  | some (.put t v h hd) =>
    let s1 := { s with mesh := s.mesh.erase (.put t v h hd) }
    if (wheelOf s1 w).svc = .inService then onWheel s1 w (fun x => onHoop x h (fun y => { y with q := y.q ++ [hd] })) else s1
  | _ => s

def execDripPutMessage (w : Fin 8) (s : State) : Host.Outcome State Fault Refusal := .next (dripPut s w)

/-! ## Drip operations (R396, R397, R697) -/

def dripSrcSpace (r : List Byte) : Nat := sdF r 0 59 58
def dripDstSpace (r : List Byte) : Nat := sdF r 0 57 56
def dripLen (r : List Byte) : Nat := sdF r 0 8 0
def dripSrc (r : List Byte) : Nat := sdF r 8 56 0
def dripDst (r : List Byte) : Nat := sdF r 16 56 0

/-- The layout of the record: 0x0601, then 0x0609. -/
def dripCheck (r : List Byte) : Nat :=
  if sdF r 0 63 60 ≠ 1 ∨ sdF r 0 55 9 ≠ 0 ∨ sdF r 8 63 57 ≠ 0 ∨ sdF r 16 63 57 ≠ 0 ∨ sdF r 24 63 0 ≠ 0 then 0x0601
  else if 2 ≤ dripSrcSpace r ∨ dripDstSpace r = 1 ∨ dripLen r = 0 ∨ 256 < dripLen r then 0x0609
  else 0

/-- The pieces of a range, one for each 64 KiB it touches: virtual address and length. -/
def dripPieces (a n : Nat) : List (Nat × Nat) :=
  let e := (a / 65536 + 1) * 65536
  if a + n ≤ e then [(a, n)] else [(a, e - a), (e, a + n - e)]

/-- Translate a piece, counting the search and the walk as the whey engine's. -/
def dripTranslate (s : State) (w ctx va : Nat) (needW : Bool) : State × Except Nat Run :=
  let swept := (wheelOf s w).mld.swept
  match mouldRun (wheyBump s w 4 1) w ctx va (!needW) needW with
  | (s1, some run, _) => (s1, .ok run)
  | (s1, none, at_) =>
    match pageWalk (wheyBump s1 w 5 1) w ctx va (!needW) needW with
    | (s2, .page pa size r wr) =>
      let run : Run := ⟨va / size * size, size, pa, r, wr⟩
      (onWheel s2 w (fun x => installWalk x ctx run at_ swept), .ok run)
    | (s2, .malformed) => (s2, .error 0x060F)
    | (s2, .stop code) => (s2, .error (streamCode code))
    | (s2, _) => (s2, .error 0x0610)

/-- The device pieces of a drip's range: physical address and length. -/
def dripMap (w ctx : Nat) (needW : Bool) : List (Nat × Nat) → State → State × Except Nat (List (Nat × Nat))
  | [], s => (s, .ok [])
  | (va, n) :: r, s =>
    match dripTranslate s w ctx va needW with
    | (s1, .error code) => (s1, .error code)
    | (s1, .ok run) =>
      match dripMap w ctx needW r s1 with
      | (s2, .error code) => (s2, .error code)
      | (s2, .ok ps) => (s2, .ok ((runAddr run va, n) :: ps))

def dripRead (w : Nat) : List (Nat × Nat) → State → State × Except Nat (List Byte)
  | [], s => (s, .ok [])
  | (pa, n) :: r, s =>
    match devRead s w pa n with
    | (s1, bs, 0) =>
      match dripRead w r s1 with
      | (s2, .ok rest) => (s2, .ok (bs ++ rest))
      | (s2, .error code) => (s2, .error code)
    | (s1, _, code) => (s1, .error (streamCode code))

def dripWrite (w : Nat) : List (Nat × Nat) → List Byte → State → State × Nat
  | [], _, s => (s, 0)
  | (pa, n) :: r, bs, s =>
    match devWrite s w pa (bs.take n) with
    | (s1, 0) => dripWrite w r (bs.drop n) s1
    | (s1, code) => (s1, streamCode code)

/-- Carry out a drip operation: translate both sides, read, write; `ok` and `hpa` are the port's translation of a host
destination under ATS. -/
def dripRun (s : State) (w ctx : Nat) (r : List Byte) (ok : Bool) (hpa : Nat) : State × Nat :=
  let n := dripLen r
  let x := wheelOf s w
  let src := dripSrc r
  let dst := dripDst r
  if dripCheck r ≠ 0 then (s, dripCheck r)
  else if dripSrcSpace r = 1 ∧ caveRangeOk x src n = false then (s, 0x060B)
  else
    let (s1, sm) := if dripSrcSpace r = 0 then dripMap w ctx false (dripPieces src n) s else (s, .ok [])
    match sm with
    | .error code => (s1, code)
    | .ok sp =>
      let (s2, dm) := if dripDstSpace r = 0 then dripMap w ctx true (dripPieces dst n) s1 else (s1, .ok [])
      match dm with
      | .error code => (s2, code)
      | .ok dp =>
        let port := dripDstSpace r - 2
        let ats := dripDstSpace r ≠ 0 && (portOf s2 port).ats
        if ats && !ok then (s2, 0x0605)
        else
          let (s3, got) :=
            if dripSrcSpace r = 0 then dripRead w sp s2
            else if caveUncorr (wheelOf s2 w) src n then (s2, .error 0x060E)
            else (onWheel s2 w (fun x => caveCorrect x src n), .ok (caveRead (wheelOf s2 w) src n))
          match got with
          | .error code => (s3, code)
          | .ok bs =>
            let s4 := wheyBump s3 w 3 1
            if dripDstSpace r = 0 then dripWrite w dp bs s4
            else match hostWrite s4 port (if ats then hpa else dst) bs with
              | some s5 => (s5, 0)
              | none => (s4, 0x0606)

/-- DRIP_OPERATION: the oldest drip operation of the wheel. -/
def dripStep (s : State) (w : Nat) (ok : Bool) (hpa : Nat) : State :=
  let y := (wheelOf s w).whey
  match y.drips with
  | [] => s
  | d :: r =>
    if y.st ≠ 0 then s
    else
      let s1 := onWhey s w (fun y => { y with drips := r })
      let (s2, code) := dripRun s1 w d.ctx d.record ok hpa
      wheyNote (wheyFinish s2 w ⟨0xFF, d.own, code, 0, 0, 0⟩) w d.flow code 0xFF

def execDripOperation (w : Fin 8) (ok : Bool) (hpa : Fin 144115188075855872) (s : State) :
    Host.Outcome State Fault Refusal :=
  .next (dripStep s w ok hpa)

end Sys2Proof.Machine
end

