-- ==== Sys2Proof/Machine/RennetOps.lean ====
section
/-!
DEFINITION. Sys2Proof/Machine/RennetOps.lean: Rennet within the module: the trace ring (R437, R438), the records of failed
flows and saturated counters, dispatch, tokens, completions of the engines (R433, R434), and layer barriers across the
part (R430–R432, R460–R462).
-/

namespace Sys2Proof.Machine

/-! ## Running Rennet -/

/-- Record an event (R438): records gather to a burst of 256 bytes, which goes into the ring as a whole, and RNT_TRACE_WPTR
then counts them (R437). A record that finds no room beside the unread ones and the burst's is dropped. DESIGN CHOICE
(log 27): a burst that is not full stays held. -/
def traceWrite (s : State) (w : Nat) (rec' : BitVec 128) : State :=
  let r := (wheelOf s w).rnt
  let cap := 2 ^ (bits (regGet r.regs 0x028) 4 0 - 4)
  let wp := regGet r.regs 0x038
  let set := fun (s : State) (f : Rennet → Rennet) => onWheel s w (fun x => { x with rnt := f x.rnt })
  if cap ≤ (wp + 2 ^ 32 - regGet r.regs 0x03C) % 2 ^ 32 + r.burst.length then
    set s (fun y => { y with lost := true, regs := errSet (bump y.regs 6 1) 0x4 0 0 })
  else
    let all := r.burst ++ [BitVec.ofNat 128 (rec'.toNat + b2n r.lost * 2 ^ 16)]
    if all.length < 16 then set s (fun y => { y with lost := false, burst := all })
    else
      let s1 := (devWrite s w (regGet r.regs 0x030 + 16 * (wp % cap)) (all.flatMap (fun b => leBytes 16 b.toNat))).1
      set s1 (fun y => { y with lost := false, burst := [], regs := regSet y.regs 0x038 ((wp + all.length) % 2 ^ 32) })

/-- a comes before b among the events of one clock: by EVENT, class, engine (R438). -/
def traceBefore (a b : BitVec 128) : Bool :=
  let key := fun (r : BitVec 128) => bits r.toNat 87 84 * 1024 + bits r.toNat 80 71
  decide (key a < key b)

def flushTrace (s : State) (w : Nat) : State :=
  let t := (wheelOf s w).rnt.trace
  (sortBy traceBefore t).foldl (fun s r => traceWrite s w r) (onWheel s w (fun x => { x with rnt := { x.rnt with trace := [] } }))

/-- The FLOW_FAILED record of a flow (R533, R534). -/
def failRecord (w : Nat) (r : FailRec) : Cpl :=
  { kind := 1, code := r.code, flow := r.flow, iter := r.iter, opid := r.opid
    d0 := r.unit.cls % 16 + w % 8 * 16 + r.unit.idx % 128 * 128 + r.aux % 2 ^ 32 * 2 ^ 32, d1 := r.d1 }

/-- Let a wheel's Rennet act, and carry out what leaves it. -/
def rRun (s : State) (w : Nat) (f : RCtx → RCtx) : State :=
  let c := f { x := wheelOf s w, w := w }
  let s0 := wheyBump (setWheel { s with mesh := s.mesh ++ c.mesh } w c.x) w 3 c.mesh.length
  let s1 := flushTrace s0 w
  let s2 := c.fails.foldl (fun s r => emitRec s r.ctx (failRecord w r)) s1
  c.sats.foldl (fun s t => satEvent s t.1 t.2.1 t.2.2) s2

/-! ## Plans and wheels -/

def planOf (s : State) (ctx : Nat) : Option Plan := (ctxOf s ctx).plan

/-- The physical wheels of a part, rising; the first is the anchor wheel (R461). -/
def partWheels (p : Plan) : List Nat := (p.wmap.map (·.2)).foldl (fun l w => insertNat w l) []
def physOf (p : Plan) (lw : Nat) : Option Nat := (p.wmap.find? (fun q => q.1 == lw)).map (·.2)
def logicalOf (p : Plan) (w : Nat) : Option Nat := (p.wmap.find? (fun q => q.2 == w)).map (·.1)

/-- A SUBMIT of some context waits for this wheel's store (R434). -/
def submitWaits (s : State) (w : Nat) : Bool :=
  s.ctxs.any (fun c => c.2.cmds.any (fun h => h.started && !h.taken && h.info.head? == some w))

/-- A token of another wheel waits in the mesh: it is the next of its sender and cannot be stored (R434). -/
def meshWaits (s : State) (w : Nat) : Bool :=
  s.mesh.any (fun m => match m with
    | .token t _ ctx opid slot iter => t == w && arrivesNext s m && (match storeOperand { x := wheelOf s w, w := w } 0 ctx opid slot iter with
      | .waits => true
      | .stored _ => false)
    | _ => false)

/-- An operand waits under R434: in the token queue, in the mesh, or as a SUBMIT. -/
def operandWaits (s : State) (w : Nat) : Bool := !(wheelOf s w).rnt.tokq.isEmpty || submitWaits s w || meshWaits s w

/-- DISPATCH: one Rennet clock (R424). RNT_FULL_CLOCKS counts the clocks with an operand waiting. -/
def dispatchClock (s : State) (w : Nat) : State :=
  rRun s w (fun c => rennetClock (if c.x.rnt.st = 0 ∧ operandWaits s w then rRegs c (fun g => bump g 5 1) else c))

def execDispatch (w : Fin 8) (s : State) : Host.Outcome State Fault Refusal := .next (dispatchClock s w)

/-- The message is a token for a slot, and the next of its sender. -/
def tokenFor (s : State) (w ctx opid slot iter : Nat) (m : MeshMsg) : Bool := match m with
  | .token _ v _ _ _ _ => m == MeshMsg.token w v ctx opid slot iter && arrivesNext s m
  | _ => false

/-- TOKEN_ARRIVAL: a token on the mesh reaches its wheel, the tokens of each sender in order; one that cannot be stored waits
in the mesh (R420, R421, R434). -/
def tokenArrival (s : State) (w ctx opid slot iter : Nat) : State :=
  match s.mesh.find? (tokenFor s w ctx opid slot iter) with
  | none => s
  | some m =>
    if (wheelOf s w).rnt.st ≠ 0 then s
    else
      match storeOperand { x := wheelOf s w, w := w } 0 ctx opid slot iter with
      | .waits => s
      | .stored _ =>
        rRun { s with mesh := s.mesh.erase m } w (fun c =>
          match storeOperand c 0 ctx opid slot iter with
          | .stored c' => c'
          | .waits => c)

def execTokenArrival (w : Fin 8) (x : Fin 1024) (opid : Fin 16777216) (slot : Fin 16) (iter : Fin 65536) (s : State) :
    Host.Outcome State Fault Refusal :=
  .next (tokenArrival s w x opid slot iter)

/-- SAVE_DONE (R427–R429). -/
def execSaveDone (w : Fin 8) (v : Fin 32) (s : State) : Host.Outcome State Fault Refusal :=
  .next (rRun s w (fun c => saveDone c v))

/-! ## Completions of the engines (R433) -/

/-- AUX and DETAIL1 of an engine's end (R534). -/
def endDetail (cls : Nat) (e : Eng) (f : Ended) : Nat × Nat :=
  match cls with
  | 2 => (f.place % 2 ^ 16 * 2 ^ 16 + f.value % 2 ^ 16, 0)
  | 3 =>
    (presentIx f.place * 2 ^ 16 + presentIx f.value,
     if f.code = 0x0401 ∨ f.code = 0x0408 ∨ f.code = 0x040D then e.col % 2 ^ 40 + (lTab e).table % 2 ^ 16 * 2 ^ 40 else 0)
  | _ => (f.place % 16 * 2 ^ 28 + f.value % 2 ^ 28, 0)

/-- The clock-count statistics of an engine: counter numbers by class. -/
def clockStats (cls : Nat) : List Nat :=
  match cls with
  | 2 => [5, 6, 7]
  | 3 => [7, 8]
  | _ => [5, 6]

/-- May a completion with this code be taken now: its tokens fit, and a record it produces has room (R434, R535). -/
def mayComplete (s : State) (w : Nat) (op : OpRef) (code : Nat) : Bool :=
  let x := wheelOf s w
  match findOp x.rnt op.ctx op.opid with
  | none => true
  | some o =>
    let st := (flowOf x.rnt o.flow).st
    if code = 0 then !(st == .openF || st == .failed) || tokensFit x w o op.iter
    else code == 0x0701 || st != .openF || recRoom s op.ctx

/-- The completion of a vat: the operation ends and the vat is idle. -/
def vatFinish (s : State) (w v : Nat) : State :=
  let t := vatOf (wheelOf s w) v
  match t.op, t.fin with
  | some op, some f =>
    if !t.closed || !(mayComplete s w op f.code) then s
    else
      let j := if f.code = 0x0149 ∨ f.code = 0x0130 then f.value else 0
      let s1 := onWheel s w (fun x => onVat (unbindVat x v) v (fun t =>
        { t with st := .idle, op := none, prog := {}, issue := none, wait := none, fin := none, closed := false
                 started := false }))
      rRun s1 w (fun c => completeInst c op f.code f.place j)
  | _, _ => s

/-- What an operation that completes adds to its engine's operation counters: a curd counts in PRS_CURDS with its rows in
PRS_ROWS_IN (R215; log 24), a grader's operation in GRD_OPS. -/
def endCount (u : UnitId) (e : Eng) (r : Regs) : Regs :=
  match u.cls with
  | 2 => if e.sub = 0 then bump (bump r 0 1) 1 (curdRows e.desc) else r
  | 3 => r
  | _ => bump r 0 1

/-- The value that a successful completion carries: AGG_EMIT's next line (R262), a MERGE's distinct count (R363). -/
def endValue (u : UnitId) (e : Eng) (f : Ended) : Option Nat :=
  let emit := u.cls == 2 && e.sub == 1 && opKind e.desc == 6
  let count := u.cls == 4 && gMode e.desc == 3 && gDistinct e.desc
  if f.code = 0 ∧ (emit || count) then some f.value else none

def doneValue (c : RCtx) (op : OpRef) (v : Option Nat) : RCtx :=
  match v with
  | some n => rOn c (fun r => { r with value := some ⟨op.ctx, op.opid, op.iter, n⟩ })
  | none => c

/-- The completion of a press, ladle or grader. -/
def engFinish (s : State) (w : Nat) (u : UnitId) : State :=
  let x := wheelOf s w
  let e := engOf x u
  match e.op, e.fin with
  | some op, some f =>
    if putsOpen x u || !e.outs.isEmpty || e.st == .fenced || !(mayComplete s w op f.code) then s
    else
      let d := endDetail u.cls e f
      let n := clocksOf s
      let r1 := endCount u e (endRegs u.cls op.flow 1 f e.regs)
      let r2 := (clockStats u.cls).foldl (fun r k => bump r k n) r1
      let s1 := { onWheel s w (fun x => setEng (unbindAll (returnHeld x u) u) u { regs := r2 }) with free := s.free + 1 }
      rRun s1 w (fun c => completeInst (doneValue c op (endValue u e f)) op f.code d.1 d.2)
  | _, _ => s

/-- The completion of a stream or drip operation that Rennet dispatched. -/
def wheyTake (s : State) (w : Nat) (chan : Nat) : State :=
  match (wheelOf s w).whey.dones.find? (fun d => d.chan == chan && (match d.own with
      | .inst _ => true
      | _ => false)) with
  | some d =>
    match d.own with
    | .inst op =>
      if !(mayComplete s w op d.code) then s
      else
        let d1 := if d.code = 0x0130 then d.value else if chan = 0xFF then 0 else d.moved
        rRun (onWhey s w (fun y => { y with dones := y.dones.erase d })) w (fun c => completeInst c op d.code 0 d1)
    | _ => s
  | none => s

/-- ENGINE_COMPLETION: class and engine, channel of a stream, or a drip operation. -/
def engineCompletion (s : State) (w cls idx : Nat) : State :=
  match cls with
  | 0 => s
  | 1 => if idx < 32 then vatFinish s w idx else s
  | 2 => if idx < 12 then engFinish s w ⟨2, idx⟩ else s
  | 3 => if idx < 8 then engFinish s w ⟨3, idx⟩ else s
  | 4 => if idx < 4 then engFinish s w ⟨4, idx⟩ else s
  | 5 => wheyTake s w idx
  | _ => wheyTake s w 0xFF

def execEngineCompletion (w : Fin 8) (cls : Fin 7) (idx : Fin 128) (s : State) : Host.Outcome State Fault Refusal :=
  .next (engineCompletion s w cls idx)

/-! ## Passes (R430, R431) -/

/-- The wheel that a part's wheels report to: the lowest (R461). -/
def anchorOf (p : Plan) : Nat := (partWheels p).headD 0

/-- ITER lies with every open pass in a window of four (R8, R413). -/
def iterInWindow (opens : List Nat) (iter : Nat) : Bool :=
  opens.all (fun i => let d := (iter + 65536 - i) % 65536
    decide (d ≤ 3) || decide (65533 ≤ d))

/-- Open a pass on every wheel of the part that is in service, layer `first` released. -/
def openPass (s : State) (ctx iter first : Nat) (resumed : Option Nat) : State :=
  match planOf s ctx with
  | none => s
  | some p =>
    (partWheels p).foldl (fun s w => onWheel s w (fun x =>
      if (findPass x.rnt ctx iter).isSome || x.svc != .inService then x
      else { x with rnt := { x.rnt with passes := x.rnt.passes ++ [{ ctx := ctx, iter := iter, released := first, closed := first, resumed := resumed }] } })) s

def passOpen (s : State) (p : Plan) (ctx iter : Nat) : Bool :=
  (partWheels p).any (fun w => (findPass (wheelOf s w).rnt ctx iter).isSome)

/-- The context has its four passes open on the wheel (R430). -/
def passesFull (s : State) (w ctx : Nat) : Bool :=
  decide (4 ≤ ((wheelOf s w).rnt.passes.filter (fun p => p.ctx == ctx)).length)

def layerOf (p : Plan) (n : Nat) : LayerRec := nth ⟨false, [], []⟩ p.layers n

/-- The wheel's part of a layer is closed: its instances have completed and its hoops are empty (R431). A wheel that is not in
service reports nothing, so that its part's contexts stop at their next barrier (R30). -/
def layerDone (s : State) (p : Plan) (w ctx iter n : Nat) : Bool :=
  match findPass (wheelOf s w).rnt ctx iter, logicalOf p w with
  | some q, some lw =>
    (wheelOf s w).svc == .inService && decide (q.released = n) && decide (q.closed = n)
      && decide (nth 0 (layerOf p n).counts lw ≤ tget 0 q.counts n)
      && (layerOf p n).hoops.all (fun h => h.1 != lw || (hoopOf (wheelOf s w) h.2).q.isEmpty)
  | _, _ => false

def setPlan (s : State) (ctx : Nat) (p : Plan) : State := onCtx s ctx (fun x => { x with plan := some p })

/-- A flow of the part was cancelled or failed (R533). -/
def partBad (s : State) (p : Plan) (ctx : Nat) : Bool :=
  (partWheels p).any (fun w => (wheelOf s w).rnt.flows.any (fun f =>
    f.2.ctx == ctx && (f.2.st == .cancelled || f.2.st == .failed)))

/-- Every wheel of the part has reported the layer, and every other module has sent its notice (R461). -/
def layerAgreed (p : Plan) (iter n : Nat) : Bool :=
  (partWheels p).all (fun w => p.reports.contains (iter, n, w))
    && decide (p.nmod ≤ (p.notices.filter (fun t => t.1 == iter && t.2.1 == n)).length + 1)

/-- Release the layer after n, or close the pass after its last layer; a full store of the context holds it (R535). -/
def releaseNext (s : State) (ctx iter n : Nat) : State :=
  match planOf s ctx with
  | none => s
  | some p =>
    if !(layerAgreed p iter n) || !(recRoom s ctx) then s
    else
      let drop := { p with reports := p.reports.filter (fun t => !(t.1 == iter && t.2.1 == n))
                           notices := p.notices.filter (fun t => !(t.1 == iter && t.2.1 == n)) }
      let s1 := setPlan s ctx drop
      let s2 := if (layerOf p n).restart then emitRec s1 ctx { kind := 2, code := 0, iter := iter, d0 := n } else s1
      if n + 1 < p.layers.length then
        wheyBump { s2 with mesh := s2.mesh ++ (partWheels p).map (fun w => MeshMsg.release w (anchorOf p) ctx iter (n + 1)) } (anchorOf p) 3
          (partWheels p).length
      else
        let s3 := emitRec s2 ctx { kind := 3, code := if partBad s2 p ctx then 0x0702 else 0, iter := iter }
        let s4 := (partWheels p).foldl (fun s w => onWheel s w (fun x =>
          { x with rnt := { x.rnt with passes := x.rnt.passes.filter (fun q => !(q.ctx == ctx && q.iter == iter)) } })) s3
        onCtx s4 ctx (fun x => { x with submits := x.submits.filter (fun t => t.iter != iter) })

/-- Try every release that a full store or a missing notice held. -/
def retryReleases (s : State) (ctx : Nat) : State :=
  match planOf s ctx with
  | none => s
  | some p => p.reports.foldl (fun s t => releaseNext s ctx t.1 t.2.1) s

/-- The wheel reports its part of a layer to the anchor wheel (R461). -/
def closureReport (s : State) (w ctx iter n : Nat) : State :=
  match planOf s ctx with
  | none => s
  | some p =>
    if !(layerDone s p w ctx iter n) then s
    else
      let s1 := rRun s w (fun c =>
        let c1 := match findPass c.x.rnt ctx iter with
          | some q => rOn c (fun r => setPass r { q with closed := n + 1 })
          | none => c
        traceEv c1 6 0 0 0 0 iter n 0)
      let p1 := { p with reports := p.reports ++ [(iter, n, w)] }
      setPlan (wheyBump s1 w 3 1) ctx p1

/-- The message is a release of a layer for a wheel, and the next of its sender. -/
def releaseFor (s : State) (w ctx iter n : Nat) (m : MeshMsg) : Bool := match m with
  | .release _ v _ _ _ => m == MeshMsg.release w v ctx iter n && arrivesNext s m
  | _ => false

/-- LAYER_RELEASE: a release on its way to the wheel reaches its Rennet (R432). -/
def layerRelease (s : State) (w ctx iter n : Nat) : State :=
  match s.mesh.find? (releaseFor s w ctx iter n) with
  | none => s
  | some m =>
    onWheel { s with mesh := s.mesh.erase m } w (fun x => match findPass x.rnt ctx iter with
      | some q => { x with rnt := setPass x.rnt { q with released := max q.released n } }
      | none => x)

def execLayerRelease (w : Fin 8) (x : Fin 1024) (iter layer : Fin 65536) (s : State) : Host.Outcome State Fault Refusal :=
  .next (layerRelease s w x iter layer)

/-! ## Registers that Rennet acts on (R439, R444) -/

/-- A write to RNT_FLOW_SEL; CLR clears the counters of the flow it selects. -/
def flowSelWrite (s : State) (port w word : Nat) : State :=
  if !(wheelVisible s port w) then s
  else
    onWheel s w (fun x =>
      let e := bits word 10 0
      let r := { x.rnt with flowSel := e }
      { x with rnt := if bitAt word 31 then
          setFlow r e { flowOf r e with dispatched := 0, completed := 0, cancelled := 0, failed := 0 } else r })

def execFlowSelWrite (port : Fin 2) (w : Fin 8) (word : Word) (s : State) : Host.Outcome State Fault Refusal :=
  .next (flowSelWrite s port w word.toNat)

/-- A write to RNT_TRACE_CTRL: it needs the feature TRACE, and an invalid ring leaves tracing disabled (R444, R522). -/
def traceCtrlWrite (s : State) (port w word : Nat) : State :=
  if !(wheelVisible s port w) || !(bitAt (portOf s port).accept 3) then s
  else
    onWheel s w (fun x =>
      let lg := bits word 4 0
      let ok := decide (12 ≤ lg) && decide (lg ≤ 30) && decide (regGet x.rnt.regs 0x030 % 2 ^ lg = 0)
      let v := bits word 15 8 * 256 + lg + (if ok && bitAt word 31 then 2 ^ 31 else 0)
      { x with rnt := { x.rnt with regs := regSet x.rnt.regs 0x028 v } })

def execTraceCtrlWrite (port : Fin 2) (w : Fin 8) (word : Word) (s : State) : Host.Outcome State Fault Refusal :=
  .next (traceCtrlWrite s port w word.toNat)

end Sys2Proof.Machine
end

