-- ==== Sys2Proof/Machine/Creamery.lean ====
section
/-!
DEFINITION. Sys2Proof/Machine/Creamery.lean: the Ethernet ports (R470–R474), the module's time (R482–R484), packets (R478–
R480), and the transmitting side: windows, slack, retransmissions, acknowledgements, notices and control packets (R490–
R493, R501, R505).
-/

namespace Sys2Proof.Machine

/-- The Creamery of a port's die works (R507). -/
def crmUp (s : State) (e : Nat) : Bool := tget 0 s.crm.st (eDie s e) == 0

/-! ## Links and neighbours (R471–R474) -/

/-- LINK_DOWN: a port loses link. -/
def linkDown (s : State) (e : Nat) : State :=
  if (ePort s e).link then crmErr (onEPort s e (fun p => { p with link := false })) e 0x10 0 0 0 else s

def execLinkDown (e : Fin 8) (s : State) : Host.Outcome State Fault Refusal := .next (linkDown s e)

/-- The number a 16-byte address field holds: the whole of it for IPv6, its bytes 12 to 15 for IPv4, network order. -/
def culAddr (s : State) (o : Nat) : Nat :=
  let bs := (s.culture.drop o).take 16
  (if ipv6 s then bs else bs.drop 12).foldl (fun a b => a * 256 + b.toNat) 0

/-- The address of port p of the module with node number `n` (R473). -/
def nodeAddr (s : State) (p n : Nat) : Nat := culAddr s (0xB0 + 16 * p) + n

/-- The next hop on a port for a destination (R473). -/
def nextHop (s : State) (p dst : Nat) : Nat :=
  let g := culAddr s (0x130 + 16 * p)
  if g = 0 then dst else g

/-- The next hop of an address is in the cache. -/
def resolved (s : State) (e a : Nat) : Bool := (ePort s e).neigh.any (fun n => n.1 == a)

def send (s : State) (o : Out) : State := { s with out := s.out ++ [o] }

/-- An address as it goes on the wire: 16 bytes or 4, network order. -/
def addrBytes (s : State) (a : Nat) : List Byte := (leBytes (if ipv6 s then 16 else 4) a).reverse

/-- PCP and DSCP of the scheduled and transport classes, and of the control class (R481). -/
def schedPcp (s : State) : Nat := culF s 0xA4 14 12
def ctrlPcp (s : State) : Nat := culF s 0xA4 18 16
def schedDscp (s : State) : Nat := culF s 0xA4 29 24
def ctrlDscp (s : State) : Nat := culF s 0xA8 5 0

/-- Ask on a port for the link address of a next hop (R473). Frame kind 1 is an ARP request or Neighbor Solicitation, 2 its
answer, 3 an echo answer; all go at the control PCP (R474). -/
def askHop (s : State) (e a : Nat) : State := send s (.frame e 1 (ctrlPcp s) (addrBytes s a))

/-- Send the frames that wait for a next hop in the cache, in their order. -/
def sendWaiting (s : State) (e : Nat) : State :=
  if !(ePort s e).link then s
  else
    let mac := fun (a : Nat) => ((ePort s e).neigh.find? (fun n => n.1 == a)).map (·.2)
    let (go, keep) := (ePort s e).wait.partition (fun f => (mac f.1).isSome)
    go.foldl (fun s f => crmBump (send s (.packet { f.2 with mac := (mac f.1).getD 0 })) e 0) (onEPort s e (fun p => { p with wait := keep }))

/-- LINK_RETRY: a port that is down tries to come up; `ok` and `fault` are what the lanes give. -/
def linkRetry (s : State) (e : Nat) (ok fault : Bool) : State :=
  if ePorts s ≤ e ∨ (ePort s e).link then s
  else if ok && !fault then
    let s1 := sendWaiting (onEPort s e (fun p => { p with link := true, fault := false })) e
    (ePort s1 e).wait.foldl (fun s f => askHop s e f.1) s1
  else if fault then crmErr (onEPort s e (fun p => { p with fault := true })) e 0x10 0 0 0
  else s

def execLinkRetry (e : Fin 8) (ok fault : Bool) (s : State) : Host.Outcome State Fault Refusal := .next (linkRetry s e ok fault)

/-- NEIGHBOR_REFRESH: the port asks again for every next hop it holds. -/
def neighRefresh (s : State) (e : Nat) : State :=
  if !(ePort s e).link then s else (ePort s e).neigh.foldl (fun s n => askHop s e n.1) s

def execNeighborRefresh (e : Fin 8) (s : State) : Host.Outcome State Fault Refusal := .next (neighRefresh s e)

/-- A frame that is not for the module is dropped and counted (R474). -/
def foreign (s : State) (e : Nat) : State := if e < ePorts s ∧ (ePort s e).link then crmBump s e 8 else s

def execPause (e : Fin 8) (s : State) : Host.Outcome State Fault Refusal := .next (foreign s e)
def execForeignFrame (e : Fin 8) (s : State) : Host.Outcome State Fault Refusal := .next (foreign s e)

/-- The address is one of the module's own on this port. -/
def ownAddr (s : State) (e a : Nat) : Bool := s.node != 0xFFF && a == nodeAddr s e s.node

/-- A request for the module's own address is answered, any other is foreign (R474). -/
def answer (s : State) (e : Nat) (want : Bool) (target kind : Nat) (data : List Byte) : State :=
  if e < ePorts s ∧ (ePort s e).link ∧ want = ipv6 s ∧ ownAddr s e target then send s (.frame e kind (ctrlPcp s) data) else foreign s e

def execArpRequest (e : Fin 8) (target : BitVec 32) (sender : BitVec 32) (s : State) : Host.Outcome State Fault Refusal :=
  .next (answer s e false target.toNat 2 (addrBytes s sender.toNat))

def execNeighborSolicitation (e : Fin 8) (target : BitVec 128) (sender : BitVec 128) (s : State) :
    Host.Outcome State Fault Refusal :=
  .next (answer s e true target.toNat 2 (addrBytes s sender.toNat))

def execEchoRequest (e : Fin 8) (v6 : Bool) (target : BitVec 128) (data : List Byte) (s : State) :
    Host.Outcome State Fault Refusal :=
  .next (answer s e v6 target.toNat 3 data)

/-- A reply resolves a next hop into the cache of 256 entries (R473). -/
def resolveHop (s : State) (e : Nat) (want : Bool) (a mac : Nat) : State :=
  if e < ePorts s ∧ (ePort s e).link ∧ want = ipv6 s then
    sendWaiting (onEPort s e (fun p =>
      let l := p.neigh.filter (fun n => n.1 != a) ++ [(a, mac)]
      { p with neigh := l.drop (l.length - 256) })) e
  else foreign s e

def execArpReply (e : Fin 8) (a : BitVec 32) (mac : BitVec 48) (s : State) : Host.Outcome State Fault Refusal :=
  .next (resolveHop s e false a.toNat mac.toNat)

def execNeighborAdvertisement (e : Fin 8) (a : BitVec 128) (mac : BitVec 48) (s : State) :
    Host.Outcome State Fault Refusal :=
  .next (resolveHop s e true a.toNat mac.toNat)

/-! ## Time (R482–R484) -/

def onPtp (s : State) (f : Ptp → Ptp) : State := onCrm s (fun c => { c with ptp := f c.ptp })

/-- Leaving LOCKED sets SYNC_LOST. -/
def syncLost (s : State) (e : Nat) (next : Nat) : State :=
  let s1 := onPtp s (fun p => { p with sync := next, run := 0 })
  if s.crm.ptp.sync = 2 ∧ next ≠ 2 then crmErr s1 e 0x8 0 0 0 else s1

/-- A new offset estimate, by a valid Sync or by a delay measurement (R484). -/
def ptpEstimate (s : State) (e : Nat) (off : Int) (isSync : Bool) : State :=
  let s1 := onPtp s (fun p => { p with offset := max (-(2 ^ 31)) (min (2 ^ 31 - 1) off), two := false })
  let near := decide (off.natAbs ≤ 40)
  if 50 < off.natAbs ∧ s.crm.ptp.sync ≠ 0 then syncLost s1 e 0
  else if !isSync then s1
  else match s.crm.ptp.sync with
    | 0 =>
      if near then (if s.crm.ptp.run = 15 then onPtp s1 (fun p => { p with sync := 2, run := 0 })
        else onPtp s1 (fun p => { p with run := p.run + 1 }))
      else onPtp s1 (fun p => { p with run := 0 })
    | 1 => if near then onPtp s1 (fun p => { p with sync := 2 }) else s1
    | _ => s1

def ptpActive (s : State) (e : Nat) : Bool := s.crm.ptp.port == e && (ePort s e).link

/-- SYNC: a valid Sync message on the active port with the time it gives; a two-step one waits for its Follow_Up. -/
def ptpSync (s : State) (e : Nat) (off : Int) (two : Bool) (time : Nat) : State :=
  if !(ptpActive s e) then s
  else
    let s1 := onPtp s (fun p => { p with time := time })
    if two then onPtp s1 (fun p => { p with two := true }) else ptpEstimate s1 e off true

def execSync (e : Fin 8) (off : BitVec 64) (two : Bool) (time : DWord) (s : State) : Host.Outcome State Fault Refusal :=
  .next (ptpSync s e off.toInt two time.toNat)

def execFollowUp (e : Fin 8) (off : BitVec 64) (s : State) : Host.Outcome State Fault Refusal :=
  .next (if ptpActive s e && s.crm.ptp.two then ptpEstimate s e off.toInt true else s)

def execDelayResp (e : Fin 8) (off : BitVec 64) (s : State) : Host.Outcome State Fault Refusal :=
  .next (if ptpActive s e then ptpEstimate s e off.toInt false else s)

/-- SYNC_TIMEOUT: three Sync intervals without a valid Sync. -/
def execSyncTimeout (e : Fin 8) (s : State) : Host.Outcome State Fault Refusal :=
  .next (if s.crm.ptp.port == e.val && s.crm.ptp.sync == 2 then syncLost s e 1 else s)

/-- HOLDOVER_EXPIRY: one second in HOLDOVER. -/
def execHoldoverExpiry (e : Fin 8) (s : State) : Host.Outcome State Fault Refusal :=
  .next (if s.crm.ptp.port == e.val && s.crm.ptp.sync == 1 then syncLost s e 0 else s)

def execAnnounce (e : Fin 8) (s : State) : Host.Outcome State Fault Refusal :=
  .next (if s.crm.ptp.port == e.val then onPtp s (fun p => { p with misses := 0 }) else s)

/-- ANNOUNCE_RECEIPT_TIMEOUT: after the third, PTP moves to the next port in ascending order, wrapping, that has link. -/
def announceTimeout (s : State) (e : Nat) : State :=
  if s.crm.ptp.port ≠ e then s
  else if s.crm.ptp.misses < 2 then onPtp s (fun p => { p with misses := p.misses + 1 })
  else
    let cand := ((upto (ePorts s)).map (fun k => (e + 1 + k) % ePorts s)).find? (fun q => (ePort s q).link)
    onPtp s (fun p => { p with misses := 0, port := cand.getD e })

def execAnnounceReceiptTimeout (e : Fin 8) (s : State) : Host.Outcome State Fault Refusal := .next (announceTimeout s e)

/-! ## Packets (R478–R480) -/

/-- The fields of a transport header. -/
structure Pkt where
  ver : Nat := 1
  type : Nat
  last : Bool := false
  wend : Bool := false
  lmsg : Bool := false
  retx : Bool := false
  src : Nat
  dst : Nat
  ctx : Nat
  wheel : Nat := 0
  flow : Nat := 0
  seq : Nat := 0
  ptag : Nat := 0
  msg : Nat := 0
  off : Nat := 0
  iter : Nat := 0
  layer : Nat := 0
  code : Nat := 0
  plen : Nat := 0
  bad : Bool := false
  deriving DecidableEq, Repr

/-- Read a transport header: word k in bits [64k + 63:64k]. -/
def pktOf (h : BitVec 256) : Pkt :=
  let f := fun (k hi lo : Nat) => bits h.toNat (64 * k + hi) (64 * k + lo)
  { ver := f 0 63 60, type := f 0 59 56, last := f 0 55 55 == 1, wend := f 0 54 54 == 1, lmsg := f 0 53 53 == 1
    retx := f 0 52 52 == 1, src := f 0 51 40, dst := f 0 39 28, ctx := f 0 27 18, wheel := f 0 17 15, flow := f 0 13 0
    seq := f 1 63 32, ptag := f 1 31 0, msg := f 2 63 32, off := f 2 21 0, iter := f 3 63 48, layer := f 3 47 32
    code := f 3 31 16, plen := f 3 13 0
    bad := f 0 14 14 != 0 || f 2 31 22 != 0 || f 3 15 14 != 0 }

/-- A transport header as a number. -/
def pktHead (p : Pkt) : Nat :=
  let w0 := p.ver * 2 ^ 60 + p.type * 2 ^ 56 + b2n p.last * 2 ^ 55 + b2n p.wend * 2 ^ 54 + b2n p.lmsg * 2 ^ 53
    + b2n p.retx * 2 ^ 52 + p.src % 4096 * 2 ^ 40 + p.dst % 4096 * 2 ^ 28 + p.ctx % 1024 * 2 ^ 18 + p.wheel % 8 * 2 ^ 15
    + p.flow % 2 ^ 14
  let w1 := p.seq % 2 ^ 32 * 2 ^ 32 + p.ptag % 2 ^ 32
  let w2 := p.msg % 2 ^ 32 * 2 ^ 32 + p.off % 2 ^ 22
  let w3 := p.iter % 2 ^ 16 * 2 ^ 48 + p.layer % 2 ^ 16 * 2 ^ 32 + p.code % 2 ^ 16 * 2 ^ 16 + p.plen % 2 ^ 14
  w0 + w1 * 2 ^ 64 + w2 * 2 ^ 128 + w3 * 2 ^ 192

/-- The UDP payload of a packet: header, payload and CRC-32C trailer (R478). -/
def pktBytes (p : Pkt) (data : List Byte) : List Byte :=
  let bs := leBytes 32 (pktHead p) ++ data
  bs ++ leBytes 4 (crc32cSeed 0 bs)

/-- The frame of a packet to the address that the receiver has on its port `peer` (R473, R478); its link address is filled in
when it is sent. -/
def frameOf (s : State) (e peer sport : Nat) (p : Pkt) (data : List Byte) : PktFrame :=
  let ctl := decide (p.type = 6 ∨ p.type = 7)
  { port := e, mac := 0, vlan := culF s 0xA4 11 0, pcp := if ctl then ctrlPcp s else schedPcp s
    dscp := if ctl then ctrlDscp s else schedDscp s, v6 := ipv6 s, srcIp := nodeAddr s e s.node
    dstIp := nodeAddr s peer p.dst, sport := sport, dport := culF s 0xA0 31 16, ttl := 64, df := !(ipv6 s), ecn := 0
    data := pktBytes p data }

/-- Send a frame whose next hop is resolved; any other waits, and the port asks for the next hop (R473). -/
def sendFrame (s : State) (e : Nat) (f : PktFrame) : State :=
  let hop := nextHop s e f.dstIp
  let s1 := sendWaiting (onEPort s e (fun p => { p with wait := p.wait ++ [(hop, f)] })) e
  if (ePort s e).link && !(resolved s e hop) then askHop s1 e hop else s1

/-- Send a packet that belongs to no transmit flow to a node, at the address it has on its port of the same number (DESIGN
CHOICE, log 29: the header names no port of the sender). -/
def sendPkt (s : State) (e : Nat) (p : Pkt) (data : List Byte) : State := sendFrame s e (frameOf s e e 0 p data)

/-- b follows a (R8, n = 32). -/
def follows (a b : Nat) : Bool :=
  let d := (b + 2 ^ 32 - a) % 2 ^ 32
  decide (1 ≤ d) && decide (d < 2 ^ 31)

/-- The module takes part in the fabric on this port (R476). -/
def fabricOn (s : State) (e : Nat) : Bool := s.node != 0xFFF && decide (e < ePorts s) && (ePort s e).link && crmUp s e

/-! ## Transmitting (R490, R491, R493) -/

/-- Picoseconds a frame of a payload takes on the wire, preamble and gap included. -/
def framePs (s : State) (plen : Nat) : Nat :=
  (18 + (if ipv6 s then 40 else 20) + 8 + 32 + plen + 4 + 4 + 20) * 8 * 1000 / eRate s

def pktOfTx (s : State) (t : TxFlow) (ptag : Nat) (p : TxPkt) (again wend : Bool) (iter layer : Nat) : Pkt :=
  { type := 0, last := p.last, wend := wend, lmsg := p.lmsg, retx := again, src := s.node, dst := t.peer, ctx := t.ctx
    wheel := t.peerWheel, flow := t.flow, seq := p.seq, ptag := ptag, msg := p.msg, off := p.off, iter := iter
    layer := layer, plen := p.bytes.length }

def planTag (s : State) (ctx : Nat) : Nat := match planOf s ctx with
  | some p => p.planId % 2 ^ 32
  | none => 0

/-- ITER and LAYER of the instance whose stream sends. -/
def txIter (s : State) (t : TxFlow) : Nat × Nat :=
  match t.chan with
  | some c => match (chOf s t.wheel c).own with
    | some (.inst op) => (op.iter, op.layer)
    | _ => (0, 0)
  | none => (0, 0)

/-- Send one DATA packet of a flow. -/
def sendData (s : State) (e : Nat) (t : TxFlow) (p : TxPkt) (again wend : Bool) : State :=
  let (iter, layer) := txIter s t
  let s1 := sendFrame s e (frameOf s e t.dport t.sport (pktOfTx s t (planTag s t.ctx) p again wend iter layer) p.bytes)
  let s2 := if again then crmBump s1 e 2 else s1
  let s3 := match findTx s2 t.ctx t.flow with
    | some u => setTx s2 { u with pkts := u.pkts.map (fun q => if q.seq == p.seq then { q with sent := true } else q) }
    | none => s2
  match t.chan with
  | some c => onChan s3 t.wheel c (fun y => { y with irrev := true })
  | none => s3

/-- A packet to send: whether it is a retransmission, and whether it carries WEND anyway. -/
structure Due where
  pkt : TxPkt
  again : Bool
  wend : Bool
  deriving DecidableEq, Repr

def retxOf (s : State) (t : TxFlow) : List Due :=
  t.pkts.filterMap (fun p =>
    match s.crm.retx.find? (fun r => r.ctx == t.ctx && r.flow == t.flow && r.seq == p.seq) with
    | some r => some ⟨p, true, r.wend⟩
    | none => none)

/-- New packets that may be sent: their message precedes the credit limit, and fewer than 1,024 packets of the flow are
unacknowledged. -/
def newOf (t : TxFlow) : List Due :=
  let open' := (t.pkts.filter (·.sent)).length
  ((t.pkts.filter (fun p => !p.sent && follows p.msg t.limit)).take (1024 - open')).map (fun p => ⟨p, false, false⟩)

/-- The packets that end within `ps` picoseconds. -/
def fitting (s : State) : Nat → List Due → List Due
  | _, [] => []
  | ps, d :: r =>
    let n := framePs s d.pkt.bytes.length
    if n ≤ ps then d :: fitting s (ps - n) r else []

/-- The next hop of a flow's packets on a port. -/
def txHop (s : State) (e : Nat) (t : TxFlow) : Nat := nextHop s e (nodeAddr s t.dport t.peer)

/-- A flow may send: it is not stale (R502), and its wheel is in service. -/
def txOpen (s : State) (t : TxFlow) : Bool := !t.stale && (wheelOf s t.wheel).svc == .inService

/-- A flow may send on a port now: its next hop is resolved as well (R473). -/
def txReady (s : State) (e : Nat) (t : TxFlow) : Bool := txOpen s t && resolved s e (txHop s e t)

/-- An uncorrectable error in a flow's staging, which no command reports, fails its stream with 0x0809 (R506). -/
def txUncorr (s : State) (e : Nat) (t : TxFlow) : State :=
  let s1 := crmErr (setTx s { t with uncorr := false }) e 0x20 t.flow 0x0809 t.peer
  match t.chan with
  | some c => chFail s1 t.wheel c 0x0809 0
  | none => s1

def dropRetx (s : State) (ctx flow seq : Nat) : State :=
  onCrm s (fun c => { c with retx := c.retx.filter (fun r => !(r.ctx == ctx && r.flow == flow && r.seq == seq)) })

/-- Send packets of one flow; the last one of a window carries WEND. -/
def sendDues (s : State) (e : Nat) (t : TxFlow) (window : Bool) : List Due → State
  | [] => s
  | d :: r =>
    let s1 := dropRetx (sendData s e t d.pkt d.again (d.wend || (window && r.isEmpty))) t.ctx t.flow d.pkt.seq
    sendDues s1 e t window r

/-- DATA is sent: the time is LOCKED or in HOLDOVER (R484). -/
def dataAllowed (s : State) (e : Nat) : Bool := fabricOn s e && s.crm.ptp.sync != 0

/-- TRANSMIT_WINDOW: window `k` of the context's slot table opens on the port. -/
def txWindow (s : State) (e ctx k : Nat) : State :=
  match planOf s ctx with
  | none => s
  | some p => match p.slot with
    | none => s
    | some tab => match tab.wins[k]? with
      | none => s
      | some wn => match findTx s ctx wn.flow with
        | none => s
        | some t =>
          if wn.port ≠ e ∨ dataAllowed s e = false ∨ txOpen s t = false then s
          else if t.uncorr then txUncorr s e t
          else if txReady s e t = false then (if t.pkts.isEmpty then s else askHop s e (txHop s e t))
          else
            let rs := sortBy (fun (a b : Due) => follows a.pkt.seq b.pkt.seq) (retxOf s t)
            sendDues s e t true (fitting s (wn.len * 1000) (rs ++ newOf t))

def execTransmitWindow (e : Fin 8) (x : Fin 1024) (k : Fin 16384) (s : State) : Host.Outcome State Fault Refusal :=
  .next (txWindow s e x k)

/-- A flow has a window on the port. -/
def flowOnPort (s : State) (e : Nat) (ctx flow : Nat) : Bool :=
  match planOf s ctx with
  | some p => match p.slot with
    | some tab => tab.wins.any (fun w => w.flow == flow && w.port == e)
    | none => false
  | none => false

def slackPs (s : State) (ctx : Nat) : Nat :=
  match planOf s ctx with
  | some p => match p.slot with
    | some tab => (tab.epoch - tab.slack) * 1000
    | none => 0
  | none => 0

/-- Send the port's retransmissions that are due, in the order of their NACKs, until one does not end within the slack. -/
def slackGo (e : Nat) : List Retx → Nat → State → State
  | [], _, s => s
  | r :: rest, used, s =>
    match findTx s r.ctx r.flow with
    | none => slackGo e rest used s
    | some t =>
      match t.pkts.find? (fun p => p.seq == r.seq) with
      | none => slackGo e rest used s
      | some p =>
        if t.uncorr then slackGo e rest used (if flowOnPort s e r.ctx r.flow && txOpen s t then txUncorr s e t else s)
        else
        let n := framePs s p.bytes.length
        if flowOnPort s e r.ctx r.flow && txReady s e t then
          if used + n ≤ slackPs s r.ctx then
            slackGo e rest (used + n) (dropRetx (sendData s e t p true r.wend) r.ctx r.flow r.seq)
          else s
        else slackGo e rest used s

/-- SLACK: the slack of an epoch on a port (R491). -/
def txSlack (s : State) (e : Nat) : State := if dataAllowed s e then slackGo e s.crm.retx 0 s else s

def execSlack (e : Fin 8) (s : State) : Host.Outcome State Fault Refusal := .next (txSlack s e)

def addRetx (s : State) (r : Retx) : State :=
  if s.crm.retx.any (fun q => q.ctx == r.ctx && q.flow == r.flow && q.seq == r.seq) then s
  else onCrm s (fun c => { c with retx := c.retx ++ [r] })

/-- RETRANSMIT_TIMEOUT: one epoch without ACK or NACK: the first unacknowledged packet is due again, with WEND (R493). -/
def retxTimeout (s : State) (ctx flow : Nat) : State :=
  match findTx s ctx flow with
  | none => s
  | some t =>
    if t.stale then s
    else match t.pkts.find? (·.sent) with
      | some p => addRetx s ⟨ctx, flow, p.seq, true⟩
      | none => s

def execRetransmitTimeout (_e : Fin 8) (x : Fin 1024) (flow : Fin 16384) (s : State) : Host.Outcome State Fault Refusal :=
  .next (retxTimeout s x flow)

/-! ## Answers to what was sent (R491, R492) -/

/-- A port takes packets: its die works, or it is behind a rind and the packet is DATA, which is answered with 0x0804
(R580). -/
def rxOpen (s : State) (e type : Nat) : Bool := crmUp s e || (tget 0 s.crm.st (eDie s e) == 1 && type == 0)

/-- The checks on any received packet (R476, R480): what is left to do, or the state after it is dropped. `good` says that
the frame's FCS, UDP checksum and trailer hold. -/
def rxCheck (s : State) (e : Nat) (p : Pkt) (type n : Nat) (good : Bool) : State × Bool :=
  if ePorts s ≤ e ∨ (ePort s e).link = false ∨ rxOpen s e p.type = false then (s, false)
  else if s.node = 0xFFF then (foreign s e, false)
  else if !good || p.ver != 1 || p.bad || decide (8 ≤ p.type) || p.plen != n || p.dst != s.node
      || (p.type != 5 && p.code != 0) then (crmBump s e 6, false)
  else if p.type ≠ type then (s, false)
  else (crmBump s e 1, true)

/-- ACK: packets before its SEQ are acknowledged, and its MSG is the credit limit. -/
def rxAck (s : State) (p : Pkt) : State :=
  match findTx s p.ctx p.flow with
  | none => s
  | some t =>
    if t.peer ≠ p.src ∨ t.stale then s
    else
      let (gone, kept) := t.pkts.partition (fun q => q.sent && follows q.seq p.seq)
      let n := gone.foldl (fun n q => n + q.bytes.length) 0
      let s1 := setTx s { t with pkts := kept, limit := if follows t.limit p.msg then p.msg else t.limit }
      let s2 := gone.foldl (fun s q => dropRetx s t.ctx t.flow q.seq) s1
      match t.chan with
      | none => s2
      | some c =>
        let s3 := onChan s2 t.wheel c (fun y => { y with netAcked := y.netAcked + n, netDone := y.netDone || gone.any (·.last) })
        if sdSrcKind (chOf s3 t.wheel c).sd = 1 then srcRelease s3 t.wheel c else s3

/-- NACK: the missing packets that were sent are due again. -/
def rxNack (s : State) (p : Pkt) : State :=
  match findTx s p.ctx p.flow with
  | none => s
  | some t =>
    if t.peer ≠ p.src ∨ t.stale then s
    else (t.pkts.filter (fun q => q.sent && decide ((q.seq + 2 ^ 32 - p.seq) % 2 ^ 32 < min 1024 p.msg))).foldl
      (fun s q => addRetx s { ctx := t.ctx, flow := t.flow, seq := q.seq }) s

/-- Every flow of a context's plan on the wheels given enters FAILED with a code (R501, R466, R591). -/
def failFlowsOn (s : State) (ctx code : Nat) (ws : List Nat) : State :=
  ws.foldl (fun s w => rRun s w (fun c =>
    (c.x.rnt.flows.filter (fun f => f.2.ctx == ctx && f.2.st == .openF)).foldl
      (fun c f => failFlow c ⟨ctx, w * 2048 + f.1, 0, 0, code, ⟨0, 0⟩, 0, 0⟩) c)) s

/-- STATUS: the stream whose packet it answers fails; for a NOTICE answered with 0x0803, the plan's flows fail. -/
def rxStatus (s : State) (e : Nat) (p : Pkt) : State :=
  let s1 := if 0x0803 ≤ p.code ∧ p.code ≤ 0x0805 then crmErr s e 0x4 p.flow p.code p.src
    else if p.code = 0x0806 then crmErr s e 0x2 p.flow p.code p.src else s
  let data := match findTx s1 p.ctx p.flow with
    | some t => if t.peer = p.src ∧ t.pkts.any (fun q => q.seq == p.seq && q.sent) then t.chan else none
    | none => none
  match data, findTx s1 p.ctx p.flow with
  | some c, some t => chFail s1 t.wheel c p.code 0
  | _, _ =>
    if p.code = 0x0803 ∧ s1.crm.notes.any (fun n => n.ctx == p.ctx && n.node == p.src && n.num == p.seq) then
      let s2 := onCrm s1 (fun c => { c with notes := c.notes.filter (fun n => !(n.ctx == p.ctx && n.node == p.src && n.num == p.seq)) })
      match planOf s2 p.ctx with
      | some pl => crmErr (failFlowsOn s2 p.ctx 0x0803 (partWheels pl)) e 0x1 0 0x0803 p.src
      | none => s2
    else s1

/-- A received packet of one type. -/
def rxCmd (s : State) (e : Nat) (h : BitVec 256) (type : Nat) (data : List Byte) (good : Bool) (f : State → Pkt → State) :
    State :=
  let p := pktOf h
  match rxCheck s e p type data.length good with
  | (s1, true) => f s1 p
  | (s1, false) => s1

def execAck (e : Fin 8) (hdr : BitVec 256) (data : List Byte) (good : Bool) (s : State) : Host.Outcome State Fault Refusal :=
  .next (rxCmd s e hdr 1 data good rxAck)

def execNack (e : Fin 8) (hdr : BitVec 256) (data : List Byte) (good : Bool) (s : State) : Host.Outcome State Fault Refusal :=
  .next (rxCmd s e hdr 2 data good rxNack)

def execStatus (e : Fin 8) (hdr : BitVec 256) (data : List Byte) (good : Bool) (s : State) :
    Host.Outcome State Fault Refusal :=
  .next (rxCmd s e hdr 5 data good (fun s p => rxStatus s e p))

/-! ## Notices (R501) -/

def noticePkt (s : State) (n : NoticeOut) : Pkt :=
  { type := 3, src := s.node, dst := n.node, ctx := n.ctx, seq := n.num, ptag := planTag s n.ctx, iter := n.iter
    layer := n.layer }

/-- The lowest-numbered port with link of the die that holds the anchor wheel. -/
def noticePort (s : State) (ctx : Nat) : Option Nat :=
  match planOf s ctx with
  | none => none
  | some p =>
    let d := ((partWheels p).head?.getD 0) / 4
    (upto (ePorts s)).find? (fun e => eDie s e == d && (ePort s e).link)

def sendNotice (s : State) (n : NoticeOut) : State :=
  match noticePort s n.ctx with
  | some e => if fabricOn s e then sendPkt s e (noticePkt s n) [] else s
  | none => s

/-- Send a closure notice to every other module of the plan. -/
def sendNotices (s : State) (ctx iter layer : Nat) : State :=
  match planOf s ctx with
  | none => s
  | some p =>
    ((upto p.nmod).filter (fun m => m != p.lmod)).foldl (fun s m =>
      let node := nth 0xFFF p.nodes m
      let key := ctx * 4096 + node
      let n : NoticeOut := ⟨ctx, node, tget 0 s.crm.noteNum key, iter, layer⟩
      sendNotice (onCrm s (fun c => { c with notes := c.notes ++ [n], noteNum := tmod 0 c.noteNum key (fun k => (k + 1) % 2 ^ 32) })) n) s

/-- LAYER_CLOSURE_REPORT (R461): the wheel reports to the anchor wheel; when every wheel has reported, the notices go out,
and with those of the other modules the next layer is released. -/
def closureCmd (s : State) (w ctx iter n : Nat) : State :=
  match planOf s ctx with
  | none => s
  | some p =>
    if !(layerDone s p w ctx iter n) then s
    else
      let s1 := closureReport s w ctx iter n
      let all := match planOf s1 ctx with
        | some q => (partWheels q).all (fun v => q.reports.contains (iter, n, v))
        | none => false
      if all then releaseNext (sendNotices s1 ctx iter n) ctx iter n else s1

def execLayerClosureReport (w : Fin 8) (x : Fin 1024) (iter layer : Fin 65536) (s : State) :
    Host.Outcome State Fault Refusal := .next (closureCmd s w x iter layer)

/-- A number is so far behind another of the same sender that its repeats have ended: numbers wrap, and those kept stay
within the half that R8 orders (DESIGN CHOICE, log 88). -/
def farBehind (e n : Nat) : Bool :=
  let d := (n + 2 ^ 32 - e) % 2 ^ 32
  decide (2 ^ 30 ≤ d) && decide (d < 2 ^ 31)

/-- The notice numbers handled, with one more. -/
def noteHandled (c : Crm) (p : Pkt) : List (Nat × Nat × Nat) :=
  c.noteSeen.filter (fun n => !(n.1 == p.ctx && n.2.1 == p.src && farBehind n.2.2 p.seq)) ++ [(p.ctx, p.src, p.seq)]

/-- The control numbers handled, with one more. -/
def ctrlHandled (c : Crm) (p : Pkt) : List (Nat × Nat) :=
  c.ctrlSeen.filter (fun n => !(n.1 == p.src && farBehind n.2 p.seq)) ++ [(p.src, p.seq)]

/-- NOTICE: recorded once, and answered. -/
def rxNotice (s : State) (e : Nat) (p : Pkt) : State :=
  match planOf s p.ctx with
  | none => crmBump (sendPkt s e { type := 5, src := s.node, dst := p.src, ctx := p.ctx, seq := p.seq, ptag := p.ptag, code := 0x0803 } []) e 7
  | some pl =>
    if pl.planId % 2 ^ 32 ≠ p.ptag ∨ (ctxOf s p.ctx).st = .closing then
      crmBump (sendPkt s e { type := 5, src := s.node, dst := p.src, ctx := p.ctx, seq := p.seq, ptag := p.ptag, code := 0x0803 } []) e 7
    else
      let s1 := sendPkt s e { type := 4, src := s.node, dst := p.src, ctx := p.ctx, seq := p.seq, ptag := p.ptag } []
      if s1.crm.noteSeen.contains (p.ctx, p.src, p.seq) then s1
      else
        let s2 := onCrm s1 (fun c => { c with noteSeen := noteHandled c p })
        let t := (p.iter, p.layer, p.src)
        releaseNext (setPlan s2 p.ctx { pl with notices := if pl.notices.contains t then pl.notices else pl.notices ++ [t] }) p.ctx p.iter p.layer

def execNotice (e : Fin 8) (hdr : BitVec 256) (data : List Byte) (good : Bool) (s : State) :
    Host.Outcome State Fault Refusal := .next (rxCmd s e hdr 3 data good (fun s p => rxNotice s e p))

def execNoticeAck (e : Fin 8) (hdr : BitVec 256) (data : List Byte) (good : Bool) (s : State) :
    Host.Outcome State Fault Refusal :=
  .next (rxCmd s e hdr 4 data good (fun s p => onCrm s (fun c =>
    { c with notes := c.notes.filter (fun n => !(n.ctx == p.ctx && n.node == p.src && n.num == p.seq)) })))

/-- NOTICE_REPEAT: an unacknowledged notice is sent again. -/
def execNoticeRepeat (_e : Fin 8) (x : Fin 1024) (node : Fin 4096) (num : Word) (s : State) :
    Host.Outcome State Fault Refusal :=
  .next (match s.crm.notes.find? (fun n => n.ctx == x.val && n.node == node.val && n.num == num.toNat) with
    | some n => sendNotice s n
    | none => s)

/-! ## Control packets (R505) -/

def ctrlPkt (s : State) (node num n : Nat) : Pkt := { type := 6, src := s.node, dst := node, ctx := 0, seq := num, plen := n }

/-- CTRL: every one is acknowledged, and each number is handled once; what the firmware does with it changes nothing else
of the machine. -/
def rxCtrl (s : State) (e : Nat) (p : Pkt) : State :=
  let s1 := sendPkt s e { type := 7, src := s.node, dst := p.src, ctx := p.ctx, seq := p.seq, ptag := p.ptag } []
  if s1.crm.ctrlSeen.contains (p.src, p.seq) then s1
  else onCrm s1 (fun c => { c with ctrlSeen := ctrlHandled c p })

def execCtrl (e : Fin 8) (hdr : BitVec 256) (data : List Byte) (good : Bool) (s : State) :
    Host.Outcome State Fault Refusal :=
  .next (rxCmd s e hdr 6 data (good && decide (data.length ≤ 1024)) (fun s p => rxCtrl s e p))

def execCtrlAck (e : Fin 8) (hdr : BitVec 256) (data : List Byte) (good : Bool) (s : State) :
    Host.Outcome State Fault Refusal :=
  .next (rxCmd s e hdr 7 data good (fun s p => onCrm s (fun c =>
    { c with ctrls := c.ctrls.filter (fun m => !(m.1 == p.src && m.2.1 == p.seq)) })))

/-- CTRL_REPEAT: a control packet of the firmware is sent again, up to eight times; the first one for a number is its
sending. -/
def ctrlRepeat (s : State) (e node num : Nat) (data : List Byte) : State :=
  if !(fabricOn s e) || decide (1024 < data.length) then s
  else match s.crm.ctrls.find? (fun m => m.1 == node && m.2.1 == num) with
    | none => onCrm (sendPkt s e (ctrlPkt s node num data.length) data) (fun c => { c with ctrls := c.ctrls ++ [(node, num, data, 0)] })
    | some (_, _, d, k) =>
      if k < 8 then
        onCrm (sendPkt s e (ctrlPkt s node num d.length) d) (fun c =>
          { c with ctrls := c.ctrls.map (fun m => if m.1 == node && m.2.1 == num then (node, num, d, k + 1) else m) })
      else onCrm s (fun c => { c with ctrls := c.ctrls.filter (fun m => !(m.1 == node && m.2.1 == num)) })

def execCtrlRepeat (e : Fin 8) (node : Fin 4096) (num : Word) (data : List Byte) (s : State) :
    Host.Outcome State Fault Refusal := .next (ctrlRepeat s e node num.toNat data)

end Sys2Proof.Machine
end

