-- ==== Sys2Proof/Machine/CreameryRx.lean ====
section
/-!
DEFINITION. Sys2Proof/Machine/CreameryRx.lean: receiving DATA (R494–R500): routing and its STATUS answers, receive states,
buffers and handles, combine groups, acknowledgements and credits.
-/

namespace Sys2Proof.Machine

/-- The producer side of a receive hoop: the Creamery holds it while the plan is loaded. -/
def rxUnit : UnitId := ⟨9, 0⟩

def findRx (s : State) (w ctx flow node : Nat) : Option RxRec :=
  s.crm.rxs.find? (fun r => r.wheel == w && r.ctx == ctx && r.flow == flow && (r.anySrc || r.node == node))

def sameSrc (a b : RxSrc) : Bool := a.wheel == b.wheel && a.ctx == b.ctx && a.flow == b.flow && a.node == b.node

def findSrc (s : State) (w ctx flow node : Nat) : Option RxSrc :=
  s.crm.srcs.find? (fun r => r.wheel == w && r.ctx == ctx && r.flow == flow && r.node == node)

def setSrc (s : State) (r : RxSrc) : State :=
  onCrm s (fun c => { c with srcs := c.srcs.map (fun q => if sameSrc q r then r else q) })

/-! ## Answers -/

/-- Answer a packet with a STATUS (R494). -/
def statusReply (s : State) (e : Nat) (p : Pkt) (code : Nat) : State :=
  let q : Pkt := { type := 5, src := s.node, dst := p.src, ctx := p.ctx, wheel := p.wheel, flow := p.flow, seq := p.seq, ptag := p.ptag, code := code }
  let s1 := crmBump (sendPkt s e q []) e 7
  if code = 0x0806 then crmErr s1 e 0x2 p.flow code p.src else s1

/-- Send the ACK of a source: NEXT and the credit limit (R498). -/
def sendAck (s : State) (r : RxSrc) : State :=
  let q : Pkt := { type := 1, src := s.node, dst := r.node, ctx := r.ctx, flow := r.flow, seq := r.next, ptag := planTag s r.ctx, msg := r.limit }
  setSrc (sendPkt s r.port q []) { r with since := 0, credit := false }

/-- The first missing range: NEXT, and the SEQ values up to the first received beyond it. -/
def missing (r : RxSrc) : Nat :=
  r.got.foldl (fun n q => min n ((q + 2 ^ 32 - r.next) % 2 ^ 32)) 1024

def sendNack (s : State) (r : RxSrc) (count : Nat) : State :=
  let q : Pkt := { type := 2, src := s.node, dst := r.node, ctx := r.ctx, flow := r.flow, seq := r.next, ptag := planTag s r.ctx, msg := count }
  setSrc (crmBump (sendPkt s r.port q []) r.port 3) { r with nacked := some r.next }

/-! ## Messages (R495–R497) -/

/-- Messages from the next without a buffer up to `m` (R495). -/
def newMsgs (r : RxSrc) (m : Nat) : List Nat :=
  let d := (m + 2 ^ 32 - r.mnext) % 2 ^ 32
  if 2 ^ 31 ≤ d then [] else (upto (d + 1)).map (fun k => (r.mnext + k) % 2 ^ 32)

/-- The buffer of a combine group's message: the group's own, or a new one filled with zeros; none where no buffer is free. -/
def groupBuf (s : State) (rec' : RxRec) (m : Nat) : Option (State × Nat) :=
  match s.crm.grps.find? (fun g => g.wheel == rec'.wheel && g.hoop == rec'.hoop && g.msg == m) with
  | some g => some (s, g.buf)
  | none =>
    match (hoopOf (wheelOf s rec'.wheel) rec'.hoop).free with
    | [] => none
    | i :: _ =>
      let s1 := onWheel s rec'.wheel (fun x =>
        let x1 := hoopObtain x rec'.hoop 1
        caveWrite x1 (bufAddr (hoopOf x1 rec'.hoop) i) (leBytes rec'.msgBytes 0))
      some (onCrm s1 (fun c => { c with grps := c.grps ++ [⟨rec'.wheel, rec'.hoop, m, i, []⟩] }), i)

/-- Obtain the buffer of one message. -/
def msgBuf (s : State) (rec' : RxRec) (m : Nat) : Option (State × Nat) :=
  if rec'.combine then groupBuf s rec' m
  else
    match (hoopOf (wheelOf s rec'.wheel) rec'.hoop).free with
    | [] => none
    | i :: _ => some (onWheel s rec'.wheel (fun x => hoopObtain x rec'.hoop 1), i)

/-- Obtain the buffers of messages in order; those obtained before the pool runs out are kept. -/
def obtainMsgs (rec' : RxRec) : List Nat → State → RxSrc → State × RxSrc
  | [], s, r => (s, r)
  | m :: ms, s, r =>
    match msgBuf s rec' m with
    | none => (s, r)
    | some (s1, i) =>
      obtainMsgs rec' ms s1 { r with msgs := r.msgs ++ [{ msg := m, buf := i }], mnext := (m + 1) % 2 ^ 32 }

/-- Combine a payload with the partials in a buffer, 16 bytes at a time (R497, R54, R55): the bytes and the first code. -/
def combineBytes : List (List Byte) → List (List Byte) → List Byte × Nat
  | a :: as, b :: bs =>
    let (x, c) := combinePartial (leNat a) (leNat b)
    let (r, c') := combineBytes as bs
    (leBytes 16 x ++ r, if c = 0 then c' else c)
  | _, _ => ([], 0)

/-- Charge a failure of a receive flow to its Rennet flow (R487, R497). -/
def chargeRx (s : State) (w ctx lflow code : Nat) : State :=
  rRun s w (fun c => failFlow c ⟨ctx, lflow, 0, 0, code, ⟨0, 0⟩, 0, 0⟩)

/-- Write a payload into the buffer of its message. -/
def writePayload (s : State) (rec' : RxRec) (i off : Nat) (data : List Byte) : State :=
  let x := wheelOf s rec'.wheel
  let a := bufAddr (hoopOf x rec'.hoop) i + off
  if rec'.combine then
    let pad := data ++ List.replicate (alignUp data.length 16 - data.length) 0
    let n := pad.length / 16 + 1
    let (bs, code) := combineBytes (chunksOf 16 n (caveRead x a pad.length)) (chunksOf 16 n pad)
    let s1 := onWheel s rec'.wheel (fun x => caveWrite x a bs)
    if code = 0 then s1 else chargeRx s1 rec'.wheel rec'.ctx rec'.lflow code
  else onWheel s rec'.wheel (fun x => caveWrite x a data)

/-- Put the handles of complete messages in message order (R496). -/
def putMsgs (rec' : RxRec) : Nat → State → RxSrc → State × RxSrc
  | 0, s, r => (s, r)
  | n + 1, s, r =>
    match r.msgs with
    | [] => (s, r)
    | m :: ms =>
      if m.len = some m.got then
        let s1 := onWheel s rec'.wheel (fun x => hoopPut x rec'.hoop rxUnit ⟨false, m.last, rec'.hoop, m.got, bufAddr (hoopOf x rec'.hoop) m.buf⟩)
        putMsgs rec' n s1 { r with msgs := ms, bufs := r.bufs ++ [m.buf] }
      else (s, r)

/-- Set NAN in every partial of a combined buffer (R497). -/
def markNan (s : State) (rec' : RxRec) (i n : Nat) : State :=
  let x := wheelOf s rec'.wheel
  let a := bufAddr (hoopOf x rec'.hoop) i
  let bs := (chunksOf 16 (n / 16 + 1) (caveRead x a n)).flatMap (fun b =>
    leBytes 16 (packPartial (partialL (leNat b)) { partialWin (leNat b) with nan := true }))
  onWheel s rec'.wheel (fun x => caveWrite x a bs)

/-- The records of a combine group. -/
def groupRecs (s : State) (w hoop : Nat) : List RxRec :=
  s.crm.rxs.filter (fun r => r.combine && r.wheel == w && r.hoop == hoop)

/-- A source's message of a combine group is complete: the group's handle is put when every source's is. -/
def groupDone (s : State) (rec' : RxRec) (r : RxSrc) (m : RxMsg) : State :=
  match s.crm.grps.find? (fun g => g.wheel == rec'.wheel && g.hoop == rec'.hoop && g.msg == m.msg) with
  | none => s
  | some g =>
    let g1 := { g with done := g.done ++ [(r.node, r.flow, m.got, m.last)] }
    if g1.done.length < (groupRecs s rec'.wheel rec'.hoop).length then
      onCrm s (fun c => { c with grps := c.grps.map (fun q => if q = g then g1 else q) })
    else
      let n := g1.done.foldl (fun n d => max n d.2.2.1) 0
      let equal := g1.done.all (fun d => d.2.2.1 == n)
      let s1 := if equal then s else
        crmErr (chargeRx (markNan s rec' g.buf n) rec'.wheel rec'.ctx rec'.lflow 0x0806) r.port 0x2 rec'.flow 0x0806 r.node
      let last := g1.done.any (fun d => d.2.2.2)
      onCrm (onWheel s1 rec'.wheel (fun x => hoopPut x rec'.hoop rxUnit ⟨false, last, rec'.hoop, n, bufAddr (hoopOf x rec'.hoop) g.buf⟩))
        (fun c => { c with grps := c.grps.filter (fun q => q ≠ g) })

def finishGroupMsgs (rec' : RxRec) : List RxMsg → State → RxSrc → State × RxSrc
  | [], s, r => (s, r)
  | m :: ms, s, r =>
    if m.len = some m.got then
      finishGroupMsgs rec' ms (groupDone s rec' r m) { r with msgs := r.msgs.filter (fun q => q.msg != m.msg) }
    else finishGroupMsgs rec' ms s r

/-- Advance NEXT over the SEQ values received. -/
def advanceNext : Nat → RxSrc → RxSrc
  | 0, r => r
  | n + 1, r =>
    if r.got.contains r.next then advanceNext n { r with got := r.got.filter (· != r.next), next := (r.next + 1) % 2 ^ 32 } else r

/-- Take a DATA packet into its flow (R495–R498). -/
def rxStore (s : State) (e : Nat) (p : Pkt) (data : List Byte) (rec' : RxRec) (r0 : RxSrc) : State :=
  let r := { r0 with port := e }
  let d := (p.seq + 2 ^ 32 - r.next) % 2 ^ 32
  if follows p.seq r.next || r.got.contains p.seq then sendAck (crmBump s e 4) r
  else if 1024 ≤ d then crmBump s e 6
  else
    let (s1, r1) := obtainMsgs rec' (newMsgs r p.msg) s r
    match r1.msgs.find? (fun m => m.msg == p.msg) with
    | none => setSrc s1 r1
    | some m =>
      let m1 := { m with got := m.got + data.length, len := if p.lmsg then some (p.off + data.length) else m.len
                         last := m.last || p.last }
      let s2 := writePayload s1 rec' m.buf p.off data
      let r2 := advanceNext 1024 { r1 with
        msgs := r1.msgs.map (fun q => if q.msg == p.msg then m1 else q), got := r1.got ++ [p.seq], since := r1.since + 1
        winOpen := !p.wend }
      let (s3, r3) := if rec'.combine then finishGroupMsgs rec' r2.msgs s2 r2 else putMsgs rec' (r2.msgs.length) s2 r2
      let r3 := { r3 with mid := !(r2.msgs.any (·.last)) || r3.msgs.any (·.last) }
      let s4 := setSrc s3 r3
      let s5 := if p.wend || p.last || decide (32 ≤ r3.since) then sendAck s4 r3 else s4
      let r4 := (findSrc s5 r3.wheel r3.ctx r3.flow r3.node).getD r3
      if !r4.got.isEmpty ∧ r4.nacked ≠ some r4.next then sendNack s5 r4 (min 1024 (missing r4)) else s5

/-- The source state of a packet, allocated at a source's first packet; none where the wheel's table is full. -/
def rxSource (s : State) (rec' : RxRec) (p : Pkt) : Option (State × RxSrc) :=
  match findSrc s rec'.wheel p.ctx p.flow p.src with
  | some r => some (s, r)
  | none =>
    if 1024 ≤ (s.crm.srcs.filter (fun r => r.wheel == rec'.wheel)).length then none
    else
      let r : RxSrc := { wheel := rec'.wheel, ctx := p.ctx, flow := p.flow, node := p.src, limit := rec'.init }
      some (onCrm s (fun c => { c with srcs := c.srcs ++ [r] }), r)

/-- The limit a packet's message must precede. -/
def rxLimit (s : State) (rec' : RxRec) (p : Pkt) : Nat :=
  match findSrc s rec'.wheel p.ctx p.flow p.src with
  | some r => r.limit
  | none => rec'.init

/-- DATA: the first case of R494 that applies answers it; otherwise it is taken. A flow-share search that fails, or an
uncorrectable error of the receive state, which no command reports, fails the receive flow's Rennet flow instead (R282,
R283, R506; DEDUCED, log 29: the packet is then neither stored nor answered). -/
def rxData (s : State) (e : Nat) (data : List Byte) (p : Pkt) : State :=
  match planOf s p.ctx with
  | none => statusReply s e p 0x0803
  | some pl =>
    if (ctxOf s p.ctx).st = .closing ∨ pl.planId % 2 ^ 32 ≠ p.ptag then statusReply s e p 0x0803
    else match physOf pl p.wheel with
      | none => statusReply s e p 0x0805
      | some w =>
        let stale := s.crm.rxs.any (fun r => r.wheel == w && r.ctx == p.ctx && r.stale)
        if (wheelOf s w).svc ≠ .inService ∨ stale ∨ crmUp s e = false then statusReply s e p 0x0804
        else
          let key : BitVec 128 := BitVec.ofNat 128 (p.ctx * 2 ^ 64 + p.src * 2 ^ 32 + p.flow)
          let (m, res) := mldSearch (wheelOf s w).mld 1 p.ctx key
          let s1 := onWheel s w (fun x => { x with mld := m })
          match res, findRx s1 w p.ctx p.flow p.src with
          | .fail code, some rec' => chargeRx s1 w p.ctx rec'.lflow code
          | .hit _ _, some rec' =>
            if rec'.msgBytes < p.off + p.plen ∨ follows p.msg (rxLimit s1 rec' p) = false then statusReply s1 e p 0x0806
            else match rxSource s1 rec' p with
              | none => statusReply s1 e p 0x0806
              | some (s2, r) =>
                if r.uncorr then
                  crmErr (chargeRx (setSrc s2 { r with uncorr := false }) w p.ctx rec'.lflow 0x0809) e 0x20 p.flow 0x0809 p.src
                else rxStore s2 e p data rec' r
          | _, _ => statusReply s1 e p 0x0805

def execData (e : Fin 8) (hdr : BitVec 256) (data : List Byte) (good : Bool) (s : State) :
    Host.Outcome State Fault Refusal :=
  .next (rxCmd s e hdr 0 data (good && decide (data.length ≤ 8960)) (fun s p => rxData s e data p))

/-! ## Deadlines and timers (R498, R500) -/

/-- The state may still send: its wheel is in service and its port's Creamery is up, since packets of a fenced wheel or die
that have not started are not sent (R502, R580). -/
def rxSends (s : State) (r : RxSrc) : Bool := (wheelOf s r.wheel).svc == .inService && crmUp s r.port

/-- WINDOW_DEADLINE: packets of the window came without WEND, or a NACKed range is not filled: NACK, and a new epoch begins
for the flow. -/
def windowDeadline (s : State) (w ctx flow node : Nat) : State :=
  match findSrc s w ctx flow node with
  | none => s
  | some r =>
    if !(rxSends s r) then s
    else if r.winOpen || r.nacked == some r.next then
      let s1 := sendNack s r (if r.got.isEmpty then 1 else min 1024 (missing r))
      match findSrc s1 w ctx flow node with
      | some q => setSrc s1 { q with winOpen := false }
      | none => s1
    else setSrc s { r with nacked := none }

def execWindowDeadline (_e : Fin 8) (w : Fin 8) (x : Fin 1024) (flow : Fin 16384) (node : Fin 4096) (s : State) :
    Host.Outcome State Fault Refusal := .next (windowDeadline s w x flow node)

/-- ACK_CREDIT_TIMER: the credit limit changed since the last ACK. -/
def ackTimer (s : State) (w ctx flow node : Nat) : State :=
  match findSrc s w ctx flow node with
  | some r => if r.credit && rxSends s r then sendAck s r else s
  | none => s

def execAckCreditTimer (_e : Fin 8) (w : Fin 8) (x : Fin 1024) (flow : Fin 16384) (node : Fin 4096) (s : State) :
    Host.Outcome State Fault Refusal := .next (ackTimer s w x flow node)

/-- LATE_TRANSFER: at the end of the slack a transfer's last message is not complete (R500), whether or not any of it is
on its way into a buffer. -/
def lateTransfer (s : State) (e w ctx flow node : Nat) : State :=
  match findSrc s w ctx flow node with
  | some r => if r.mid then crmErr (crmBump s e 5) e 0x40 flow 0 node else s
  | none => s

def execLateTransfer (e : Fin 8) (w : Fin 8) (x : Fin 1024) (flow : Fin 16384) (node : Fin 4096) (s : State) :
    Host.Outcome State Fault Refusal := .next (lateTransfer s e w x flow node)

/-! ## Credits (R496, R497) -/

/-- A consumer's release of a receive buffer advances the credit limit: of the source it came from, or of every flow of
the combine group. -/
def rxCredit (s : State) (w hoop i : Nat) : State :=
  let up := fun (r : RxSrc) => { r with limit := (r.limit + 1) % 2 ^ 32, credit := true }
  let group := groupRecs s w hoop
  onCrm s (fun c => { c with srcs := c.srcs.map (fun r =>
    if r.wheel != w then r
    else if group.any (fun g => g.ctx == r.ctx && g.flow == r.flow) then up r
    else if (match findRx s w r.ctx r.flow r.node with
        | some g => g.hoop == hoop
        | none => false) && r.bufs.contains i then { up r with bufs := r.bufs.erase i }
    else r) })

/-- BUFFER_RELEASE: the oldest release under way ends: the buffer is free, or of a remote producer sent to it as a credit,
or of a receive hoop a credit to its senders (R381, R394, R496). -/
def bufferReleased (s : State) (w h : Nat) : State :=
  let y := hoopOf (wheelOf s w) h
  match y.rels with
  | [] => s
  | i :: _ => if y.prod = some rxUnit then rxCredit (bufferRelease s w h) w h i else bufferRelease s w h

def execBufferRelease (w : Fin 8) (h : Fin 1024) (s : State) : Host.Outcome State Fault Refusal :=
  .next (bufferReleased s w h)

end Sys2Proof.Machine
end

