-- ==== Sys2Proof/Machine/Ecdsa.lean ====
section
/-!
DEFINITION. Sys2Proof/Machine/Ecdsa.lean: verification of ECDSA over P-521 with SHA-512 (R651, R452), as FIPS 186-5
defines it, and the 160-byte signature section. PRESUMED: the curve's constants are the standard's.
-/

namespace Sys2Proof.Machine

def ecP : Nat := 2 ^ 521 - 1
def ecB : Nat := 0x51953EB9618E1C9A1F929A21A0B68540EEA2DA725B99B315F3B8B489918EF109E156193951EC7E937B1652C0BD3BB1BF073573DF883D2C34F1EF451FD46B503F00
def ecN : Nat := 2 ^ 521 - 2 ^ 260 + 0xA51868783BF2F966B7FCC0148F709A5D03BB5C9B8899C47AEBB6FB71E91386409
def ecGx : Nat := 0xC6858E06B70404E9CD9E3ECB662395B4429C648139053FB521F828AF606B4D3DBAA14B5E77EFE75928FE1DC127A2FFA8DE3348B3C1856A429BF97E7E31C2E5BD66
def ecGy : Nat := 0x11839296A789A3BC0045C8A5FB42C7D1BD998F54449579B446817AFBD17273E662C97EE72995EF42640C550B9013FAD0761353C7086A272C24088BE94769FD16650

/-- x^e mod m, over the `n` low bits of e. -/
def powMod (m : Nat) : Nat → Nat → Nat → Nat → Nat
  | 0, _, _, acc => acc
  | n + 1, x, e, acc => powMod m n (x * x % m) (e / 2) (if e % 2 = 1 then acc * x % m else acc)

/-- The inverse modulo a prime below 2^521. -/
def invMod (m x : Nat) : Nat := powMod m 521 (x % m) (m - 2) 1

abbrev EcPoint := Option (Nat × Nat)

/-- The line through two points, with slope num / den. -/
def ecChord (num den : Nat) (a b : Nat × Nat) : EcPoint :=
  let l := num * invMod ecP den % ecP
  let x := (l * l + 2 * ecP - a.1 - b.1) % ecP
  some (x, (l * (a.1 + ecP - x) + ecP - a.2) % ecP)

def ecAdd (a b : EcPoint) : EcPoint :=
  match a, b with
  | none, q => q
  | p, none => p
  | some p, some q =>
    if p.1 = q.1 then
      if (p.2 + q.2) % ecP = 0 then none
      else ecChord (3 * p.1 * p.1 + ecP - 3) (2 * p.2) p q
    else ecChord (q.2 + ecP - p.2) (q.1 + ecP - p.1) p q

/-- A multiple of a point, over the `n` low bits of the factor. -/
def ecMul : Nat → Nat → EcPoint → EcPoint → EcPoint
  | 0, _, _, acc => acc
  | n + 1, k, p, acc => ecMul n (k / 2) (ecAdd p p) (if k % 2 = 1 then ecAdd acc p else acc)

/-- The point of a 133-byte public key, none where it is not on the curve (R651). -/
def ecKey (key : List Byte) : EcPoint :=
  let x := beNat ((key.drop 1).take 66)
  let y := beNat ((key.drop 67).take 66)
  if key.length = 133 ∧ key.head? = some 4 ∧ x < ecP ∧ y < ecP ∧ y * y % ecP = (x * x * x + ecP * 3 - 3 * x + ecB) % ecP then some (x, y)
  else none

/-- A 132-byte signature of a message verifies with a public key (R651). -/
def ecVerify (key msg sig : List Byte) : Bool :=
  let r := beNat (sig.take 66)
  let s := beNat ((sig.drop 66).take 66)
  match ecKey key with
  | none => false
  | some q =>
    if r = 0 ∨ s = 0 ∨ ecN ≤ r ∨ ecN ≤ s then false
    else
      let w := invMod ecN s
      let z := beNat (sha512 msg)
      match ecAdd (ecMul 521 (z * w % ecN) (some (ecGx, ecGy)) none) (ecMul 521 (r * w % ecN) (some q) none) with
      | none => false
      | some v => v.1 % ecN == r

/-- The identifier of a key held in the ROM or the fuses (R651). -/
def keyId (key : List Byte) : List Byte := (sha512 key).take 8

/-- A signature section (R452) verifies a message with one of the keys that its identifier names. -/
def sectionVerifies (keys : List (List Byte × List Byte)) (msg sec : List Byte) : Bool :=
  (sec.drop 140).all (· == 0) && keys.any (fun k => k.1 == sec.take 8 && ecVerify k.2 msg ((sec.drop 8).take 132))

end Sys2Proof.Machine
end

