-- ==== Sys2Proof/Machine/PlanImage.lean ====
section
/-!
DEFINITION. Sys2Proof/Machine/PlanImage.lean: the plan image (R447–R452), the operation records (R417–R419), the slot
table (R486–R489), the barrier list (R460) and the placement table (R454, R455), with the checks of a load in the order
of R457.
-/

namespace Sys2Proof.Machine

/-- Why a load is refused: the code, the section and the entry concerned (R457), and the OPID (R419). -/
structure LoadErr where
  code : Nat
  sec : Nat := 0xFFFF
  ent : Nat := 0xFFFFFFFF
  opid : Nat := 0
  deriving DecidableEq, Repr

/-! ## The header (R447) -/

structure Hdr where
  nsec : Nat
  bytes : Nat
  planId : Nat
  lmod : Nat
  nmod : Nat
  lwheels : Nat
  nlayer : Nat
  feat : Nat
  caveTop : Nat
  sigOfs : Nat
  timeout : Nat
  deriving DecidableEq, Repr

def hdrOf (h : List Byte) : Hdr :=
  { nsec := leAt h 6 2, bytes := leAt h 8 8, planId := leAt h 0x10 8, lmod := bits (leAt h 0x18 8) 9 0
    nmod := bits (leAt h 0x18 8) 26 16, lwheels := bits (leAt h 0x18 8) 39 32, nlayer := bits (leAt h 0x18 8) 63 48
    feat := leAt h 0x20 16, caveTop := leAt h 0x30 8, sigOfs := leAt h 0x38 8, timeout := leAt h 0x40 4 }

/-- MAGIC, VER, ranges and reserved fields (step 2 of R457). -/
def hdrOk (b : List Byte) : Bool :=
  let h := hdrOf b
  let w := leAt b 0x18 8
  leAt b 0 4 == 0x4C50584F && leAt b 4 2 == 1 && decide (1 ≤ h.nsec) && decide (h.nsec ≤ 256)
    && decide (128 + 32 * h.nsec ≤ h.bytes) && decide (h.bytes ≤ 2 ^ 32)
    && decide (1 ≤ h.nmod) && decide (h.nmod ≤ 1024) && decide (1 ≤ h.nlayer)
    && bits w 15 10 == 0 && bits w 31 27 == 0 && bits w 47 40 == 0 && decide (h.caveTop < 2 ^ 22)
    && (h.timeout == 0 || (decide (10 ≤ h.timeout) && decide (h.timeout ≤ 60000000))) && leAt b 0x44 4 == 0
    && leAt b 0x48 56 == 0

def lwOn (h : Hdr) (lw : Nat) : Bool := bitAt h.lwheels lw

/-! ## The section table (R448, R449) -/

structure Sec where
  i : Nat
  ty : Nat
  lw : Nat
  count : Nat
  off : Nat
  len : Nat
  caddr : Nat
  deriving DecidableEq, Repr

def secOf (b : List Byte) (i : Nat) : Sec :=
  let o := 128 + 32 * i
  { i := i, ty := leAt b o 1, lw := bits (leAt b o 4) 10 8, count := leAt b (o + 4) 4, off := leAt b (o + 8) 8
    len := leAt b (o + 16) 8, caddr := leAt b (o + 24) 8 }

def wheelSec (ty : Nat) : Bool := [1, 2, 3, 4, 5, 6, 9, 10].contains ty
def partSec (ty : Nat) : Bool := [7, 8, 11, 15].contains ty
def singleSec (ty : Nat) : Bool := [1, 2, 3, 7, 8, 11, 15].contains ty

/-- The bytes of a section of fixed entries; none where the length follows from the entries. -/
def entrySize (ty : Nat) : Option Nat :=
  match ty with
  | 2 => some 8 | 3 => some 16 | 9 => some 32 | 10 => some 48 | 11 => some 32 | _ => none

/-- A section entry satisfies R448 and R449, the sections before it given; the signature section ends the image where
SIG_OFS says (R452). -/
def secOk (b : List Byte) (h : Hdr) (prev : List Sec) (s : Sec) : Bool :=
  let w := leAt b (128 + 32 * s.i) 4
  let allw := bitAt w 11
  bits w 31 12 == 0 && decide (s.caddr < 2 ^ 27) && (s.ty == 1 || s.caddr == 0)
    && ((wheelSec s.ty && !allw && lwOn h s.lw) || (partSec s.ty && allw && s.lw == 0))
    && s.off % 32 == 0 && decide (128 + 32 * h.nsec ≤ s.off) && decide (s.off + s.len ≤ h.bytes)
    && prev.all (fun p => p.len == 0 || s.len == 0 || decide (p.off + p.len ≤ s.off) || decide (s.off + s.len ≤ p.off))
    && !(singleSec s.ty && prev.any (fun p => p.ty == s.ty && (partSec s.ty || p.lw == s.lw)))
    && (match entrySize s.ty with
        | some n => decide (n * s.count ≤ s.len)
        | none => true)
    && (s.ty != 15 || (s.i + 1 == h.nsec && s.off == h.sigOfs && s.len == 160 && s.off + 160 == h.bytes))

def sectionsGo (b : List Byte) (h : Hdr) : Nat → List Sec → Except LoadErr (List Sec)
  | 0, acc => .ok acc
  | n + 1, acc =>
    let s := secOf b (h.nsec - (n + 1))
    if secOk b h acc s then sectionsGo b h n (acc ++ [s]) else .error { code := 0x0931, sec := s.i }

/-- The section table (step 3): one BARRIER and one REGION section, and a SIG section where SIG_OFS names one. -/
def sectionsOf (b : List Byte) (h : Hdr) : Except LoadErr (List Sec) :=
  match sectionsGo b h h.nsec [] with
  | .error e => .error e
  | .ok ss =>
    if ss.any (·.ty == 7) && ss.any (·.ty == 11) && (h.sigOfs == 0 || ss.any (·.ty == 15)) then .ok ss
    else .error { code := 0x0931 }

/-! ## Entries -/

/-- A fixed-size entry. -/
def fixedEntry (b : List Byte) (s : Sec) (n j : Nat) : List Byte := (b.drop (s.off + n * j)).take n

/-- An ISTORE, DESC or CAVE entry: its 32-byte header and its payload. -/
structure VEntry where
  head : List Byte
  data : List Byte
  deriving DecidableEq, Repr

def payloadLen (ty : Nat) (head : List Byte) : Nat :=
  match ty with
  | 4 => 32 * bits (leAt head 0 8) 57 48
  | 5 => 128
  | _ => leAt head 4 4

/-- The entries of a section with headers; where one does not lie in the section, its index. -/
def ventriesGo (b : List Byte) (s : Sec) : Nat → Nat → List VEntry → List VEntry × Bool
  | 0, _, acc => (acc, true)
  | n + 1, at_, acc =>
    let head := (b.drop at_).take 32
    let k := payloadLen s.ty head
    if s.off + s.len < at_ + 32 + k then (acc, false)
    else ventriesGo b s n (at_ + 32 + alignUp k 32) (acc ++ [⟨head, (b.drop (at_ + 32)).take k⟩])

def ventries (b : List Byte) (s : Sec) : List VEntry × Bool := ventriesGo b s s.count s.off []

def entryAddr (e : VEntry) : Nat := bits (leAt e.head 0 4) 26 0

/-- Reserved fields of an entry's header, and the ranges of an ISTORE one. -/
def ventryOk (ty : Nat) (e : VEntry) : Bool :=
  let w := leAt e.head 0 8
  leAt e.head 8 24 == 0 && (match ty with
    | 4 => bits w 47 41 == 0 && bits w 63 58 == 0 && decide (1 ≤ bits w 57 48)
        && decide (bits w 40 32 + bits w 57 48 ≤ 512)
    | 5 => bits w 31 27 == 0 && decide (bits w 35 32 ≤ 3) && bits w 39 36 == 0 && bits w 63 44 == 0
    | _ => bits w 31 27 == 0)

/-! ## Operation records (R417–R419) -/

/-- A record of an OPREC section: the parsed header, its 64 bytes and its body. -/
structure PRec where
  op : OpRec
  raw : List Byte
  body : List Byte
  deriving DecidableEq, Repr

def recOf (raw body : List Byte) (addr : Nat) : PRec :=
  let w := leAt raw 0 8
  { raw := raw, body := body
    op := { ctx := 0, opid := bits w 23 0, cls := bits w 59 56, prio := bits w 55 53, any := bitAt w 51
            target := bits w 50 44, slots := (upto (min 16 (bits w 43 39))).map (fun s => leAt raw (0x20 + 2 * s) 2)
            succ := (upto (min 4 (bits w 38 36))).map (fun n => leAt raw (0x10 + 4 * n) 4)
            body := bits w 35 32, layer := bits (leAt raw 8 8) 31 16, flow := bits (leAt raw 8 8) 13 0, addr := addr } }

/-- The records of an OPREC section in index order, or the index of the entry that breaks R449. -/
def recsGo (b : List Byte) (s : Sec) : Nat → Option Nat → List PRec → List PRec × Bool
  | 0, _, acc => (acc, true)
  | n + 1, last, acc =>
    let pair := leAt b (s.off + 8 * (s.count - (n + 1))) 8
    let opid := bits pair 23 0
    let ro := bits pair 63 32
    let raw := (b.drop (s.off + ro)).take 64
    let k := 32 * bits (leAt raw 0 8) 35 32
    let rising := match last with
      | none => true
      | some l => decide (l < opid)
    if bits pair 31 24 ≠ 0 ∨ rising = false ∨ ro < alignUp (8 * s.count) 32 ∨ s.len < ro + 64 + k
        ∨ bits (leAt raw 0 8) 23 0 ≠ opid then (acc, false)
    else recsGo b s n (some opid) (acc ++ [recOf raw ((b.drop (s.off + ro + 64)).take k) (s.caddr + ro)])

def recsOf (b : List Byte) (s : Sec) : List PRec × Bool :=
  if s.len < alignUp (8 * s.count) 32 then ([], false) else recsGo b s s.count none []

/-- The largest TARGET of a class, and whether ANY is permitted (R418). -/
def classTarget (cls : Nat) : Option (Nat × Bool) :=
  match cls with
  | 0 => some (0, false) | 1 => some (31, true) | 2 => some (11, true) | 3 => some (7, true) | 4 => some (3, true)
  | 5 => some (127, false) | 6 => some (0, false) | _ => none

/-- The bits set among the low `n`. -/
def ones (n x : Nat) : Nat := ((upto n).filter (fun k => bitAt x k)).length

/-- The body units a record needs (R418). -/
def bodyNeed (r : PRec) : Nat :=
  match r.op.cls with
  | 0 => 0
  | 1 =>
    let m := leAt r.body 0 8
    2 + cdiv (4 * ones 32 (m / 2 ^ 32) + 8 * ones 16 (m / 2 ^ 16)) 32
  | 2 => 3 | 3 => 2 | 4 => 2 | _ => 1

/-- A reserved field of a record is set, or its VER is not 0x1 (R417). -/
def recReserved (r : PRec) : Bool :=
  let w := leAt r.raw 0 8
  let ns := bits w 43 39
  let nu := bits w 38 36
  bits w 63 60 != 1 || bitAt w 52 || bits w 31 24 != 0 || bits (leAt r.raw 8 8) 15 14 != 0
    || bits (leAt r.raw 8 8) 63 32 != 0
    || (upto 4).any (fun n => if n < nu then bitAt (leAt r.raw (0x10 + 4 * n) 4) 24 else leAt r.raw (0x10 + 4 * n) 4 != 0)
    || (upto 16).any (fun s =>
        let e := leAt r.raw (0x20 + 2 * s) 2
        if s < ns then
          (match bits e 15 14 with
           | 2 => bits e 13 10 != 0
           | 3 => false
           | _ => bits e 13 0 != 0)
        else e != 0)

/-- The code of a record (R419), given every wheel's records, the flows of its wheel, NLAYER and its wheel's records.
A LAYER that the pass does not have, and a FLOW without a flow record, are refused with 0x0704. -/
def recCode (all : List (Nat × PRec)) (flows : List Nat) (nlayer : Nat) (mine : List PRec) (r : PRec) : Nat :=
  let w := leAt r.raw 0 8
  let ns := bits w 43 39
  if recReserved r then 0x0703
  else match classTarget r.op.cls with
    | none => 0x0704
    | some (lim, any) =>
      if lim < r.op.target ∨ (r.op.any ∧ (any = false ∨ r.op.target ≠ 0)) ∨ ns = 0 ∨ 16 < ns ∨ 4 < bits w 38 36
          ∨ r.op.slots.any (fun e => bits e 15 14 == 3) ∨ !(r.op.slots.any (fun e => bits e 15 14 ≤ 1))
          ∨ r.op.body < bodyNeed r ∨ nlayer ≤ r.op.layer ∨ !(flows.contains r.op.flow) then 0x0704
      else if r.op.succ.any (fun e => !(all.any (fun t => t.1 == bits e 31 29 && t.2.op.opid == bits e 23 0
          && decide (bits e 28 25 < t.2.op.slots.length) && bits (nth 0 t.2.op.slots (bits e 28 25)) 15 14 == 0))) then 0x0704
      else if r.op.cls = 5 ∧ mine.any (fun q => q.op.cls == 5 && q.op.target == r.op.target && q.op.flow != r.op.flow) then 0x0704
      else 0

/-! ## Hoop records (R378, R379) -/

structure HRec where
  hoop : Nat
  pool : Nat
  stride : Nat
  units : Nat
  nbuf : Nat
  deriving DecidableEq, Repr

def hrecOf (b : List Byte) : HRec :=
  let x := leAt b 0 16
  { hoop := bits x 9 0, pool := bits x 90 64, stride := bits x 114 96, units := bits x 34 21, nbuf := bits x 20 10 }

/-- Reserved fields and ranges of a hoop record. -/
def hrecOk (b : List Byte) : Bool :=
  let x := leAt b 0 16
  let r := hrecOf b
  bits x 127 115 == 0 && bits x 95 91 == 0 && bits x 63 35 == 0 && decide (1 ≤ r.units) && decide (r.units ≤ 8192)
    && decide (1 ≤ r.nbuf) && decide (r.nbuf ≤ 1024) && decide (r.units ≤ r.stride)

/-- The buffers of a hoop: address and length. -/
def hrecBufs (r : HRec) : List (Nat × Nat) := (upto r.nbuf).map (fun i => (r.pool + 256 * r.stride * i, 256 * r.units))

def rangesMeet (a b : Nat × Nat) : Bool := decide (a.1 < b.1 + b.2) && decide (b.1 < a.1 + a.2)

/-- R379 for a record, the records before it given, with the buffers of the plans loaded on the wheel. -/
def hrecFits (x : Wheel) (prev : List HRec) (loaded : Nat) (r : HRec) : Bool :=
  r.pool % 32 == 0
    && (hrecBufs r).all (fun q => decide (q.1 / bankBytes = (q.1 + q.2 - 1) / bankBytes)
        && decide (q.1 + q.2 ≤ caveBytes) && decide ((q.1 + q.2 - 1) % bankBytes < visibleEnd x.saveSlots))
    && prev.all (fun p => p.hoop != r.hoop && (hrecBufs p).all (fun q => (hrecBufs r).all (fun t => !(rangesMeet q t))))
    && decide (loaded + prev.foldl (fun n p => n + p.nbuf) 0 + r.nbuf ≤ 16384)

/-- The buffers of the plans already loaded on a wheel. -/
def loadedBufs (x : Wheel) : Nat := x.hoops.foldl (fun n h => n + h.2.nbuf) 0

/-! ## The slot table (R486–R489) -/

structure SlotRec where
  raw : List Byte
  rx : Bool
  flow : Nat
  lmod : Nat
  lw : Nat
  hoop : Nat
  deriving DecidableEq, Repr

def slotRecOf (b : List Byte) : SlotRec :=
  let w := leAt b 0 8
  { raw := b, rx := bitAt w 63, flow := bits w 13 0, lmod := bits w 53 44, lw := bits w 59 57, hoop := bits w 43 34 }

def srAny (r : SlotRec) : Bool := bitAt (leAt r.raw 0 8) 62
def srCombine (r : SlotRec) : Bool := bits (leAt r.raw 0 8) 61 60 == 1

/-- The ranges and reserved fields of a flow record; the fields of the other direction are zero. -/
def slotRecOk (h : Hdr) (r : SlotRec) : Bool :=
  let w := leAt r.raw 0 8
  let v := leAt r.raw 8 8
  let m := leAt r.raw 16 8
  bits w 33 30 == 0 && bits w 15 14 == 0 && leAt r.raw 24 8 == 0 && lwOn h r.lw
    && decide (1 ≤ bits v 31 0) && decide (bits v 31 0 ≤ 1024) && bits v 63 51 == 0
    && (if r.rx then
          decide (bits w 61 60 ≤ 1) && bits w 56 54 == 0 && (!(srAny r) || r.lmod == 0) && bits v 50 32 == 0
            && decide (32 ≤ m) && decide (m ≤ 2097152) && m % 32 == 0
        else bits w 62 60 == 0 && r.hoop == 0 && bits w 29 16 == 0 && m == 0)
    && (srAny r || (decide (r.lmod < h.nmod) && r.lmod != h.lmod))

def slotHead (b : List Byte) (s : Sec) : List Byte := (b.drop s.off).take 64
def slotFlows (b : List Byte) (s : Sec) : List SlotRec :=
  (upto (bits (leAt b (s.off + 0x10) 8) 15 0)).map (fun k => slotRecOf ((b.drop (s.off + 64 + 32 * k)).take 32))
def slotWins (b : List Byte) (s : Sec) : List WinRec :=
  let o := s.off + 64 + 32 * bits (leAt b (s.off + 0x10) 8) 15 0
  (upto (bits (leAt b (s.off + 0x10) 8) 47 32)).map (fun k =>
    let w := leAt b (o + 16 * k) 8
    ⟨bits w 13 0, bits w 18 16, bits w 63 32, leAt b (o + 16 * k + 8) 4⟩)

/-- The reserved bits of the window records are zero. -/
def winReserved (b : List Byte) (s : Sec) : Bool :=
  let o := s.off + 64 + 32 * bits (leAt b (s.off + 0x10) 8) 15 0
  (upto (bits (leAt b (s.off + 0x10) 8) 47 32)).all (fun k =>
    let w := leAt b (o + 16 * k) 8
    bits w 15 14 == 0 && bits w 31 19 == 0 && leAt b (o + 16 * k + 12) 4 == 0)

def slotTabOf (b : List Byte) (s : Sec) : SlotTab :=
  let h := slotHead b s
  { epoch := leAt h 8 4, slack := leAt h 12 4
    path := bits (leAt h 0 8) 57 55 * bits (leAt h 0 8) 43 32 + 100, wins := slotWins b s }

/-- R489: 0x0801 or 0x0802. `bufs` gives the buffer bytes of a hoop of a logical wheel. -/
def slotCode (st : State) (h : Hdr) (b : List Byte) (s : Sec) (bufs : Nat → Nat → Option Nat) : Nat :=
  let hd := slotHead b s
  let w := leAt hd 0 8
  let nf := bits (leAt hd 0x10 8) 15 0
  let nw := bits (leAt hd 0x10 8) 47 32
  let ep := leAt hd 8 4
  let sl := leAt hd 12 4
  let rs := slotFlows b s
  let ws := slotWins b s
  let pairs := fun (p : SlotRec → SlotRec → Bool) =>
    rs.zipIdx.any (fun a => rs.zipIdx.any (fun c => a.2 != c.2 && p a.1 c.1))
  if s.len < 64 + 32 * nf + 16 * nw ∨ bits w 63 60 ≠ 1 ∨ bits w 54 44 ≠ 0 ∨ bits w 31 0 ≠ 0 ∨ 2 < bits w 59 58
      ∨ bits w 57 55 = 0 ∨ bits w 43 32 < 100 ∨ 2000 < bits w 43 32 ∨ ep < 2000 ∨ 64000 < ep ∨ ep % 100 ≠ 0
      ∨ sl < 1000 ∨ ep - 500 < sl ∨ nf = 0 ∨ 4096 < nf ∨ 16384 < nw ∨ leAt hd 0x12 2 ≠ 0 ∨ leAt hd 0x16 2 ≠ 0
      ∨ leAt hd 0x18 40 ≠ 0 ∨ winReserved b s = false ∨ rs.any (fun r => !(slotRecOk h r)) then 0x0801
  else if pairs (fun a c => a.rx == c.rx && a.flow == c.flow && (!a.rx || a.lmod == c.lmod || srAny a)) then 0x0801
  else if rs.any (fun r => r.rx && (match bufs r.lw r.hoop with
      | none => true
      | some n => decide (n < leAt r.raw 16 4)) ) then 0x0801
  else if rs.any (fun r => r.rx && srCombine r && leAt r.raw 16 4 % 16 != 0) then 0x0801
  else if pairs (fun a c => a.rx && c.rx && !(srCombine a) && a.lw == c.lw && a.hoop == c.hoop) then 0x0801
  else if ws.any (fun v => !(rs.any (fun r => !r.rx && r.flow == v.flow)) || decide (ePorts st ≤ v.port)
      || decide (sl < v.start + v.len)) then 0x0801
  else if ws.zipIdx.any (fun a => ws.zipIdx.any (fun c => a.2 != c.2 && a.1.port == c.1.port
      && rangesMeet (a.1.start, a.1.len) (c.1.start, c.1.len))) then 0x0801
  else if bits w 59 58 ≠ portMode st ∨ bits w 57 55 < culF st 0xA8 26 24 ∨ bits w 43 32 < culF st 0xAC 15 0 then 0x0802
  else 0

/-! ## The barrier list (R460) -/

def barrierGo (b : List Byte) (s : Sec) (recs : Nat → List PRec) (hoops : Nat → List Nat) :
    Nat → Nat → Nat → List LayerRec → Except LoadErr (List LayerRec)
  | 0, _, _, acc => .ok acc
  | n + 1, l, at_, acc =>
    let w := leAt b at_ 8
    let nh := bits w 47 32
    let hs := (upto (min nh 8192)).map (fun q => leAt b (at_ + 64 + 2 * q) 2)
    let cs := (upto 8).map (fun k => leAt b (at_ + 0x20 + 4 * k) 4)
    if s.off + s.len < at_ + 64 + 2 * nh ∨ bits w 15 0 ≠ l ∨ bits w 31 17 ≠ 0 ∨ bits w 63 48 ≠ 0 ∨ 8192 < nh
        ∨ leAt b (at_ + 8) 24 ≠ 0
        ∨ (upto 8).any (fun k => nth 0 cs k != ((recs k).filter (fun r => r.op.layer == l)).length)
        ∨ hs.any (fun e => decide (8192 ≤ e) || !((hoops (bits e 12 10)).contains (bits e 9 0))) then
      .error { code := 0x093A, sec := s.i, ent := l }
    else
      barrierGo b s recs hoops n (l + 1) (at_ + 64 + alignUp (2 * nh) 32)
        (acc ++ [⟨bitAt w 16, cs, hs.map (fun e => (bits e 12 10, bits e 9 0))⟩])

/-! ## Placement (R454, R455) -/

/-- The logical wheels of an image. -/
def logicals (h : Hdr) : List Nat := (upto 8).filter (lwOn h)

/-- WMAP and NODE of a table that is accepted, none otherwise. -/
def placementOf (st : State) (h : Hdr) (t : List Byte) : Option (List (Nat × Nat) × List Nat) :=
  let w := leAt t 0 8
  let wm := leAt t 8 4
  let nib := fun k => bits wm (4 * k + 3) (4 * k)
  let ls := logicals h
  let nodes := (upto h.nmod).map (fun m => leAt t (0x20 + 2 * m) 2)
  let ok := bits w 63 60 == 1 && bits w 59 43 == 0 && bits w 42 32 == h.nmod && bits w 31 10 == 0 && bits w 9 0 == h.lmod
    && leAt t 12 20 == 0
    && (upto 8).all (fun k => if lwOn h k then decide (nib k ≤ 7) else nib k == 15)
    && ls.all (fun a => ls.all (fun c => a == c || nib a != nib c))
    && nodes.all (fun n => bits n 15 12 == 8)
    && (upto h.nmod).all (fun a => (upto a).all (fun c => nth 0 nodes a != nth 0 nodes c))
    && nth 0 nodes h.lmod == 0x8000 + st.node
    && (t.drop (0x20 + 2 * h.nmod)).all (· == 0)
  if ok then some (ls.map (fun k => (k, nib k)), nodes.map (fun n => bits n 11 0)) else none

end Sys2Proof.Machine
end

