-- ==== Sys2Proof/Machine/PressFeature.lean ====
section
/-!
DEFINITION. Sys2Proof/Machine/PressFeature.lean: the input streams of an operator (R223, R228) and the FEATURE steps
(R235–R249).
-/

namespace Sys2Proof.Machine

/-! ## Input streams (R194, R228) -/

/-- A decoded column stream as an operator reads it: its header, the type its values count as, and the rows at hand. -/
structure OpCol where
  rows : Nat
  base : Nat
  err : Bool
  etype : Bool
  code : Nat
  width : Nat
  nullable : Bool
  vals : List Val
  deriving DecidableEq, Repr

/-- The type a column counts as: its column type, or that of its element type (R229, R236). -/
def opColTy (c : OpCol) : Option ColTy := if c.etype then elemColTy c.code else some ⟨c.code, c.width⟩

/-- Bytes of a column stream, from its header; the header alone while it has not arrived. -/
def colNeed (bs : List Byte) : Nat :=
  if bs.length < 32 then 32 else 32 + leAt bs 8 4 + leAt bs 12 4 + leAt bs 0x10 4 + leAt bs 0x14 4

/-- Offset k of a column stream's offsets section. -/
def colOff (bs : List Byte) (k : Nat) : Nat := leAt bs (32 + leAt bs 8 4 + 4 * k) 4

/-- The start of the values and of the data section. -/
def colValues (bs : List Byte) : Nat := 32 + leAt bs 8 4 + leAt bs 12 4
def colData (bs : List Byte) : Nat := colValues bs + leAt bs 0x10 4

def opCol (bs : List Byte) : OpCol :=
  let w := leAt bs 0 8
  let c : OpCol := ⟨bits w 31 0, leAt bs 0x18 8, bitAt w 50, bitAt w 51, bits w 39 32, bits w 47 40, bitAt w 48, []⟩
  let t := (opColTy c).getD ⟨0, 0⟩
  let each := ctypeWidth t.code t.width
  let xo := colValues bs
  let off := colOff bs
  { c with vals := (upto c.rows).map (fun i =>
      if c.nullable && !(bitmapAt bs 32 i) then Val.null
      else if ctypeVar t.code then .str ((bs.drop (colData bs + off i)).take (off (i + 1) - off i))
      else if t.code = 0x01 then .fixed (b2n (bitmapAt bs xo i))
      else valOfBytes t.code ((bs.drop (xo + i * each)).take each)) }

/-- A section that the header counts is too short for its rows; of variable-width values the offsets say so once they are
at hand. -/
def colShort (c : OpCol) (bs : List Byte) : Bool :=
  let t := (opColTy c).getD ⟨0, 0⟩
  (c.nullable && decide (leAt bs 8 4 < cdiv c.rows 8))
    || (if ctypeVar t.code then decide (leAt bs 12 4 < 4 * (c.rows + 1))
        || (decide (colValues bs ≤ bs.length) && decide (leAt bs 0x14 4 < colOff bs c.rows))
      else if t.code = 0x01 then decide (leAt bs 0x10 4 < cdiv c.rows 8)
      else decide (leAt bs 0x10 4 < c.rows * ctypeWidth t.code t.width))

/-- The rows of a column stream whose bytes are at hand. -/
def colRows (c : OpCol) (bs : List Byte) : Nat :=
  let t := (opColTy c).getD ⟨0, 0⟩
  let n := bs.length
  if colNeed bs ≤ n then c.rows
  else if ctypeVar t.code then
    (if n < colValues bs then 0
     else ((upto c.rows).takeWhile (fun i => decide (colData bs + colOff bs (i + 1) ≤ n))).length)
  else if t.code = 0x01 then min c.rows (8 * (n - colValues bs))
  else
    let w := ctypeWidth t.code t.width
    if w = 0 then c.rows else min c.rows ((n - colValues bs) / w)

/-- A selection's rows as a bitmap and as an index list, where its bytes can be one (R206). -/
def selBitmap (rows cnt : Nat) (body : List Byte) : Option (List Bool) :=
  let bm := (upto (8 * body.length)).map (fun i => bitmapAt body 0 i)
  if (bm.filter (fun b => b)).length = cnt ∧ (bm.drop rows).all (fun b => !b) ∧ align32 (cdiv rows 8) = body.length then
    some (bm.take rows) else none

def selList (rows cnt : Nat) (body : List Byte) : Option (List Bool) :=
  let ix := (upto cnt).map (fun i => leAt body (2 * i) 2)
  let rising := (ix.zip (ix.drop 1)).all (fun p => decide (p.1 < p.2)) && ix.all (fun i => decide (i < rows))
  if align32 (2 * cnt) = body.length ∧ rising = true then some ((upto rows).map (fun i => ix.contains i)) else none

/-- A selection vector: rows, base, ERR, and the rows selected, none where the bytes have neither form. No field says
which form R206's vector has: where the bytes can be both, the form is open. -/
def selOf (bs : List Byte) : Nat × Nat × Bool × Option (List Bool) :=
  let rows := leAt bs 0 4
  let cnt := leAt bs 4 4
  let body := bs.drop 32
  let sel := match selBitmap rows cnt body, selList rows cnt body with
    | some a, some b => if a = b ∨ Config.selForm rows cnt = 1 then some a else some b
    | some a, none => some a
    | none, b => b
  (rows, leAt bs 8 8, leAt bs 0x10 1 % 2 == 1, sel)

/-- What an operator's input gives: rows, base, the columns by port, the selection, and where the rows at hand end: group,
code (0 where more may come) and entry. -/
structure OpIn where
  rows : Nat
  base : Nat
  cols : List (Nat × OpCol)
  sel : List Bool
  stop : Option (Nat × Nat × Nat) := none

def noCol : OpCol := ⟨0, 0, false, false, 0, 0, false, []⟩
def inCol (i : OpIn) (port : Nat) : OpCol := ((i.cols.find? (fun p => p.1 == port)).map (·.2)).getD noCol

/-- The bytes an operator still needs on each port. -/
def opNeeds (e : Eng) : List (Nat × Nat) :=
  (opInPorts e.desc).map (fun p => (p, colNeed (tget {} e.acc p : InPort).bytes))
    ++ (if opSel e.desc then [(opSelIn e.desc, 2 ^ 40)] else [])

/-- The earlier of two stops (R209, R266): the lower group, then the first. -/
def firstStop : List (Nat × Nat × Nat) → Option (Nat × Nat × Nat)
  | [] => none
  | a :: r =>
    match firstStop r with
    | none => some a
    | some b => if b.1 < a.1 then some b else some a

/-- The column types of the entries (R228), or the types the steps accept; AGG_EMIT reads no column (R262). An input of
an element type is no column of an entry's type. -/
def opTypeBad (d : List Byte) (i : OpIn) : Option Nat :=
  (upto (opNent d)).find? (fun k =>
    if opKind d = 6 then false
    else if opKind d = 1 then
      let s := stepEnt d k
      s.src == 0 && (match opColTy (inCol i s.inPort) with
        | none => true
        | some t => !(stepInOk s t))
    else
      let e := keyEnt d k
      let c := inCol i e.inPort
      e.afn != 3 && (c.etype || c.code != e.ty.code || c.width != e.ty.width))

/-- Read the input as far as it is at hand (R228): none while a header is missing, or the failure that no row precedes,
with its entry. -/
def opInput (e : Eng) : Except (Nat × Nat) (Option OpIn) :=
  let d := e.desc
  let ports := opInPorts d
  let acc := fun p => (tget {} e.acc p : InPort)
  let all := ports ++ (if opSel d then [opSelIn d] else [])
  match all.find? (fun p => decide ((acc p).bytes.length < 32)) with
  | some p => if endCode (acc p) = 0 then .ok none else .error (endCode (acc p), portEntry d p)
  | none =>
    let cols := ports.map (fun p => (p, opCol (acc p).bytes))
    let sp := acc (opSelIn d)
    let sv := selOf sp.bytes
    let rows := match cols with
      | c :: _ => c.2.rows
      | [] => sv.1
    let base := match cols with
      | c :: _ => c.2.base
      | [] => sv.2.1
    let i : OpIn := ⟨rows, base, cols, List.replicate rows true, none⟩
    match cols.find? (fun c => c.2.err) with
    | some c => .error (0x0229, portEntry d c.1)
    | none =>
      if opSel d && sv.2.2.1 then .error (0x0229, 0)
      else match cols.find? (fun c => c.2.rows != rows || c.2.base != base) with
        | some c => .error (0x022A, portEntry d c.1)
        | none =>
          if opSel d && (sv.1 != rows || sv.2.1 != base) then .error (0x022A, 0)
          else match opTypeBad d i, cols.find? (fun c => colShort c.2 (acc c.1).bytes) with
            | some k, _ => .error (0x0222, k)
            | none, some c => .error (0x0222, portEntry d c.1)
            | none, none =>
              let last := cdiv rows 64 - 1
              let stops := cols.filterMap (fun c =>
                let bs := (acc c.1).bytes
                if colNeed bs ≤ bs.length then none
                else some (min last (colRows c.2 bs / 64), endCode (acc c.1), portEntry d c.1))
              -- a selection ends with LAST; one that is neither a bitmap nor a list is too short or too long
              let selStop := if !(opSel d) then []
                else if sp.err || sp.lost || !sp.last then [(0, endCode sp, 0)]
                else if sv.2.2.2.isNone then [(0, 0x0205, 0)] else []
              .ok (some { i with sel := if opSel d then sv.2.2.2.getD [] else i.sel, stop := firstStop (selStop ++ stops) })

/-- ROW_BASE for an operator's error output: of the first input header at hand. -/
def opBase (e : Eng) : Nat :=
  let d := e.desc
  let acc := fun p => (tget {} e.acc p : InPort).bytes
  if opKind d = 6 then (Config.emitBase (opLineFirst d)).toNat
  else match (opInPorts d).find? (fun p => decide (32 ≤ (acc p).length)) with
    | some p => leAt (acc p) 0x18 8
    | none => if opSel d ∧ 32 ≤ (acc (opSelIn d)).length then leAt (acc (opSelIn d)) 8 8 else Config.lostBase.toNat

/-! ## Steps -/

/-- One Mould search of a press, counted in its registers (R268). -/
def pressSearch (x : Wheel) (u : UnitId) (share ctx : Nat) (key : Nat) : Wheel × MResp :=
  let r := mldSearch x.mld share ctx (BitVec.ofNat 128 key)
  let hit := match r.2 with
    | .hit _ _ => true
    | _ => false
  (onEng { x with mld := r.1 } u (fun e =>
    { e with regs := (fun g => if hit then bumpAt g 0x024 1 0x090 1 else g) (bumpAt e.regs 0x024 0 0x088 1) }), r.2)

/-- A bucket as an INT32 value. -/
def bucketVal (n : Nat) : Val := .fixed (n % 2 ^ 32)

/-- BWIDTH's bucket (R238). -/
def bwidth (x lo width nb : Nat) : Nat :=
  if f64Lt x lo then 0
  else match numOf fp64 (fDiv fp64 (fSub fp64 x lo) width) with
    | .nan => (Config.bucket x lo width).toNat
    | .inf neg => if neg then (Config.bucket x lo width).toNat else nb - 1
    | .fin neg m t =>
      let v := floorDiv (alignTo neg m t (min t 0)) (2 ^ (-(min t 0)).toNat)
      if v < -(2 ^ 31 : Nat) then (Config.bucket x lo width).toNat
      else wrapInt 32 (min v ((nb : Int) - 1))

/-- BBOUND's bucket (R239): boundaries at or below the value. -/
def bbound (s : StepEnt) (bounds : List Nat) (t x : Nat) : Nat :=
  if bitAt s.p0 0 then (bounds.filter (fun b => decide (sext 64 b ≤ intValue t x))).length
  else (bounds.filter (fun b => f64Le b (toF64 t x))).length

/-- The search key of BRANGE and BPREFIX (R240); none where the value has no order key. -/
def bucketKey (s : StepEnt) (t : ColTy) (v : Val) : Option Nat :=
  let set := s.p0 % 256 * 2 ^ 120
  if s.opc = 0x0A then (orderKey t v).map (fun k => set + 0x01 * 2 ^ 112 + k)
  else match v with
    | .null => none
    | .fixed x => some (set + 0x04 * 2 ^ 112 + x % 2 ^ 32)
    | .str b => if t.width = 4 then some (set + 0x04 * 2 ^ 112 + beNat (takePad 0 4 b))
      else some (set + 0x06 * 2 ^ 112 + beNat (takePad 0 14 b))

/-- The outputs of a search step on a result (R241): `res` is the entry's result or, on a miss, P1. -/
def searchOuts (s : StepEnt) (res : Nat) : List Nat :=
  if s.nout = 0 then [bits res 31 0] else (upto (s.nout + 1)).map (fun j => bits res (16 * j + 15) (16 * j))

/-- BRANGE or BPREFIX over the rows in order (R240, R241); none with the code where the Mould fails. -/
def searchRows (u : UnitId) (ctx : Nat) (s : StepEnt) (t : ColTy) :
    List (Val × Bool) → Wheel → Wheel × Except Nat (List (List Val))
  | [], x => (x, .ok [])
  | (v, on) :: r, x =>
    let nulls := (upto (s.nout + 1)).map (fun _ => Val.null)
    let miss := if s.nullId then (searchOuts s s.p1).map bucketVal else nulls
    let (x1, row) : Wheel × Except Nat (List Val) :=
      if !on then (x, .ok nulls)
      else match bucketKey s t v with
        | none => (x, .ok miss)
        | some k =>
          match pressSearch x u 3 ctx k with
          | (x1, .hit _ res) => (x1, .ok ((searchOuts s res.toNat).map bucketVal))
          | (x1, .miss) => (x1, .ok miss)
          | (x1, .fail c) => (x1, .error c)
    match row with
    | .error c => (x1, .error c)
    | .ok o =>
      match searchRows u ctx s t r x1 with
      | (x2, .error c) => (x2, .error c)
      | (x2, .ok os) => (x2, .ok (o :: os))

/-- A float64 result in the step's element type (R249). -/
def normOut (s : StepEnt) (y : Nat) : Val := .fixed (fCvt fp64 ((tyFmt s.otype).getD fp32) true y)

/-- The grid value of R243. -/
def gridOf (f : Int) (x : Nat) : Int := roundInt (-(2 ^ 63 - 1 : Nat)) (2 ^ 63 - 1 : Nat) (numScale f (numOf fp64 x))

/-- The curd's totals added to a statistics block (R244); none where N would pass 2^63. -/
def zUpdate (z : ZBlock) (xs : List Nat) : Option ZBlock :=
  let fin := xs.filter (fun x => match numOf fp64 x with
    | .fin _ _ _ => true
    | _ => false)
  let gs := fin.map (gridOf z.f)
  if 2 ^ 63 < z.n + gs.length then none
  else some { z with n := z.n + gs.length, sum := gs.foldl (· + ·) z.sum
                     sq := gs.foldl (fun (q : Nat) (g : Int) => q + g.natAbs * g.natAbs) z.sq
                     nonfin := (z.nonfin + (xs.length - fin.length)) % 2 ^ 64 }

/-- mean and r of R245. -/
def zMean (z : ZBlock) : Nat := roundQ fp64 false (decide (z.sum < 0)) z.sum.natAbs z.n (-z.f)
def zRoot (z : ZBlock) (eps : Nat) : Nat :=
  let num : Int := (z.n : Int) * z.sq - z.sum * z.sum
  let var := roundQ fp64 false (decide (num < 0)) num.natAbs (z.n * z.n) (-(2 * z.f))
  fSqrt fp64 (fAdd fp64 var eps)

def f64Max (a b : Nat) : Nat := if f64Nan a || f64Nan b then nanOf fp64 else if f64Lt a b then b else a
def f64Min (a b : Nat) : Nat := if f64Nan a || f64Nan b then nanOf fp64 else if f64Lt b a then b else a

/-- A value through a float64 function; null stays null. -/
def mapF64 (s : StepEnt) (t : ColTy) (f : Nat → Nat) (v : Val) : Val :=
  match v with
  | .fixed x => normOut s (f (toF64 t.code x))
  | _ => .null

/-- An output that is null for rows that are null, NaN or unselected; with NULL_ID, null and NaN rows take `nid`. -/
def bucketRow (s : StepEnt) (t : ColTy) (nid : Nat) (f : Nat → Nat) (p : Val × Bool) : Val :=
  if !p.2 then .null
  else match p.1 with
    | .fixed x =>
      if tyFloat t.code && f64Nan (toF64 t.code x) then (if s.nullId then bucketVal nid else .null) else bucketVal (f x)
    | _ => if s.nullId then bucketVal nid else .null

/-- A hash step on a row (R230, R237). -/
def hashRow (s : StepEnt) (t : ColTy) (p : Val × Bool) : Val :=
  if !p.2 || valIsNull p.1 then .null
  else
    let b := hashBytes t p.1
    let h := if s.opc = 0x01 then crc32cSeed (s.p0 % 2 ^ 32) b else if s.opc = 0x02 then murmur3 (s.p0 % 2 ^ 32) b
      else harp64 s.p0 b
    .fixed (if s.p1 = 0 then h else h % s.p1)

/-- ONEHOT's elements for a row (R248). -/
def oneHot (s : StepEnt) (p : Val × Bool) : List Val :=
  let f := (tyFmt s.otype).getD fp32
  let one := roundTo f true (.fin false 1 0)
  let id := if !p.2 then s.nb else match p.1 with
    | .fixed x => x
    | _ => s.nb
  (upto s.nb).map (fun k => .fixed (if k = id then one else 0))

/-- One step on its input column: its output columns, or the code with which it fails. -/
def runStep (x : Wheel) (u : UnitId) (ctx : Nat) (s : StepEnt) (t : ColTy) (rows : List (Val × Bool)) :
    Wheel × Except Nat (List (List Val)) :=
  let one := fun (vs : List Val) => (x, (Except.ok [vs] : Except Nat (List (List Val))))
  match s.opc with
  | 0x04 => one (rows.map (fun p => if !p.2 then .null else match orderKey t p.1 with
      | some k => .fixed k
      | none => .null))
  | 0x08 => one (rows.map (bucketRow s t s.nb (fun v => bwidth (toF64 t.code v) s.p0 s.p1 s.nb)))
  | 0x09 =>
    let bounds := boundBlock x s
    one (rows.map (bucketRow s t (s.nb + 1) (bbound s bounds t.code)))
  | 0x10 =>
    let z := zBlock x s.param
    let xs := rows.filterMap (fun p => if !p.2 then none else match p.1 with
      | .fixed v => some (toF64 t.code v)
      | _ => none)
    match (if s.p1 % 4 = 0 then some z else zUpdate z xs) with
    | none => (x, .error 0x0223)
    | some z' =>
      let x1 := if s.p1 % 4 = 0 then x else caveWrite x s.param (zBytes z')
      let mean := zMean z'
      let r := zRoot z' s.p0
      let vs := rows.map (fun p => if !p.2 || z'.n == 0 then Val.null
        else mapF64 s t (fun v => fDiv fp64 (fSub fp64 v mean) r) p.1)
      (x1, .ok [vs])
  | 0x11 => one (rows.map (fun p => if !p.2 then .null else mapF64 s t (fun v =>
      fDiv fp64 (fSub fp64 (f64Min (f64Max v s.p0) s.p1) s.p0) (fSub fp64 s.p1 s.p0)) p.1))
  | 0x12 => one (rows.map (fun p => if !p.2 then .null
      else mapF64 s t (if bitAt s.p1 0 then signedLog1p else log1pF64) p.1))
  | 0x13 => one (rows.map (fun p => if !p.2 then .null else mapF64 s t (fun v => f64Min (f64Max v s.p0) s.p1) p.1))
  | 0x14 => one (rows.flatMap (oneHot s))
  | 0x01 => one (rows.map (hashRow s t))
  | 0x02 => one (rows.map (hashRow s t))
  | 0x03 => one (rows.map (hashRow s t))
  | _ =>
    match searchRows u ctx s t rows x with
    | (x1, .error c) => (x1, .error c)
    | (x1, .ok os) => (x1, .ok ((upto (s.nout + 1)).map (fun j => os.map (fun o => nth .null o j))))

/-- An element-typed output column in the layout of R194 (R229). -/
def elemColumnBytes (ty rows : Nat) (nullable : Bool) (base : Nat) (vals : List Val) : List Byte :=
  let valid := if nullable then padZero (bitmapOf (vals.map (fun v => !valIsNull v))) else []
  let values := padZero (vals.flatMap (fun v => leBytes (tyBits ty / 8) (valNat v)))
  outHeader rows ty 0 nullable false false true valid.length 0 values.length 0 base ++ valid ++ values

def stepStream (x : Wheel) (e : Eng) (i : OpIn) (s : StepEnt) (nullable : Bool) (p : List Val × Nat) : OutStream :=
  let bs := if s.otE then elemColumnBytes s.otype i.rows nullable i.base p.1 else columnBytes s.otype 0 nullable i.base p.1
  outStream x e (s.outPort + p.2) bs

/-- What an operator's work leaves: the wheel, the output streams with their entries, and how it ended. -/
structure OpRes where
  x : Wheel
  outs : List (Nat × OutStream)
  done : Ended

/-- The steps that need a whole column first: ZSCORE, whose block takes the curd's totals in one update (R244), and the
steps that read its output. -/
def lateSteps (ss : List StepEnt) : List Bool :=
  ss.foldl (fun l s => l ++ [s.opc == 0x10 || (s.src != 0 && nth false l (s.src - 1))]) []

/-- Whether each step's output has a validity section. -/
def stepNulls (i : OpIn) (sel : Bool) (ss : List StepEnt) : List Bool :=
  ss.foldl (fun l s =>
    let inNull := sel || (if s.src = 0 then (inCol i s.inPort).nullable else nth false l (s.src - 1))
    l ++ [if s.opc = 0x14 then false
      else if s.opc = 0x01 ∨ s.opc = 0x02 ∨ s.opc = 0x03 ∨ s.opc = 0x11 ∨ s.opc = 0x12 ∨ s.opc = 0x13 then inNull else true]) []

/-- The input of a step: the type, and all its values at hand. -/
def stepInput (i : OpIn) (ss : List StepEnt) (outs : List (List (List Val))) (s : StepEnt) : ColTy × List Val :=
  if s.src = 0 then ((opColTy (inCol i s.inPort)).getD ⟨0, 0⟩, (inCol i s.inPort).vals)
  else (match ss[s.src - 1]? with
      | some p => (stepOutTy p).getD ⟨0, 0⟩
      | none => ⟨0, 0⟩,
    nth [] (nth [] outs (s.src - 1)) 0)

/-- The columns of two parts of a step's output, one after the other. -/
def addCols (a b : List (List Val)) : List (List Val) := if a.isEmpty then b else a.zipWith (· ++ ·) b

/-- The steps of `which` on the rows from `lo`, `n` of them, in entry order: the outputs so far, or the step that fails and
its code. -/
def stepsOn (u : UnitId) (ctx : Nat) (i : OpIn) (ss : List StepEnt) (which : Nat → Bool) (lo n : Nat) :
    List (StepEnt × Nat) → Wheel → List (List (List Val)) → Wheel × Except (Nat × Nat) (List (List (List Val)))
  | [], x, outs => (x, .ok outs)
  | (s, k) :: r, x, outs =>
    if !(which k) then stepsOn u ctx i ss which lo n r x outs
    else
      let (t, vals) := stepInput i ss outs s
      match runStep x u ctx s t (((vals.drop lo).take n).zip ((i.sel.drop lo).take n)) with
      | (x1, .error c) => (x1, .error (c, k))
      | (x1, .ok o) =>
        stepsOn u ctx i ss which lo n r x1 (outs.zipIdx.map (fun p => if p.2 = k then addCols p.1 o else p.1))

/-- The output streams of the emitted steps. -/
def stepOuts (x : Wheel) (u : UnitId) (i : OpIn) (ss : List StepEnt) (outs : List (List (List Val))) : List (Nat × OutStream) :=
  let e := engOf x u
  let nulls := stepNulls i (opSel e.desc) ss
  ss.zipIdx.flatMap (fun (s, k) =>
    if stepEmits s then (nth [] outs k).zipIdx.map (fun p => (k, stepStream x e i s (nth false nulls k) p)) else [])

/-- Bytes of each emitted column of a FEATURE operator for n rows: entry, port, bytes. -/
def stepLens (i : OpIn) (sel : Bool) (ss : List StepEnt) (n : Nat) : List (Nat × Nat × Nat) :=
  let nulls := stepNulls i sel ss
  ss.zipIdx.flatMap (fun (s, k) =>
    let each := if s.opc = 0x14 then s.nb * (tyBits s.otype / 8) else if s.otE then tyBits s.otype / 8 else ctypeWidth s.otype 0
    (stepPorts s).map (fun p => (k, p, 32 + (if nth false nulls k then align32 (cdiv n 8) else 0) + align32 (n * each))))

end Sys2Proof.Machine
end

