-- ==== Sys2Proof/Machine/PressOps.lean ====
section
/-!
DEFINITION. Sys2Proof/Machine/PressOps.lean: the press operators FEATURE, BUILD, PROBE, PARTITION, AGG, AGG_EMIT and HLL
(R250–R267), and the cancellation of a press operation (R212).
-/

namespace Sys2Proof.Machine

open Sys2Proof

/-! ## Keys (R249–R252, R259) -/

/-- The key columns of an operator. -/
def keyCols (d : List Byte) (i : OpIn) : List (ColTy × List Val) := (opKeys d).map (fun k => (k.ty, (inCol i k.inPort).vals))

/-- A row's key bytes, none where a key column is null (R250). -/
def rowKey (ks : List (ColTy × List Val)) (row : Nat) : Option (List Byte) :=
  if ks.any (fun k => valIsNull (nth .null k.2 row)) then none
  else some (ks.flatMap (fun k => hashBytes k.1 (nth .null k.2 row)))

/-- The tag of a hash (R252). -/
def tagOf (h : Nat) : Nat := if bits h 47 16 = 0 then 1 else bits h 47 16

/-! ## Walks (R252) -/

def tblEntries (t : Tbl) : Nat := t.nlines * (256 / tblEntryBytes t)
def tblEntryAddr (t : Tbl) (e : Nat) : Nat := t.addr + 256 + e % tblEntries t * tblEntryBytes t
def tagOff (t : Tbl) : Nat := if t.esz = 0 then 12 else 28

/-- What a walk meets: the entries in use, the first empty entry, the entries visited, and a lost entry. -/
structure WalkRes where
  seen : List (Nat × List Byte)
  empty : Option Nat
  visited : Nat
  lost : Bool

/-- An entry's bytes; open where another press writes the table (R257). -/
def entryRead (x : Wheel) (torn : Option Nat) (a n : Nat) : List Byte :=
  match torn with
  | none => caveRead x a n
  | some seed => tornBytes seed a n

def walkGo (x : Wheel) (torn : Option Nat) (t : Tbl) : Nat → Nat → WalkRes
  | 0, _ => ⟨[], none, 0, false⟩
  | n + 1, e =>
    let a := tblEntryAddr t e
    let b := entryRead x torn a (tblEntryBytes t)
    if caveUncorr x a (tblEntryBytes t) then ⟨[], none, 1, true⟩
    else if leAt b (tagOff t) 4 = 0 then ⟨[], some a, 1, false⟩
    else
      let r := walkGo x torn t n (e + 1)
      { r with seen := (a, b) :: r.seen, visited := r.visited + 1 }

/-- The first entry of a hash's home line. -/
def homeEntry (t : Tbl) (h : Nat) : Nat := h % t.nlines * (256 / tblEntryBytes t)

/-- The walk from a hash's home line. -/
def walkFrom (x : Wheel) (torn : Option Nat) (t : Tbl) (h : Nat) : WalkRes := walkGo x torn t (tblEntries t) (homeEntry t h)

def linesVisited (t : Tbl) (r : WalkRes) : Nat := cdiv r.visited (256 / tblEntryBytes t)

/-- Count table lines in PRS_TABLE_LINES. -/
def countLines (x : Wheel) (u : UnitId) (n : Nat) : Wheel :=
  onEng x u (fun e => { e with regs := bumpAt e.regs 0x024 3 0x0A0 n })

/-- What a walk leaves besides its result: the lines counted, and the single-bit errors met corrected (R112). -/
def tblWalked (x : Wheel) (u : UnitId) (t : Tbl) (h : Nat) (r : WalkRes) : Wheel :=
  countLines ((upto r.visited).foldl (fun x k => caveCorrect x (tblEntryAddr t (homeEntry t h + k)) (tblEntryBytes t)) x) u
    (linesVisited t r)

/-- One more entry fits: COUNT stays at or below 15/16 of the entries (R253). -/
def tblRoom (t : Tbl) : Bool := decide ((t.count + 1) * 16 ≤ 15 * tblEntries t)

def tblSetFull (x : Wheel) (t : Tbl) : Wheel :=
  let w := leNat (caveRead x t.addr 8)
  caveWrite x t.addr (leBytes 8 (w ||| 2 ^ 55))

def tblSetCount (x : Wheel) (t : Tbl) (n : Nat) : Wheel := caveWrite x (t.addr + 0x10) (leBytes 8 n)
def tblSetNext (x : Wheel) (a n : Nat) : Wheel := caveWrite x (a + 0x18) (leBytes 8 n)

/-- INIT: write the header and zero every line (R251). -/
def tblInit (x : Wheel) (d : List Byte) : Wheel :=
  if opInit d then
    let x1 := caveWrite (caveZero x (opTable d) (opTableBytes d)) (opTable d) (tblHeader d false 0 0)
    { x1 with aggHi := x1.aggHi.filter (fun c => c.1 < opTable d || opTable d + opTableBytes d ≤ c.1) }
  else x

/-! ## BUILD (R253, R254) -/

/-- The Mould key of a pinned entry (R254). -/
def pinKey (mset : Nat) (key : List Byte) : Nat := mset * 2 ^ 120 + leNat key

/-- A join entry's bytes (R252). -/
def joinEntry (t : Tbl) (key : List Byte) (row tag : Nat) : List Byte :=
  takePad 0 (if t.esz = 0 then 8 else 24) key ++ leBytes 4 row ++ leBytes 4 tag

/-- Rows done in order until one fails with a code. -/
def rowsDo (f : Nat → Wheel → Wheel × Option Nat) : Nat → Nat → Wheel → Wheel × Option Nat
  | 0, _, x => (x, none)
  | n + 1, i, x =>
    match f i x with
    | (x1, some c) => (x1, some c)
    | (x1, none) => rowsDo f n (i + 1) x1

/-- Insert a new entry at the end of a walk. -/
def tblInsert (x : Wheel) (t : Tbl) (r : WalkRes) (bytes : List Byte) : Wheel × Option Nat :=
  if r.lost then (x, some 0x020B)
  else if !(tblRoom t) then (tblSetFull x t, some 0x0224)
  else match r.empty with
    | none => (tblSetFull x t, some 0x0224)
    | some a => (tblSetCount (caveWrite x a bytes) t (t.count + 1), none)

def buildRow (u : UnitId) (ctx : Nat) (d : List Byte) (i : OpIn) (ks : List (ColTy × List Val)) (row : Nat) (x : Wheel) :
    Wheel × Option Nat :=
  if !(nth false i.sel row) then (x, none)
  else match rowKey ks row with
    | none => (x, none)
    | some key =>
      let br := i.base + row
      if 0xFFFFFFFF ≤ br then (x, some 0x0228)
      else
        let insert := fun (x : Wheel) =>
          let e := engOf x u
          let t := tblNow x e (opTable d)
          let h := harp64 t.seed key
          let r := walkFrom x e.torn t h
          tblInsert (tblWalked x u t h r) t r (joinEntry t key br (tagOf h))
        if opHot d then
          match pressSearch x u 2 ctx (pinKey (opMset d) key) with
          | (x1, .hit _ res) => if bits res.toNat 31 0 = br then (x1, none) else (x1, some 0x0227)
          | (x1, .miss) => insert x1
          | (x1, .fail c) => (x1, some c)
        else insert x

def ended (code entry : Nat) : Ended := ⟨code, entry, 0xFFFF⟩

/-! ## PROBE (R255, R256) -/

/-- The build rows of a probe row's matches, in walk order. -/
def probeMatches (x : Wheel) (u : UnitId) (ctx : Nat) (d : List Byte) (key : List Byte) : Wheel × Except Nat (List Nat) :=
  let walk := fun (x : Wheel) =>
    let e := engOf x u
    let t := tblNow x e (opTable d)
    let h := harp64 t.seed key
    let r := walkFrom x e.torn t h
    let kl := if t.esz = 0 then 8 else 24
    let x1 := tblWalked x u t h r
    if r.lost then (x1, Except.error 0x020B)
    else (x1, .ok ((r.seen.filter (fun e => leAt e.2 (tagOff t) 4 == tagOf h && e.2.take kl == takePad 0 kl key)).map
      (fun e => leAt e.2 kl 4)))
  if opHot d then
    match pressSearch x u 2 ctx (pinKey (opMset d) key) with
    | (x1, .hit _ res) => (x1, .ok [bits res.toNat 31 0])
    | (x1, .miss) => walk x1
    | (x1, .fail c) => (x1, .error c)
  else walk x

/-- The probe rows in order: pairs for inner and left outer, selected rows for semi and anti. -/
def probeRows (u : UnitId) (ctx : Nat) (d : List Byte) (i : OpIn) (ks : List (ColTy × List Val)) :
    Nat → Nat → Wheel → List Nat → Wheel × List Nat × Option Nat
  | 0, _, x, out => (x, out, none)
  | n + 1, row, x, out =>
    if !(nth false i.sel row) then probeRows u ctx d i ks n (row + 1) x out
    else
      let jk := opJkind d
      let pr := i.base + row
      if jk < 2 ∧ 0xFFFFFFFF ≤ pr then (x, out, some 0x0228)
      else
        let (x1, ms) : Wheel × Except Nat (List Nat) := match rowKey ks row with
          | none => (x, .ok [])
          | some key => probeMatches x u ctx d key
        match ms with
        | .error c => (x1, out, some c)
        | .ok ms =>
          let add : List Nat :=
            if jk = 0 then ms.map (fun m => pr + m * 2 ^ 32)
            else if jk = 1 then (if ms.isEmpty then [pr + 0xFFFFFFFF * 2 ^ 32] else ms.map (fun m => pr + m * 2 ^ 32))
            else if jk = 2 then (if ms.isEmpty then [] else [row])
            else (if ms.isEmpty then [row] else [])
          probeRows u ctx d i ks n (row + 1) x1 (out ++ add)

/-- A pair buffer (R256). -/
def pairBuffer (base ord : Nat) (last err : Bool) (ps : List Nat) : List Byte :=
  leBytes 8 (ps.length + b2n last * 2 ^ 32 + b2n err * 2 ^ 33) ++ leBytes 8 base ++ leBytes 4 ord ++ List.replicate 12 0
    ++ ps.flatMap (leBytes 8)

/-- The last pair buffers of a curd, from ordinal `ord` on; the final one carries LAST. -/
def pairBuffers (base cap ord : Nat) (ps : List Nat) : List (List Byte) :=
  let cs := match chunksOf cap (ps.length + 1) ps with
    | [] => [[]]
    | l => l
  cs.zipIdx.map (fun p => pairBuffer base (ord + p.2) (p.2 + 1 == cs.length) false p.1)

/-- Pairs that one buffer of a port holds. -/
def pairCap (x : Wheel) (e : Eng) (port : Nat) : Nat := (outBytes x e port - 32) / 8

/-- The full pair buffers before a failure and the buffer with ERR and LAST (R266). -/
def pairFail (base cap ord : Nat) (ps : List Nat) : List (List Byte) :=
  let full := (chunksOf cap (ps.length + 1) ps).filter (fun c => c.length == cap)
  (full.zipIdx.map (fun p => pairBuffer base (ord + p.2) false false p.1)) ++ [pairBuffer base (ord + full.length) true true []]

/-- A stream of pair buffers (R256): put as they are obtained, zero after the last pair. -/
def pairStream (d : List Byte) (last : Bool) (bufs : List (List Byte)) : OutStream :=
  { port := opOutA d, bufs := bufs, last := last, eager := true, fill := true }

/-- Count pairs in PRS_JOIN_PAIRS. -/
def countPairs (x : Wheel) (u : UnitId) (n : Nat) : Wheel :=
  onEng x u (fun e => { e with regs := bumpAt e.regs 0x024 2 0x098 n })

/-- Form the pair buffers that are full while more pairs follow (R256); they are put as their credits come. -/
def pairFlush (x : Wheel) (u : UnitId) (base : Nat) (w : PWork) : Wheel × PWork :=
  let e := engOf x u
  let cap := pairCap x e (opOutA e.desc)
  let k := (w.pairs.length - 1) / cap
  if k = 0 then (x, w)
  else
    let bufs := ((chunksOf cap k (w.pairs.take (k * cap))).zipIdx).map (fun p => pairBuffer base (w.ord + p.2) false false p.1)
    (onEng (countPairs x u (k * cap)) u (fun e => { e with outs := e.outs ++ [pairStream e.desc false bufs] }),
     { w with pairs := w.pairs.drop (k * cap), ord := w.ord + k })

/-! ## PARTITION (R258) -/

def partOf (d : List Byte) (key : Option (List Byte)) : Nat :=
  match key with
  | none => 0
  | some k => harp64 (opSeed d) k / 2 ^ opPshift d % 2 ^ opP d

def partOuts (x : Wheel) (u : UnitId) (d : List Byte) (i : OpIn) : List (Nat × OutStream) :=
  let ks := keyCols d i
  let rows := (upto i.rows).filter (fun r => nth false i.sel r && !(opDropNull d && (rowKey ks r).isNone))
  let parts := rows.map (fun r => (r, partOf d (rowKey ks r)))
  let groups := (upto (2 ^ opP d)).map (fun q => (parts.filter (fun p => p.2 == q)).map (·.1))
  let offs := (groups.foldl (fun (p : List Nat × Nat) g => (p.1 ++ [p.2 + g.length], p.2 + g.length)) ([0], 0)).1
  let e := engOf x u
  let a := outStream x e (opOutA d) (columnBytes 0x07 0 false i.base (groups.flatten.map .fixed))
  let b := outStream x e (opOutB d) (columnBytes 0x08 0 false i.base (offs.map .fixed))
  [(0, a), (0, b)]

/-! ## AGG (R259–R261) -/

/-- An aggregate's 16-byte state as a number: an integer SUM or MEAN keeps its sum in 96 bits and its count in 32, and
`Wheel.aggHi` holds what they exceed these by, so that both are exact (R260; DESIGN CHOICE, log 77: R259 gives the state 16
bytes); a floating one a float64 and a 64-bit count; COUNT a 64-bit count; MIN and MAX the value and a valid flag. -/
def aggInt (k : KeyEnt) : Bool := tyInt k.ty.code

/-- The order of MIN and MAX on a value's bits (R260). -/
def minMaxKey (t x : Nat) : Int :=
  if tyFloat t then
    let w := 8 * ctypeWidth t 0
    if x < 2 ^ (w - 1) then (x : Int) else -((x - 2 ^ (w - 1) : Nat) : Int) - 1
  else intValue t x

def aggUpdate (k : KeyEnt) (st : Nat) (v : Val) : Nat :=
  match k.afn, v with
  | 3, _ => (st + 1) % 2 ^ 64
  | _, .null => st
  | 2, _ => (st + 1) % 2 ^ 64
  | 4, .fixed x =>
    if bitAt st 64 && decide (minMaxKey k.ty.code (st % 2 ^ 64) ≤ minMaxKey k.ty.code x) then st else x + 2 ^ 64
  | 5, .fixed x =>
    if bitAt st 64 && decide (minMaxKey k.ty.code x ≤ minMaxKey k.ty.code (st % 2 ^ 64)) then st else x + 2 ^ 64
  | _, .fixed x =>
    if aggInt k then
      wrapInt 96 (sext 96 st + intValue k.ty.code x) + (st / 2 ^ 96 + 1) % 2 ^ 32 * 2 ^ 96
    else
      let n := st / 2 ^ 64
      let y := toF64 k.ty.code x
      (if n = 0 then y else fAdd fp64 (st % 2 ^ 64) y) + (n + 1) % 2 ^ 64 * 2 ^ 64
  | _, _ => st

/-- The key bytes of a group and its NULLS byte: a null key column has zero bytes (R259). -/
def groupKey (ks : List (ColTy × List Val)) (row : Nat) : List Byte × Nat :=
  (ks.flatMap (fun k =>
      let v := nth .null k.2 row
      if valIsNull v then List.replicate (keyWidth k.1) 0 else hashBytes k.1 v),
   (ks.zipIdx.filter (fun p => valIsNull (nth .null p.1.2 row))).foldl (fun n p => n + 2 ^ p.2) 0)

def aggEntry (t : Tbl) (key : List Byte) (nulls tag : Nat) (states : List Nat) : List Byte :=
  takePad 0 (tblEntryBytes t) (takePad 0 24 key ++ leBytes 4 nulls ++ leBytes 4 tag ++ states.flatMap (leBytes 16))

/-- The sum and count of an integer state move to `aggHi` before the count could leave its bits. -/
def aggCarry (x : Wheel) (a : Nat) (k : KeyEnt) (st : Nat) : Wheel × Nat :=
  if aggInt k && (k.afn == 1 || k.afn == 6) && decide (2 ^ 31 ≤ st / 2 ^ 96 + 1) then
    ({ x with aggHi := tmod (0, 0) x.aggHi a (fun h => (h.1 + sext 96 st, h.2 + st / 2 ^ 96)) }, 0)
  else (x, st)

def aggStates (n : Nat) (b : List Byte) : List Nat := (upto n).map (fun k => leAt b (32 + 16 * k) 16)

def aggRow (u : UnitId) (d : List Byte) (i : OpIn) (ks : List (ColTy × List Val)) (row : Nat) (x : Wheel) :
    Wheel × Option Nat :=
  if !(nth false i.sel row) then (x, none)
  else
    let e := engOf x u
    let t := tblNow x e (opTable d)
    let (key, nulls) := groupKey ks row
    let h := harp64 t.seed (key ++ leBytes 1 nulls)
    let r := walkFrom x e.torn t h
    let x1 := tblWalked x u t h r
    let aggs := opAggs d
    let upd := fun (old : List Nat) => aggs.zipIdx.map (fun p =>
      aggUpdate p.1 (nth 0 old p.2) (if p.1.afn = 3 then .null else nth .null (inCol i p.1.inPort).vals row))
    let head := takePad 0 24 key ++ leBytes 1 nulls
    match r.seen.find? (fun e => leAt e.2 (tagOff t) 4 == tagOf h && e.2.take 25 == head) with
    | some (a, b) =>
      let (x2, old) := aggs.zipIdx.foldl (fun (p : Wheel × List Nat) k =>
        let c := aggCarry p.1 (a + 32 + 16 * k.2) k.1 (nth 0 (aggStates aggs.length b) k.2)
        (c.1, p.2 ++ [c.2])) (x1, [])
      (caveWrite x2 a (aggEntry t key nulls (tagOf h) (upd old)), none)
    | none => tblInsert x1 t r (aggEntry t key nulls (tagOf h) (upd (aggs.map (fun _ => 0))))

/-! ## AGG_EMIT (R260, R262) -/

/-- The type an aggregate emits. -/
def aggOutTy (k : KeyEnt) : Nat :=
  match k.afn with
  | 1 => if aggInt k then 0x05 else 0x0C
  | 2 => 0x09
  | 3 => 0x09
  | 6 => 0x0C
  | _ => k.ty.code

/-- The value an aggregate emits, from its state and what `aggHi` holds beyond it. -/
def aggEmit (k : KeyEnt) (hi : Int × Nat) (st : Nat) : Val :=
  match k.afn with
  | 2 => .fixed (st % 2 ^ 64)
  | 3 => .fixed (st % 2 ^ 64)
  | 4 => if bitAt st 64 then .fixed (st % 2 ^ 64) else .null
  | 5 => if bitAt st 64 then .fixed (st % 2 ^ 64) else .null
  | _ =>
    if aggInt k then
      let n := st / 2 ^ 96 + hi.2
      let v := sext 96 st + hi.1
      if n = 0 then .null
      else if k.afn = 1 then
        (if v < -(2 ^ 63 : Nat) ∨ (2 ^ 63 : Nat) ≤ v then .null else .fixed (wrapInt 64 v))
      else .fixed (roundQ fp64 false (decide (v < 0)) v.natAbs n 0)
    else
      let n := st / 2 ^ 64
      if n = 0 then .null
      else if k.afn = 1 then .fixed (st % 2 ^ 64)
      else match numOf fp64 (st % 2 ^ 64) with
        | .fin neg m t => .fixed (roundQ fp64 false neg m n t)
        | .nan => .fixed (nanOf fp64)
        | .inf neg => .fixed (overflowCode fp64 false neg)

/-- The groups of a line in entry order, each with its Cave address. -/
def lineGroups (x : Wheel) (torn : Option Nat) (t : Tbl) (line : Nat) : List (Nat × List Byte) :=
  ((upto (256 / tblEntryBytes t)).map (fun k =>
    let a := tblEntryAddr t (line * (256 / tblEntryBytes t) + k)
    (a, entryRead x torn a (tblEntryBytes t)))).filter (fun b => leAt b.2 (tagOff t) 4 != 0)

/-- What an emission gives: the groups, the next line, the lines read, and whether one was lost. -/
structure EmitRes where
  groups : List (Nat × List Byte)
  next : Nat
  lines : Nat
  lost : Bool

/-- Lines from `line` on until the next one would take the count above 65,536. -/
def emitLines (x : Wheel) (torn : Option Nat) (t : Tbl) : Nat → Nat → List (Nat × List Byte) → EmitRes
  | 0, line, acc => ⟨acc, line, 0, false⟩
  | n + 1, line, acc =>
    if caveUncorr x (t.addr + 256 + 256 * line) 256 then ⟨acc, line, 1, true⟩
    else
      let g := lineGroups x torn t line
      if 65536 < acc.length + g.length then ⟨acc, line, 1, false⟩
      else
        let r := emitLines x torn t n (line + 1) (acc ++ g)
        { r with lines := r.lines + 1 }

/-- The offset of a key column in the key bytes. -/
def keyOffset (ks : List KeyEnt) (c : Nat) : Nat := ((ks.take c).map (fun k => keyWidth k.ty)).foldl (· + ·) 0

def keyVal (ks : List KeyEnt) (c : Nat) (b : List Byte) : Val :=
  let k := nth ⟨0, 0, 0, ⟨0, 0⟩, false⟩ ks c
  if bitAt (leAt b 24 1) c then .null else valOfBytes k.ty.code ((b.drop (keyOffset ks c)).take (keyWidth k.ty))

/-- AGG_EMIT: the columns, and the next line to emit, which the completion carries (R262). -/
def runAggEmit (x : Wheel) (u : UnitId) (d : List Byte) : OpRes :=
  let e := engOf x u
  let t := tblNow x e (opTable d)
  let first := min (opLineFirst d) t.nlines
  let r := emitLines x e.torn t (t.nlines - first) first []
  let x0 := (upto r.lines).foldl (fun x k => caveCorrect x (t.addr + 256 + 256 * (first + k)) 256) x
  let x1 := countLines x0 u r.lines
  if r.lost then ⟨x1, [], ended 0x020B 0⟩
  else
    let base := (Config.emitBase (opLineFirst d)).toNat
    let ks := opKeys d
    let keyOuts := ks.zipIdx.map (fun p =>
      (p.2, outStream x1 e p.1.outPort
        (columnBytes p.1.ty.code p.1.ty.width true base (r.groups.map (fun g => keyVal ks p.2 g.2)))))
    let aggOuts := (opAggs d).zipIdx.map (fun p =>
      (ks.length + p.2, outStream x1 e p.1.outPort
        (columnBytes (aggOutTy p.1) 0 (p.1.afn != 2 && p.1.afn != 3) base
          (r.groups.map (fun g => aggEmit p.1 (tget (0, 0) x.aggHi (g.1 + 32 + 16 * p.2)) (leAt g.2 (32 + 16 * p.2) 16))))))
    ⟨x1, keyOuts ++ aggOuts, ⟨0, 0, r.next⟩⟩

/-! ## HLL (R263) -/

def leadingZeros64 (w : Nat) : Nat := if w = 0 then 64 else 63 - Nat.log2 w

def hllRow (d : List Byte) (i : OpIn) (ks : List (ColTy × List Val)) (row : Nat) (x : Wheel) : Wheel × Option Nat :=
  if !(nth false i.sel row) then (x, none)
  else match rowKey ks row with
    | none => (x, none)
    | some key =>
      let p := opHllP d
      let h := harp64 (opSeed d) key
      let a := opTable d + h / 2 ^ (64 - p)
      let rho := min (leadingZeros64 (h * 2 ^ p % 2 ^ 64) + 1) (64 - p + 1)
      if caveUncorr x a 1 then (x, some 0x020B)
      else (caveWrite (caveCorrect x a 1) a [BitVec.ofNat 8 (max rho (leNat (caveRead x a 1)))], none)

/-! ## The operator's life (R223, R266) -/

/-- The header of an output column of an operator with ERR (R194, R211, R229): the type its values would have. -/
def opErrHeader (ty : Nat × Nat × Bool) (base : Nat) : List Byte :=
  outHeader 0 ty.1 ty.2.1 false false true ty.2.2 0 0 0 0 base

/-- The columns an operator writes: port, and CTYPE, WIDTH and ETYPE of its header. -/
def opOutTypes (d : List Byte) : List (Nat × Nat × Nat × Bool) :=
  match opKind d with
  | 1 => (opSteps d).flatMap (fun s => (stepPorts s).map (fun p => (p, s.otype, 0, s.otE)))
  | 4 => [(opOutA d, 0x07, 0, false), (opOutB d, 0x08, 0, false)]
  | 6 => (opKeys d).map (fun k => (k.outPort, k.ty.code, k.ty.width, false))
    ++ (opAggs d).map (fun k => (k.outPort, aggOutTy k, 0, false))
  | _ => []

/-- The error output of an operator (R211, R266). -/
def opErrOuts (e : Eng) : List OutStream :=
  let d := e.desc
  let base := opBase e
  if opKind d = 3 then
    if opJkind d < 2 then
      -- buffers formed and not put are dropped with their pairs; the ERR buffer follows those put
      let ord := (match e.work with
        | some w => w.ord
        | none => 0) - (e.outs.map (fun o => o.bufs.length)).foldl (· + ·) 0
      [pairStream d true [pairBuffer base ord true true []]]
    else [{ port := opOutA d, bufs := [selHeader 0 0 base true] }]
  else (opOutTypes d).map (fun t => { port := t.1, bufs := [opErrHeader t.2 base] })

def opDrain (x : Wheel) (u : UnitId) : Wheel :=
  let x1 := pullAll u 3 (opNeeds (engOf x u)) x
  drainStep x1 u 3 4 (opNeeds (engOf x1 u))

/-- Fail after input has begun (R211): `outs` replace the error output where the operator put some already. -/
def opFail (x : Wheel) (u : UnitId) (f : Ended) (outs : List OutStream) : Wheel :=
  opDrain (startDrain x u f (if outs.isEmpty then opErrOuts (engOf x u) else outs)) u

/-- A row of a table operator. -/
def opRow (u : UnitId) (ctx : Nat) (d : List Byte) (i : OpIn) (row : Nat) (x : Wheel) : Wheel × Option Nat :=
  match opKind d with
  | 2 => buildRow u ctx d i (keyCols d i) row x
  | 5 => aggRow u d i (keyCols d i) row x
  | 7 => hllRow d i (keyCols d i) row x
  | _ => (x, none)

/-- One 64-row group of an operator (R209, R266): the work after it, or the failure. FEATURE's late steps and PARTITION
wait for the last group. -/
def opGroup (x : Wheel) (u : UnitId) (ctx : Nat) (i : OpIn) (w : PWork) : Wheel × PWork × Option Ended :=
  let d := (engOf x u).desc
  let lo := 64 * w.group
  let n := min 64 (i.rows - lo)
  let w1 := { w with group := w.group + 1 }
  match opKind d with
  | 1 =>
    let ss := opSteps d
    let late := lateSteps ss
    let outs := if w.steps.isEmpty then ss.map (fun _ => []) else w.steps
    match stepsOn u ctx i ss (fun k => !(nth false late k)) lo n ss.zipIdx x outs with
    | (x1, .ok outs) => (x1, { w1 with steps := outs }, none)
    | (x1, .error (c, k)) => (x1, w1, some (ended c k))
  | 3 =>
    let pairs := decide (opJkind d < 2)
    let (x1, out, f) := probeRows u ctx d i (keyCols d i) n lo x (if pairs then w.pairs else [])
    let w2 := if pairs then { w1 with pairs := out }
      else { w1 with sel := w.sel ++ (upto n).map (fun r => out.contains (lo + r)) }
    match f with
    | some c => (x1, w2, some (ended c 0))
    | none =>
      if pairs then
        let r := pairFlush x1 u i.base w2
        (r.1, r.2, none)
      else (x1, w2, none)
  | _ =>
    match rowsDo (opRow u ctx d i) n lo x with
    | (x1, some c) => (x1, w1, some (ended c 0))
    | (x1, none) => (x1, w1, none)

/-- Before the first row (R251, R253, R263): INIT, then the row order. -/
def opBegin (x : Wheel) (i : OpIn) (d : List Byte) : Wheel × Option Ended :=
  let k := opKind d
  if k = 2 ∨ k = 5 then
    let x1 := tblInit x d
    (x1, if i.base < (tblOf x1 (opTable d)).next then some (ended 0x0225 0) else none)
  else if k = 7 then (if opInit d then caveZero x (opTable d) (opTableBytes d) else x, none)
  else (x, none)

/-- What an operator forms after its last group. -/
def opResult (x : Wheel) (u : UnitId) (ctx : Nat) (i : OpIn) (w : PWork) : OpRes :=
  let e := engOf x u
  let d := e.desc
  match opKind d with
  | 1 =>
    let ss := opSteps d
    let late := lateSteps ss
    let outs := if w.steps.isEmpty then ss.map (fun s => (upto (s.nout + 1)).map (fun _ => [])) else w.steps
    match stepsOn u ctx i ss (fun k => nth false late k) 0 i.rows ss.zipIdx x outs with
    | (x1, .ok outs) => ⟨x1, stepOuts x1 u i ss outs, ended 0 0⟩
    | (x1, .error (c, k)) => ⟨x1, [], ended c k⟩
  | 3 =>
    if opJkind d < 2 then
      ⟨countPairs x u w.pairs.length, [(0, pairStream d true (pairBuffers i.base (pairCap x e (opOutA d)) w.ord w.pairs))], ended 0 0⟩
    else ⟨x, [(0, outStream x e (opOutA d) (selBytes 2 i.base w.sel))], ended 0 0⟩
  | 4 => ⟨x, partOuts x u d i, ended 0 0⟩
  | 6 => runAggEmit x u d
  | 7 => ⟨x, [], ended 0 0⟩
  | _ => ⟨tblSetNext x (opTable d) (i.base + i.rows), [], ended 0 0⟩

/-- Fail with the pairs that fill buffers put first (R266). -/
def opFailWork (x : Wheel) (u : UnitId) (base : Nat) (w : PWork) (f : Ended) : Wheel :=
  let e := engOf x u
  let d := e.desc
  if opKind d = 3 ∧ opJkind d < 2 then
    let cap := pairCap x e (opOutA d)
    opFail (countPairs x u (w.pairs.length / cap * cap)) u f [pairStream d true (pairFail base cap w.ord w.pairs)]
  else opFail x u f []

/-- Form the output and deliver it. -/
def opFinish (x : Wheel) (u : UnitId) (ctx : Nat) (i : OpIn) (w : PWork) : Wheel :=
  let r := opResult x u ctx i w
  if r.done.code ≠ 0 then opFail r.x u r.done []
  else match r.outs.find? (fun o => !o.2.eager && outTooLong r.x (engOf r.x u) o.2) with
    | some (c, _) => opFail r.x u (ended 0x0209 c) []
    | none => deliverOuts (onEng r.x u (fun e => { e with outs := r.outs.map (·.2) })) u 4 r.done

/-- Bytes of an operator's output streams for the groups done: entry, port, bytes. PARTITION's columns are known at the
end. -/
def opLens (i : OpIn) (d : List Byte) (w : PWork) : List (Nat × Nat × Nat) :=
  match opKind d with
  | 1 => stepLens i (opSel d) (opSteps d) (groupRows i.rows w.group)
  | 3 => if opJkind d < 2 then [] else [(0, opOutA d, 32 + align32 (2 * (selIndices w.sel).length))]
  | _ => []

/-- Run groups until the input at hand or the output credits end, a failure is met, or the operator is done. -/
def opGroupsRun (u : UnitId) (ctx : Nat) (i : OpIn) : Nat → Wheel → Wheel
  | 0, x => x
  | n + 1, x =>
    let e0 := engOf x u
    match e0.work with
    | none => x
    | some w =>
      let x0 := if e0.outs.isEmpty then x else outAdvance x u 4
      if !((engOf x0 u).outs.isEmpty) then onEng x0 u (fun e => { e with st := .outWait })
      else if cancelDue e0 w.group then opFailWork x0 u i.base w (ended 0x0701 e0.col)
      else match (if 0 < w.group ∧ w.group < cdiv i.rows 64 then outObtain x0 u (opLens i e0.desc w) else .ok (x0, true)) with
        | .error c => opFail x0 u (ended 0x0209 c) []
        | .ok (x1, false) => onEng x1 u (fun e => { e with st := .outWait })
        | .ok (x1, true) =>
          if w.group < w.limit then
            match opGroup x1 u ctx i w with
            | (x2, w2, some f) => opFailWork x2 u i.base w2 f
            | (x2, w2, none) => opGroupsRun u ctx i n (onEng x2 u (fun e => { e with st := .run, work := some w2 }))
          else if w.more then onEng x1 u (fun e => { e with st := .inWait })
          else match w.fail with
            | some f => opFailWork x1 u i.base w f
            | none => opFinish x1 u ctx i w

/-- The work with what the input at hand allows. -/
def opLimit (i : OpIn) (w : PWork) : PWork :=
  match i.stop with
  | none => { w with limit := cdiv i.rows 64, more := false }
  | some (g, c, k) => if c = 0 then { w with limit := g, more := true } else { w with limit := g, more := false, fail := some (ended c k) }

/-- Run an operator as far as its input and output credits allow. -/
def opRun (x : Wheel) (u : UnitId) (ctx : Nat) : Wheel :=
  let e := engOf x u
  if e.st = .drain then opDrain x u
  else if storeBad x u then opFail (storeClean x u) u (ended 0x020B 0) []
  else match e.pend with
    | some f => deliverOuts x u 4 f
    | none =>
      let x0 := pullAll u 3 (opNeeds e) (storeClean x u)
      let x1 := pullAll u 3 (opNeeds (engOf x0 u)) x0
      let e1 := engOf x1 u
      match opInput e1 with
      | .error (c, k) => opFail x1 u (ended c k) []
      | .ok none => onEng x1 u (fun e => { e with st := .inWait })
      | .ok (some i) =>
        let (x2, f) := if e1.work.isNone then opBegin x1 i e1.desc else (x1, none)
        match f with
        | some f => opFail x2 u f []
        | none =>
          let w := opLimit i (e1.work.getD {})
          let col := match i.stop with
            | some s => s.2.2
            | none => 0
          opGroupsRun u ctx i (w.limit - w.group + 2) (onEng x2 u (fun e => { e with work := some w, col := col }))

/-- An operator command of kind `kind`: the press takes up, or goes on with, the operator dispatched to it. A descriptor
that cannot be read or names no kind is taken up by any of them. -/
def opCmd (x : Wheel) (p kind seed : Nat) : Wheel :=
  let u := pressUnit p
  let e := engOf x u
  match e.op with
  | none => x
  | some op =>
    let k := opKind (if e.st = .check then caveRead x e.descAddr 8 else e.desc)
    let mine := k == kind || (e.st == .check && (k == 0 || decide (7 < k) || !(caveAddrOk x e.descAddr 64)))
    if e.sub ≠ 1 ∨ e.fin.isSome ∨ e.st = .fenced ∨ e.st = .outOfService ∨ mine = false then x
    else
      let x1 := if e.st = .check then opCheck x u op.ctx seed else x
      if (engOf x1 u).fin.isSome then x1 else opRun x1 u op.ctx

def execFeature (w : Fin 8) (p : Fin 12) (s : State) : Host.Outcome State Fault Refusal :=
  .next { onWheel s w (fun x => opCmd x p 1 s.free) with free := s.free + 1 }

def execBuild (w : Fin 8) (p : Fin 12) (s : State) : Host.Outcome State Fault Refusal :=
  .next { onWheel s w (fun x => opCmd x p 2 s.free) with free := s.free + 1 }

def execProbe (w : Fin 8) (p : Fin 12) (s : State) : Host.Outcome State Fault Refusal :=
  .next { onWheel s w (fun x => opCmd x p 3 s.free) with free := s.free + 1 }

def execPartition (w : Fin 8) (p : Fin 12) (s : State) : Host.Outcome State Fault Refusal :=
  .next { onWheel s w (fun x => opCmd x p 4 s.free) with free := s.free + 1 }

def execAgg (w : Fin 8) (p : Fin 12) (s : State) : Host.Outcome State Fault Refusal :=
  .next { onWheel s w (fun x => opCmd x p 5 s.free) with free := s.free + 1 }

def execAggEmit (w : Fin 8) (p : Fin 12) (s : State) : Host.Outcome State Fault Refusal :=
  .next { onWheel s w (fun x => opCmd x p 6 s.free) with free := s.free + 1 }

def execHll (w : Fin 8) (p : Fin 12) (s : State) : Host.Outcome State Fault Refusal :=
  .next { onWheel s w (fun x => opCmd x p 7 s.free) with free := s.free + 1 }

/-! ## Cancellation (R212) -/

/-- The groups of the running press operation. -/
def pressGroups (e : Eng) : Nat :=
  if e.sub = 0 then curdGroups e.desc
  else match opInput e with
    | .ok (some i) => cdiv i.rows 64
    | _ => 1

/-- A cancellation of the running press operation: at the next group boundary the press drains and ends with 0x0701. One
that comes during the checks waits for them. -/
def pressStop (x : Wheel) (p seed : Nat) : Wheel :=
  let u := pressUnit p
  let e := engOf x u
  match e.op with
  | none => x
  | some op =>
    if e.st == .drain || e.st == .fenced || e.st == .outOfService || e.cancel.isSome then x
    else
      let x1 := if e.st = .check then (if e.sub = 0 then curdCheck x u op.ctx else opCheck x u op.ctx seed) else x
      let e1 := engOf x1 u
      if e1.fin.isSome || !(boundaryAhead e1 (pressGroups e1)) then x1
      else if pressAtBoundary e1 then
        if e1.sub = 0 then curdFail x1 u ⟨0x0701, e1.col, 0xFFFF⟩ else opFail x1 u (ended 0x0701 0) []
      else onEng x1 u (fun e => { e with cancel := e.work.map (·.group) })

def execPressCancel (w : Fin 8) (p : Fin 12) (s : State) : Host.Outcome State Fault Refusal :=
  .next (if opCancelled s w (pressOf (wheelOf s w) p) then
    { onWheel s w (fun x => pressStop x p s.free) with free := s.free + 1 } else s)

end Sys2Proof.Machine
end

