-- ==== Sys2Proof/Machine/Plans.lean ====
section
/-!
DEFINITION. Sys2Proof/Machine/Plans.lean: loading a plan (R457–R459), unloading it (R467), resuming a pass (R465), and
restoring a wheel's part after its reset (R466). The firmware reads images through the address operands of R529.
-/

namespace Sys2Proof.Machine

/-! ## Address operands (R529) -/

def opAddr (op : Nat) : Nat := op % 2 ^ 57
def opSpace (op : Nat) : Nat := bits op 62 61

/-- The side of the bridge from which the firmware of a context's port reaches device memory. -/
def fwWheel (s : State) (ctx : Nat) : Nat := 4 * (ctxOf s ctx).owner

def vaReadGo (w ctx : Nat) : Nat → Nat → Nat → List Byte → State → State × Except Nat (List Byte)
  | 0, _, _, acc, s => (s, .ok acc)
  | f + 1, va, n, acc, s =>
    if n = 0 then (s, .ok acc)
    else match pageWalk s w ctx va true false with
      | (s1, .page pa size _ _) =>
        let k := min n (size - va % size)
        let (s2, bs, c) := devRead s1 w (pa + va % size) k
        if c ≠ 0 then (s2, .error c) else vaReadGo w ctx f (va + k) (n - k) (acc ++ bs) s2
      | (s1, .stop c) => (s1, .error c)
      | (s1, _) => (s1, .error 0x0907)

/-- Read through an address operand: 0x0907 for a space that is not the context's, 0x0909 for a failed host read. -/
def cmdRead (s : State) (ctx op n : Nat) : State × Except Nat (List Byte) :=
  let p := (ctxOf s ctx).owner
  if opSpace op = 0 then vaReadGo (fwWheel s ctx) ctx (n / 65536 + 2) (opAddr op) n [] s
  else if opSpace op = p + 2 then
    match hostRead s p (opAddr op) n with
    | some bs => (s, .ok bs)
    | none => (s, .error 0x0909)
  else (s, .error 0x0907)

def vaWriteGo (w ctx : Nat) : Nat → Nat → List Byte → State → State × Nat
  | 0, _, _, s => (s, 0)
  | f + 1, va, bs, s =>
    if bs.isEmpty then (s, 0)
    else match pageWalk s w ctx va false true with
      | (s1, .page pa size _ _) =>
        let k := size - va % size
        let (s2, c) := devWrite s1 w (pa + va % size) (bs.take k)
        if c ≠ 0 then (s2, c) else vaWriteGo w ctx f (va + k) (bs.drop k) s2
      | (s1, .stop c) => (s1, c)
      | (s1, _) => (s1, 0x0907)

/-- Write through an address operand; a port that is lost gives 0x0606 (R537). -/
def cmdWrite (s : State) (ctx op : Nat) (bs : List Byte) : State × Nat :=
  let p := (ctxOf s ctx).owner
  if opSpace op = 0 then vaWriteGo (fwWheel s ctx) ctx (bs.length / 65536 + 2) (opAddr op) bs s
  else if opSpace op = p + 2 then
    match hostWrite s p (opAddr op) bs with
    | some s1 => (s1, 0)
    | none => (s, 0x0606)
  else (s, 0x0907)

/-! ## The parts of an image -/

/-- An image that has passed steps 1 to 7: its bytes, header, sections and placement. -/
structure Img where
  b : List Byte
  h : Hdr
  ss : List Sec
  wmap : List (Nat × Nat)
  nodes : List Nat
  deriving DecidableEq, Repr

def secsOf (m : Img) (ty lw : Nat) : List Sec := m.ss.filter (fun s => s.ty == ty && s.lw == lw)

/-- The records, hoop records and flow records of a logical wheel. -/
def imgRecs (m : Img) (lw : Nat) : List PRec := (secsOf m 1 lw).flatMap (fun s => (recsOf m.b s).1)
def imgHoops (m : Img) (lw : Nat) : List HRec :=
  (secsOf m 3 lw).flatMap (fun s => (upto s.count).map (fun j => hrecOf (fixedEntry m.b s 16 j)))
def imgFlows (m : Img) (lw : Nat) : List (Nat × Bool × Nat) :=
  (secsOf m 2 lw).flatMap (fun s => (upto s.count).map (fun j =>
    let w := leNat (fixedEntry m.b s 8 j)
    (bits w 13 0, bitAt w 16, bits w 47 32)))
def imgEntries (m : Img) (ty lw : Nat) : List VEntry := (secsOf m ty lw).flatMap (fun s => (ventries m.b s).1)

/-- The pinned keys and the range and prefix entries of a logical wheel (R254, R240). -/
def imgPins (m : Img) (lw : Nat) : List (BitVec 128 × BitVec 128 × DWord) :=
  (secsOf m 9 lw).flatMap (fun s => (upto s.count).map (fun j =>
    let e := fixedEntry m.b s 32 j
    (BitVec.ofNat 128 (leAt e 0 1 * 2 ^ 120 + leAt e 8 15), BitVec.allOnes 128, BitVec.ofNat 64 (leAt e 4 4))))
def imgBuckets (m : Img) (lw : Nat) : List (BitVec 128 × BitVec 128 × DWord) :=
  (secsOf m 10 lw).flatMap (fun s => (upto s.count).map (fun j =>
    let e := fixedEntry m.b s 48 j
    (BitVec.ofNat 128 (leAt e 0 16), BitVec.ofNat 128 (leAt e 16 16), BitVec.ofNat 64 (leAt e 32 8))))
def imgSlots (m : Img) : List SlotRec := (m.ss.filter (·.ty == 8)).flatMap (fun s => slotFlows m.b s)

/-- The flow-share entries of a logical wheel (R276, R489), with the physical flow of each logical one. -/
def imgFlowShare (m : Img) (ctx lw : Nat) (phys : Nat → Nat) : List (BitVec 128 × BitVec 128 × DWord) :=
  ((imgSlots m).filter (fun r => r.rx && r.lw == lw)).map (fun r =>
    let node := if srAny r then 0 else nth 0 m.nodes r.lmod
    let mask := 1023 * 2 ^ 64 + (if srAny r then 0 else 4095 * 2 ^ 32) + 16383
    (BitVec.ofNat 128 (ctx * 2 ^ 64 + node * 2 ^ 32 + r.flow), BitVec.ofNat 128 mask,
     BitVec.ofNat 64 (phys (bits (leAt r.raw 0 8) 29 16) * 2 ^ 16 + r.hoop)))

/-- The Cave ranges of a logical wheel that the image fills: records, descriptors, constants (step 7), and the buffers of
its pools (step 9). -/
def imgCaves (m : Img) (lw : Nat) : List (Nat × Nat) :=
  (secsOf m 1 lw).map (fun s => (s.caddr, s.len)) ++ (imgEntries m 5 lw).map (fun e => (entryAddr e, 128))
    ++ (imgEntries m 6 lw).map (fun e => (entryAddr e, e.data.length))
def imgClaims (m : Img) (lw : Nat) : List (Nat × Nat) := imgCaves m lw ++ (imgHoops m lw).flatMap hrecBufs

/-- The vats, first bundle and bundles of an ISTORE entry. -/
def istoreOf (e : VEntry) : Nat × Nat × Nat :=
  let w := leAt e.head 0 8
  (bits w 31 0, bits w 40 32, bits w 57 48)

/-! ## The content checks (step 8) -/

/-- The first index at which a check gives a code. -/
def firstCode (n : Nat) (f : Nat → Nat) : Option (Nat × Nat) := (upto n).findSome? (fun j => if f j = 0 then none else some (j, f j))

/-- Bytes of a hoop's buffers by logical wheel. -/
def hoopBytes (m : Img) (lw h : Nat) : Option Nat := ((imgHoops m lw).find? (fun r => r.hoop == h)).map (fun r => 256 * r.units)

/-- A flow record (R414, R415): a malformed one, a full table, quotas that exceed the store. -/
def flowCode (x : Wheel) (b : List Byte) (s : Sec) (j : Nat) : Nat :=
  let w := fun k => leNat (fixedEntry b s 8 k)
  let quota := fun k => bits (w k) 47 32
  let openFlows := x.rnt.flows.filter (fun f => f.2.st != .free)
  if bits (w j) 15 14 ≠ 0 ∨ bits (w j) 31 17 ≠ 0 ∨ bits (w j) 63 48 ≠ 0 ∨ quota j = 0 ∨ 32768 < quota j
      ∨ (upto j).any (fun k => bits (w k) 13 0 == bits (w j) 13 0) then 0x0931
  else if 2048 - openFlows.length ≤ j then 0x0708
  else if 32768 < openFlows.foldl (fun n f => n + f.2.quota) 0 + (upto (j + 1)).foldl (fun n k => n + quota k) 0 then 0x0707
  else 0

def regionCode (h : Hdr) (e : List Byte) : Nat :=
  let w := leAt e 0x10 8
  let page := pageSize (3 - bits w 9 8)
  if leAt e 0 8 < 2 ^ 57 ∧ bits w 9 8 ≤ 2 ∧ leAt e 0 8 % page = 0 ∧ leAt e 8 8 % page = 0 ∧ bits w 3 3 = 0 ∧ bits w 7 6 = 0
      ∧ bits w 11 10 = 0 ∧ bits w 63 14 = 0 ∧ leAt e 0x18 8 = 0 ∧ lwOn h (bits w 2 0) then 0 else 0x0931

def pinCode (e : List Byte) : Nat :=
  let wd := leAt e 1 1
  if leAt e 2 2 = 0 ∧ wd ≤ 15 ∧ leAt e 8 24 < 256 ^ wd then 0 else 0x0931

/-- The vats' and streams' descriptors of a DESC section. -/
def descEntryCode (e : VEntry) : Nat :=
  if !(ventryOk 5 e) then 0x0931
  else
    let w := leAt e.head 0 8
    let d := descOf e.data
    descCheck d (descRole (bits w 43 40) (bits w 35 32)) 0 (d.space != 1)

def istoreCode (e : VEntry) : Nat :=
  if !(ventryOk 4 e) then 0x0931
  else if (upto (e.data.length / 8)).all (fun k => slotLoadable (k % 4) (leAt e.data (8 * k) 8)) then 0 else 0x0140

/-- The check of one section of the image. -/
def secCheck (st : State) (m : Img) (s : Sec) : Option LoadErr :=
  let pw := ((m.wmap.find? (fun q => q.1 == s.lw)).map (·.2)).getD 0
  let x := wheelOf st pw
  let err := fun (p : Nat × Nat) => ({ code := p.2, sec := s.i, ent := p.1 } : LoadErr)
  let ves := ventries m.b s
  let short : Option LoadErr := if ves.2 then none else some { code := 0x0931, sec := s.i, ent := ves.1.length }
  let vcheck := fun (f : VEntry → Nat) =>
    ((firstCode ves.1.length (fun j => f (nth ⟨[], []⟩ ves.1 j))).map err).or short
  match s.ty with
  | 1 =>
    let rs := recsOf m.b s
    let all := (logicals m.h).flatMap (fun lw => (imgRecs m lw).map (fun r => (lw, r)))
    let flows := (imgFlows m s.lw).map (·.1)
    match firstCode rs.1.length (fun j => recCode all flows m.h.nlayer rs.1 (nth (recOf [] [] 0) rs.1 j)) with
    | some (j, c) => some { code := c, sec := s.i, ent := j, opid := (nth (recOf [] [] 0) rs.1 j).op.opid }
    | none => if rs.2 then none else some { code := 0x0931, sec := s.i, ent := rs.1.length }
  | 2 => (firstCode s.count (flowCode x m.b s)).map err
  | 3 =>
    let rs := fun j => hrecOf (fixedEntry m.b s 16 j)
    (firstCode s.count (fun j => if !(hrecOk (fixedEntry m.b s 16 j)) then 0x0931
      else if hrecFits x ((upto j).map rs) (loadedBufs x) (rs j) then 0 else 0x060C)).map err
  | 4 => vcheck istoreCode
  | 5 => vcheck descEntryCode
  | 6 => vcheck (fun e => if ventryOk 6 e then 0 else 0x0931)
  | 7 =>
    if s.count ≠ m.h.nlayer then some { code := 0x093A, sec := s.i }
    else match barrierGo m.b s (imgRecs m) (fun lw => (imgHoops m lw).map (·.hoop)) s.count 0 s.off [] with
      | .error e => some e
      | .ok _ => none
  | 8 =>
    let c := slotCode st m.h m.b s (hoopBytes m)
    if c = 0 then none else some { code := c, sec := s.i }
  | 9 => (firstCode s.count (fun j => pinCode (fixedEntry m.b s 32 j))).map err
  | 10 => (firstCode s.count (fun j => if leAt (fixedEntry m.b s 48 j) 40 8 = 0 then 0 else 0x0931)).map err
  | 11 => (firstCode s.count (fun j => regionCode m.h (fixedEntry m.b s 32 j))).map err
  | _ => none

/-! ## Claims (step 9) -/

/-- The stream channels of a logical wheel: the TARGETs of its stream operations. -/
def imgChannels (m : Img) (lw : Nat) : List Nat := ((imgRecs m lw).filter (fun r => r.op.cls == 5)).map (fun r => r.op.target)

/-- Two ISTORE ranges share a bundle of a vat. -/
def istoresMeet (a b : Nat × Nat × Nat) : Bool := (a.1 &&& b.1) != 0 && rangesMeet a.2 b.2

/-- The plans loaded in other contexts. -/
def otherPlans (s : State) (ctx : Nat) : List Plan := s.ctxs.filterMap (fun c => if c.1 = ctx then none else c.2.plan)

def claimCode (st : State) (m : Img) (ctx lw pw : Nat) : Nat :=
  let x := wheelOf st pw
  let ps := otherPlans st ctx
  let is := (imgEntries m 4 lw).map istoreOf
  let clash := (imgHoops m lw).any (fun r => (hoopOf x r.hoop).owner.isSome)
    || ps.any (fun p => (imgChannels m lw).any (fun c => p.channels.contains (pw, c))
        || p.istore.any (fun t => t.1 == pw && is.any (fun i => istoresMeet i t.2))
        || p.caveR.any (fun t => t.1 == pw && (imgClaims m lw).any (fun r => rangesMeet r t.2)))
  let fs := imgFlowShare m ctx lw id
  if clash then 0x0936
  else if !fs.isEmpty && (heldRange x.mld 1 fs.length).isNone then 0x0303
  else if !(imgBuckets m lw).isEmpty && (heldRange x.mld 3 (imgBuckets m lw).length).isNone then 0x0226
  else 0

/-! ## The checks of a load, in order (R457) -/

/-- The plan-signing keys of the culture (R630, R652): identifier and public key. -/
def planKeys (s : State) : List (List Byte × List Byte) :=
  (upto (min 16 (leAt s.culture 0x200 1))).map (fun k =>
    let o := 0x220 + 160 * k
    ((s.culture.drop o).take 8, (s.culture.drop (o + 8)).take 133))

/-- Step 4: none when the signature satisfies R452 and R453. -/
def signatureCode (s : State) (m : List Byte) (h : Hdr) : Nat :=
  if h.sigOfs = 0 then (if s.signedPlans then 0x0933 else 0)
  else if sectionVerifies (planKeys s) (m.take h.sigOfs) (m.drop h.sigOfs) then 0 else 0x0932

/-- Step 5, and R476: the placement, or the code. -/
def placeCode (st : State) (port : Nat) (h : Hdr) (ss : List Sec) (t : List Byte) : Except Nat (List (Nat × Nat) × List Nat) :=
  if st.node = 0xFFF ∧ (1 < h.nmod ∨ ss.any (·.ty == 8)) then .error 0x0807
  else match placementOf st h t with
    | none => .error 0x0934
    | some (wm, nodes) =>
      if wm.any (fun q => (wheelOf st q.2).svc != .inService) then .error 0x0004
      else if wm.any (fun q => !(wheelVisible st port q.2)) then .error 0x093B
      else .ok (wm, nodes)

def tableBytes (nmod : Nat) : Nat := 32 + alignUp (2 * nmod) 32

/-- Step 7: CAVE_TOP and every Cave address. -/
def caveCode (st : State) (m : Img) : Option LoadErr :=
  let x := wheelOf st ((m.wmap.map (·.2)).headD 0)
  if visibleEnd x.saveSlots < m.h.caveTop then some { code := 0x0938 }
  else m.ss.findSome? (fun s =>
    let bad := fun (a n : Nat) => !(caveAddrOk x a (max 1 n))
    match s.ty with
    | 1 => if bad s.caddr s.len then some { code := 0x0938, sec := s.i } else none
    | 5 => (firstCode (ventries m.b s).1.length (fun j => if bad (entryAddr (nth ⟨[], []⟩ (ventries m.b s).1 j)) 128 then 0x0938 else 0)).map
        (fun p => { code := p.2, sec := s.i, ent := p.1 })
    | 6 => (firstCode (ventries m.b s).1.length (fun j =>
          let e := nth ⟨[], []⟩ (ventries m.b s).1 j
          if bad (entryAddr e) e.data.length then 0x0938 else 0)).map (fun p => { code := p.2, sec := s.i, ent := p.1 })
    | _ => none)

/-- Count a signature check and the bytes hashed in the Seal of a die (R670, R671). -/
def sealNote (s : State) (die : Nat) (checked ok : Bool) (n : Nat) : State :=
  let r0 := tget [] s.sea.regs die
  let r1 := bumpAt r0 0x020 3 0x058 n
  let r2 := if checked then bumpAt r1 0x020 (b2n (!ok)) (if ok then 0x040 else 0x048) 1 else r1
  { s with sea := { s.sea with regs := tset [] s.sea.regs die r2 } }

/-- An error of a Seal: the bit, and the code while SEA_ERR_STATUS is all zero (R671). Offset 0x014 is not an error
register there. -/
def sealErr (s : State) (die mask code : Nat) : State :=
  let r0 := tget [] s.sea.regs die
  let r1 := if regGet r0 0x00C = 0 then regSet r0 0x010 code else r0
  { s with sea := { s.sea with regs := tset [] s.sea.regs die (regSet r1 0x00C (regGet r1 0x00C ||| mask)) } }

/-- Steps 1 to 9. -/
def loadChecks (s0 : State) (ctx iop top : Nat) : State × Except LoadErr Img :=
  let port := (ctxOf s0 ctx).owner
  let no := fun (c : Nat) => (Except.error { code := c } : Except LoadErr Img)
  if (ctxOf s0 ctx).plan.isSome then (s0, no 0x0937)
  else match cmdRead s0 ctx iop 128 with
    | (s1, .error c) => (s1, no c)
    | (s1, .ok hd) =>
      if !(hdrOk hd) then (s1, no 0x0930)
      else
        let h := hdrOf hd
        match cmdRead s1 ctx iop h.bytes with
        | (s2, .error c) => (s2, no c)
        | (s2, .ok b) =>
          match sectionsOf b h with
          | .error e => (s2, .error e)
          | .ok ss =>
            let sc := signatureCode s2 b h
            let s3 := if h.sigOfs = 0 then s2 else sealNote s2 port true (sc == 0) h.sigOfs
            if sc ≠ 0 then (if sc = 0x0932 then sealErr s3 port 1 sc else s3, no sc)
            else match cmdRead s3 ctx top (tableBytes h.nmod) with
              | (s4, .error c) => (s4, no c)
              | (s4, .ok t) =>
                match placeCode s4 port h ss t with
                | .error c => (s4, no c)
                | .ok (wm, nodes) =>
                  let m : Img := ⟨b, h, ss, wm, nodes⟩
                  if h.feat &&& (portOf s4 port).accept ≠ h.feat then (s4, no 0x0935)
                  else match (caveCode s4 m).or (m.ss.findSome? (secCheck s4 m)) with
                    | some e => (s4, .error e)
                    | none =>
                      let ws := sortBy (fun (a b : Nat × Nat) => decide (a.2 < b.2)) wm
                      match ws.findSome? (fun q => if claimCode s4 m ctx q.1 q.2 = 0 then none else some (claimCode s4 m ctx q.1 q.2)) with
                      | some c => (s4, no c)
                      | none => (s4, .ok m)

/-! ## Carrying out a load (R458) -/

/-- The lowest free entries of a wheel's flow table, one for each flow record. -/
def freeFlows (x : Wheel) (n : Nat) : List Nat :=
  ((upto 2048).filter (fun e => (tget ({} : Flow) x.rnt.flows e).st == .free)).take n

/-- The physical flow of a logical one: wheel and entry (R414). -/
def physFlow (m : Img) (pw lw : Nat) (es : List Nat) (f : Nat) : Nat :=
  pw * 2048 + nth 0 es (((imgFlows m lw).findIdx? (fun q => q.1 == f)).getD 0)

def physSucc (m : Img) (e : Nat) : Nat :=
  (((m.wmap.find? (fun q => q.1 == bits e 31 29)).map (·.2)).getD 0) * 2 ^ 29 + e % 2 ^ 29

/-- Write bundles into a vat's instruction store (R138). -/
def storeBundles (t : Vat) (base : Nat) (data : List Byte) : Vat :=
  (upto (data.length / 32)).foldl (fun t k =>
    { t with istore := tset 0 t.istore (base + k) (BitVec.ofNat 256 (leAt data (32 * k) 32))
             istoreBad := t.istoreBad.filter (· ≠ base + k) }) t

/-- The ISTORE sections of a logical wheel for some vats. -/
def writeIstores (m : Img) (lw : Nat) (x : Wheel) (vats : List Nat) : Wheel :=
  (imgEntries m 4 lw).foldl (fun x e =>
    vats.foldl (fun x v => if bitAt (istoreOf e).1 v then onVat x v (fun t => storeBundles t (istoreOf e).2.1 e.data) else x) x) x

/-- The hoops of a logical wheel, every buffer free in ascending order (R381); the Creamery produces for the hoops of
receive records. -/
def setHoops (m : Img) (ctx lw : Nat) (x : Wheel) : Wheel :=
  (imgHoops m lw).foldl (fun x r =>
    setHoop x r.hoop { owner := some ctx, pool := r.pool, stride := r.stride, units := r.units, nbuf := r.nbuf, free := upto r.nbuf
                       relCnt := BitVec.ofNat 16 r.nbuf
                       prod := if (imgSlots m).any (fun q => q.rx && q.lw == lw && q.hoop == r.hoop) then some rxUnit else none }) x

/-- The sections that a wheel's part consists of, but for the flow table: OPREC, DESC, CAVE, hoop pools, ISTORE, and the
held Mould entries (R458 steps 2 to 4, R466). -/
def placePart (m : Img) (ctx lw pw : Nat) (es : List Nat) (x : Wheel) : Wheel :=
  let ops := (imgRecs m lw).map (fun r => { r.op with ctx := ctx, flow := physFlow m pw lw es r.op.flow, succ := r.op.succ.map (physSucc m) })
  let x1 := (secsOf m 1 lw).foldl (fun x s => caveWrite x s.caddr ((m.b.drop s.off).take s.len)) x
  let x2 := (imgEntries m 5 lw ++ imgEntries m 6 lw).foldl (fun x e => caveWrite x (entryAddr e) e.data) x1
  let roles := (imgEntries m 5 lw).map (fun e => (entryAddr e, bits (leAt e.head 0 8) 43 40 * 16 + bits (leAt e.head 0 8) 35 32))
  let x3 := { x2 with
    rnt := { x2.rnt with ops := x2.rnt.ops ++ ops, roles := x2.rnt.roles ++ roles }
    prec := x2.prec ++ (imgEntries m 6 lw).map (fun e => (ctx, entryAddr e, e.data.length)) }
  let x4 := writeIstores m lw (setHoops m ctx lw x3) (upto 32)
  let fs := imgFlowShare m ctx lw (physFlow m pw lw es)
  let fill := fun (x : Wheel) (share : Nat) (l : List (BitVec 128 × BitVec 128 × DWord)) =>
    if l.isEmpty then x else onMld x (fun d => fillHeld d share ctx ((heldRange d share l.length).getD 0) l)
  let x5 := fill x4 1 fs
  let span := largestSpan x5.mld 2
  let pins := (imgPins m lw).take span.2
  let x6 := if pins.isEmpty then x5 else onMld x5 (fun d => fillHeld d 2 ctx span.1 pins)
  fill x6 3 (imgBuckets m lw)

/-- Open the flows of a wheel's part: cleared counters, state OPEN (R414, R433). -/
def openFlows (m : Img) (ctx lw : Nat) (es : List Nat) (r : Rennet) : Rennet :=
  ((imgFlows m lw).zip es).foldl (fun r p =>
    setFlow r p.2 { st := .openF, ctx := ctx, atomic := p.1.2.1, quota := p.1.2.2 }) r

/-- The transmit and receive states of a part (R487, R490, R495). -/
def crmPart (m : Img) (ctx : Nat) (esOf : Nat → List Nat) (c : Crm) : Crm :=
  let phys := fun lw => ((m.wmap.find? (fun q => q.1 == lw)).map (·.2)).getD 0
  { c with
    txs := c.txs ++ ((imgSlots m).filter (fun r => !r.rx)).map (fun r =>
      let w := leAt r.raw 0 8
      let v := leAt r.raw 8 8
      { ctx := ctx, flow := r.flow, wheel := phys r.lw, peer := nth 0 m.nodes r.lmod, peerWheel := bits w 56 54
        sport := bits v 47 32, dport := bits v 50 48, limit := bits v 31 0 })
    rxs := c.rxs ++ ((imgSlots m).filter (·.rx)).map (fun r =>
      { ctx := ctx, flow := r.flow, wheel := phys r.lw, anySrc := srAny r, node := if srAny r then 0 else nth 0 m.nodes r.lmod
        combine := srCombine r, hoop := r.hoop, lflow := physFlow m (phys r.lw) r.lw (esOf r.lw) (bits (leAt r.raw 0 8) 29 16)
        init := bits (leAt r.raw 8 8) 31 0, msgBytes := leAt r.raw 16 4 }) }

def planLayers (m : Img) : List LayerRec :=
  match m.ss.find? (·.ty == 7) with
  | none => []
  | some s => match barrierGo m.b s (imgRecs m) (fun lw => (imgHoops m lw).map (·.hoop)) s.count 0 s.off [] with
    | .ok l => l
    | .error _ => []

/-- The plan that a context holds after a load. -/
def planRecord (m : Img) (iop : Nat) (es : Nat → List Nat) : Plan :=
  let per := fun {α : Type} (f : Nat → List α) => m.wmap.flatMap (fun q => (f q.1).map (fun a => (q.2, a)))
  { image := iop, bytes := m.h.bytes, hash := sha512 m.b, planId := m.h.planId, lmod := m.h.lmod, nmod := m.h.nmod
    timeout := m.h.timeout, features := m.h.feat, wmap := m.wmap, nodes := m.nodes, layers := planLayers m
    flows := m.wmap.flatMap (fun q => ((imgFlows m q.1).zip (es q.1)).map (fun f => (q.2, f.1.1, f.2)))
    channels := per (imgChannels m), istore := per (fun lw => (imgEntries m 4 lw).map istoreOf)
    caveR := per (imgClaims m)
    slot := (m.ss.find? (·.ty == 8)).map (slotTabOf m.b) }

/-- Carry out a load that passed every check. -/
def install (s : State) (ctx iop : Nat) (m : Img) : State :=
  let es := fun lw => freeFlows (wheelOf s (((m.wmap.find? (fun q => q.1 == lw)).map (·.2)).getD 0)) (imgFlows m lw).length
  let s1 := m.wmap.foldl (fun s q => onWheel s q.2 (fun x =>
    let y := placePart m ctx q.1 q.2 (es q.1) x
    { y with rnt := openFlows m ctx q.1 (es q.1) y.rnt })) s
  let s2 := onCrm s1 (crmPart m ctx es)
  let s3 := sealNote s2 (ctxOf s ctx).owner false true m.h.bytes
  onCtx s3 ctx (fun x => { x with plan := some (planRecord m iop es) })

/-- LOAD (R457, R458): the code with DETAIL0 and the OPID. -/
def loadPlan (s : State) (ctx iop top : Nat) : State × Nat × Nat × Nat :=
  match loadChecks s ctx iop top with
  | (s1, .error e) => (s1, e.code, e.ent % 2 ^ 32 * 2 ^ 32 + e.sec % 2 ^ 16, e.opid)
  | (s1, .ok m) => (install s1 ctx iop m, 0, 0, 0)

/-! ## Cancelling and failing flows (R433) -/

/-- The entries of a context's flows on a wheel. -/
def ctxFlows (x : Wheel) (ctx : Nat) : List Nat :=
  (x.rnt.flows.filter (fun f => f.2.ctx == ctx && f.2.st != .free)).map (·.1)

/-- The vats of a wheel that run an operation of a flow. -/
def vatsOn (x : Wheel) (f : Nat) : List Nat :=
  (x.vats.filter (fun v => match v.2.op with
    | some op => op.flow % 2048 == f
    | none => false)).map (·.1)

/-- Cancel flows of a wheel: OPEN ones become CANCELLED; instances not dispatched, and saved ones, complete with 0x0701.
A vat stops at once (R125); the other engines cancel those in service by their own rules (PRESS_CANCEL, LADLE_CANCEL,
GRADER_CANCEL, STREAM_CANCEL). -/
def cancelFlows (s : State) (w : Nat) (fs : List Nat) : State :=
  rRun s w (fun c => fs.foldl (fun c f =>
    if (flowOf c.x.rnt f).st = .openF then
      let c1 := rOn c (fun r => setFlow r f { flowOf r f with st := .cancelled })
      let c2 := dropSaved (dropWaiting c1 f 0x0701) f
      { c2 with x := (vatsOn c2.x f).foldl vatCancel c2.x }
    else c) c)

/-- Every flow of a context on every wheel of its part enters FAILED with a code. -/
def failCtx (s : State) (ctx code : Nat) : State :=
  match planOf s ctx with
  | none => s
  | some p => (partWheels p).foldl (fun s w =>
      rRun s w (fun c => (ctxFlows c.x ctx).foldl (fun c f => failFlow c ⟨ctx, w * 2048 + f, 0, 0, code, ⟨0, 0⟩, 0, 0⟩) c)) s

def cancelCtx (s : State) (ctx : Nat) : State :=
  match planOf s ctx with
  | none => s
  | some p => (partWheels p).foldl (fun s w => cancelFlows s w (ctxFlows (wheelOf s w) ctx)) s

/-- Cancel an engine's operation by its rule (R125, R212, R322, R369, R404). -/
def stopUnit (s : State) (w : Nat) (u : UnitId) : State :=
  match u.cls with
  | 1 => onWheel s w (fun x => vatCancel x u.idx)
  | 2 => { onWheel s w (fun x => pressStop x u.idx s.free) with free := s.free + 1 }
  | 3 => ladleStop s w u.idx
  | 4 => onWheel s w (fun x => graderStop x u.idx)
  | 5 => match (chOf s w u.idx).st with
    | .idle => s
    | .ending => s
    | .fenced => s
    | _ => chFail s w u.idx 0x0701 0
  | _ => s

/-- The units of a wheel with an instance of a context in service. -/
def unitsOf (x : Wheel) (ctx : Nat) : List UnitId :=
  x.rnt.insts.filterMap (fun i => match i.st with
    | .service u _ => if i.ctx = ctx then some u else none
    | _ => none)

/-- Cancel a context's instances that an engine holds: those on the units that satisfy `p`, and the saved ones. -/
def stopCtx (s : State) (ctx : Nat) (p : Wheel → UnitId → Bool) : State :=
  match planOf s ctx with
  | none => s
  | some pl => (partWheels pl).foldl (fun s w =>
      let s1 := (unitsOf (wheelOf s w) ctx).foldl (fun s u => if p (wheelOf s w) u then stopUnit s w u else s) s
      rRun s1 w (fun c => (ctxFlows c.x ctx).foldl dropSaved c)) s

/-- Instances of some flows of a wheel that have not completed. -/
def flowsQuiet (x : Wheel) (fs : List Nat) : Bool :=
  x.rnt.insts.all (fun i => match findOp x.rnt i.ctx i.opid with
    | some o => !(fs.contains (o.flow % 2048))
    | none => true)

/-- Streams and drips of a context under way or not yet taken, instances' and commands' alike. -/
def streamsQuiet (x : Wheel) (ctx : Nat) : Bool :=
  x.whey.chans.all (fun c => c.2.st == .idle || c.2.ctx != ctx) && x.whey.arms.all (fun a => ownerCtx a.1 != ctx)
    && x.whey.drips.all (fun d => d.ctx != ctx) && x.whey.dones.all (fun d => ownerCtx d.own != ctx)

def ctxQuiet (s : State) (ctx : Nat) : Bool :=
  match planOf s ctx with
  | none => true
  | some p => (partWheels p).all (fun w => flowsQuiet (wheelOf s w) (ctxFlows (wheelOf s w) ctx) && streamsQuiet (wheelOf s w) ctx)

/-! ## Unloading (R467, R328) -/

/-- Return a migrated row home (R328): the copy is taken and written home with an even VERSION above its own, and its
redirects are removed. Of a copy that cannot be taken nothing is written; its redirects go with the plan (DESIGN CHOICE,
log 80). -/
def returnRow (s : State) (m : MigRec) : State :=
  let w := paWheel m.copy
  let key := migrKey m.ctx m.table m.row
  let s1 := match fwTake w [(m.copy, m.rb)] 9 s with
    | (s1, none) => s1
    | (s1, some old) => fwWrite s1 w m.home ((leAt old 0 4 + 2) % 2 ^ 32) (old.drop 4)
  let s2 := (readerWheels s1 m.ctx m.table).foldl (fun s k => onWheel s k (fun x => onMld x (fun d => mldUnmigrate d key))) s1
  onWheel s2 w (fun x => { x with ldl := { x.ldl with migrated := x.ldl.migrated - 1 } })

def forgetRows (s : State) (ctx : Nat) : State :=
  let s1 := { s with migs := s.migs.filter (fun m => m.ctx != ctx) }
  (upto 8).foldl (fun s w =>
    if s.migs.any (fun m => paWheel m.copy == w) then s
    else onWheel s w (fun x => if x.ldl.poolUsed = 0 then x else { x with ldl := { x.ldl with poolUsed := 0, migrated := 0, stopped := false } })) s1

/-- Free every claim of a plan (R467 step 4), and the Creamery's states of its flows. -/
def freePlan (s : State) (ctx : Nat) : State :=
  match planOf s ctx with
  | none => s
  | some p =>
    let s1 := (partWheels p).foldl (fun s w => onWheel s w (fun x =>
      { x with
        hoops := x.hoops.filter (fun h => h.2.owner != some ctx)
        prec := x.prec.filter (fun r => r.1 != ctx)
        mld := freeHeld x.mld ctx
        rnt := { x.rnt with
          ops := x.rnt.ops.filter (fun o => o.ctx != ctx), flows := x.rnt.flows.filter (fun f => f.2.ctx != ctx || f.2.st == .free)
          insts := x.rnt.insts.filter (fun i => i.ctx != ctx), passes := x.rnt.passes.filter (fun q => q.ctx != ctx)
          tokq := x.rnt.tokq.filter (fun t => t.ctx != ctx)
          roles := x.rnt.roles.filter (fun r => !(p.caveR.any (fun c => c.1 == w && decide (c.2.1 ≤ r.1) && decide (r.1 < c.2.1 + c.2.2)))) } })) s
    let s2 := onCrm s1 (fun c =>
      { c with
        txs := c.txs.filter (fun t => t.ctx != ctx), retx := c.retx.filter (fun t => t.ctx != ctx)
        rxs := c.rxs.filter (fun t => t.ctx != ctx), srcs := c.srcs.filter (fun t => t.ctx != ctx)
        grps := c.grps.filter (fun g => !(p.wmap.any (fun q => q.2 == g.wheel) && c.rxs.any (fun t => t.ctx == ctx && t.wheel == g.wheel && t.hoop == g.hoop)))
        notes := c.notes.filter (fun n => n.ctx != ctx), noteNum := c.noteNum.filter (fun n => n.1 / 4096 != ctx)
        noteSeen := c.noteSeen.filter (fun n => n.1 != ctx) })
    onCtx { s2 with mesh := s2.mesh.filter (fun m => match m with
        | .token _ _ c _ _ _ => c != ctx
        | .release _ _ c _ _ => c != ctx
        | _ => true) } ctx (fun x => { x with plan := none })

/-- The wheels in service start the sweeps that end a context's entries (R288): of its held ranges, and of the live shares
named. -/
def sweepAway (s : State) (ctx : Nat) (live : List Nat) : State :=
  (upto 8).foldl (fun s w => if (wheelOf s w).svc = .inService then onWheel s w (fun x => onMld x (fun m => sweepOut m ctx live)) else s) s

/-- Those sweeps have completed. -/
def ctxSwept (s : State) (ctx : Nat) (live : List Nat) : Bool :=
  (upto 8).all (fun w => (wheelOf s w).svc != .inService || sweptOut (wheelOf s w).mld ctx live)

/-- The migrated rows of a context return home (R467 step 2). A teardown returns none. -/
def rowsHome (s : State) (ctx : Nat) : State := forgetRows ((s.migs.filter (fun m => m.ctx == ctx)).foldl returnRow s) ctx

/-- The end of an unload, once every instance in service has completed and the held ranges are swept (R467 step 4). -/
def unloadEnd (s : State) (ctx : Nat) : State := forgetRows (freePlan s ctx) ctx

/-! ## Resuming (R465) -/

def iterOpens (s : State) (p : Plan) (ctx : Nat) : List Nat :=
  ((partWheels p).flatMap (fun w => ((wheelOf s w).rnt.passes.filter (fun q => q.ctx == ctx)).map (·.iter)))

/-- The TOKEN slots that a resumed pass counts as filled on a wheel, by OPID: those of operations of a layer after n whose
predecessor belongs to layer n or earlier, on any wheel of the part (R465). -/
def resumedSlots (s : State) (p : Plan) (ctx n w : Nat) : List (Nat × List Nat) :=
  let early := (partWheels p).flatMap (fun k => ((wheelOf s k).rnt.ops.filter (fun o => o.ctx == ctx && decide (o.layer ≤ n))).flatMap (·.succ))
  ((wheelOf s w).rnt.ops.filter (fun o => o.ctx == ctx && decide (n < o.layer))).filterMap (fun o =>
    let l := (upto o.slots.length).filter (fun k => slotKind o k == 0 && early.any (fun e =>
      bits e 31 29 == w && bits e 23 0 == o.opid && bits e 28 25 == k))
    if l.isEmpty then none else some (o.opid, l))

/-- Give a resumed pass its filled slots on a wheel, and open the instances that they open. -/
def giveSlots (s : State) (p : Plan) (ctx iter n w : Nat) : State :=
  let g := resumedSlots s p ctx n w
  rRun (onWheel s w (fun x => { x with rnt := { x.rnt with passes := x.rnt.passes.map (fun q =>
    if q.ctx == ctx && q.iter == iter then { q with given := g, toOpen := g.map (·.1) } else q) } })) w openGiven

/-- RESUME: the code. The table must place the part as it is loaded (R454). -/
def resumePlan (s : State) (ctx iter n top : Nat) : State × Nat :=
  match planOf s ctx with
  | none => (s, 0x090C)
  | some p =>
    match cmdRead s ctx top (tableBytes p.nmod) with
    | (s1, .error c) => (s1, c)
    | (s1, .ok t) =>
      let lw := (p.wmap.map (·.1)).foldl (fun m k => m + 2 ^ k) 0
      let h : Hdr := ⟨0, 0, p.planId, p.lmod, p.nmod, lw, 0, 0, 0, 0, 0⟩
      let open_ := iterOpens s1 p ctx
      if placementOf s1 h t ≠ some (p.wmap, p.nodes) then (s1, 0x0934)
      else if (layerOf p n).restart = false ∨ p.layers.length ≤ n ∨ open_.contains iter ∨ iterInWindow open_ iter = false
          ∨ (partWheels p).any (fun w => passesFull s1 w ctx) then (s1, 0x0939)
      else if (partWheels p).any (fun w => (wheelOf s1 w).svc == .out) then (s1, 0x0004)
      else if (partWheels p).any (fun w => (wheelOf s1 w).svc == .resetting) then (s1, 0x0001)
      else ((partWheels p).foldl (fun s w => giveSlots s p ctx iter n w) (openPass s1 ctx iter (n + 1) (some n)), 0)

/-! ## Restoring after a wheel reset (R466) -/

/-- The flow entries of a part's logical flows on a wheel, in the order of the records: those the context still holds. -/
def heldFlows (x : Wheel) (ctx : Nat) : List Nat := ctxFlows x ctx

/-- Restore one plan's part on a wheel from its image, hashed again; an altered image, or one that cannot be read, fails
the plan's flows on every wheel of the part (R466, R557). -/
def restorePlan (s : State) (ctx w : Nat) : State :=
  match planOf s ctx with
  | none => s
  | some p =>
    match logicalOf p w with
    | none => s
    | some lw =>
      match cmdRead s ctx p.image p.bytes with
      | (s1, .error c) => failCtx s1 ctx (if c = 0x0A01 then 0x0A01 else 0x0931)
      | (s1, .ok b) =>
        if sha512 b ≠ p.hash then failCtx (sealNote s1 (ctxOf s ctx).owner false true p.bytes) ctx 0x0931
        else
          let h := hdrOf b
          match sectionsOf b h with
          | .error _ => failCtx s1 ctx 0x0931
          | .ok ss =>
            let m : Img := ⟨b, h, ss, p.wmap, p.nodes⟩
            let s2 := onWheel s1 w (fun x => placePart m ctx lw w (heldFlows x ctx) x)
            sealNote s2 (ctxOf s ctx).owner false true p.bytes

/-- Restore every plan loaded on a wheel, and the migration entries (R466, R328, R575). -/
def restoreWheel (s : State) (w : Nat) : State :=
  let s1 := (s.ctxs.map (·.1)).foldl (fun s c => restorePlan s c w) s
  (s1.migs.filter (fun m => (readerWheels s1 m.ctx m.table).contains w)).foldl (fun s m =>
    onWheel s w (fun x => { x with mld := (mldMigrate x.mld (migrKey m.ctx m.table m.row) migrMask (BitVec.ofNat 64 m.copy)).1 })) s1

end Sys2Proof.Machine
end

