-- ==== Sys2Proof/WellFormed.lean ====
section
/-!
DEFINITION. Sys2Proof/WellFormed.lean: the commands that the module's interfaces can carry. The operands' types bound unit
numbers, contexts and fields; what is left are the lengths and alignments of accesses.
-/

namespace Sys2Proof

/-- A write to a submission slot lies in the 64 bytes of one slot (R524, R525). -/
def apertureForm (off n : Nat) : Bool := decide (off + n ≤ 64)

/-- An access to BAR4 lies in its 64 GiB (R516). -/
def bar4Access (off n : Nat) : Bool := decide (off + n ≤ 2 ^ 36)

/-- A register access lies in the 16 MiB of BAR0 and is aligned to its width (R516, R9). -/
def registerAccess (addr bytes : Nat) : Bool := decide (addr % bytes = 0) && decide (addr < 2 ^ 24)

/-- A private read returns at most 256 bytes (R637, R639). -/
def privateLength (words : Nat) : Bool := decide (1 ≤ words) && decide (words ≤ 64)

/-- The command can occur on the module's interfaces. -/
def Instr.wellFormed : Instr → Bool
  | .apertureWrite _ _ _ off bs => apertureForm off bs.length
  | .bar4Read _ off n => bar4Access off n
  | .bar4Write _ off bs => bar4Access off bs.length
  | .registerWrite _ addr _ width => registerAccess addr (if width = 0 then 4 else 8)
  | .lowWordRead _ addr => registerAccess addr.1 (if addr.2 then 8 else 4)
  | .privateRead n => privateLength n
  | _ => true

end Sys2Proof
end

