-- ==== Sys2Proof/Machine/Host.lean ====
section
/-!
DEFINITION. Sys2Proof/Machine/Host.lean: contexts and their commands' bookkeeping (R515, R524–R528), the apertures
(R525), opening, adoption and teardown (R523, R537–R542), the loss and reset of a port (R513, R537), the port registers
that act (R521, R531), BAR4 (R520), and the PCIe function's own requests (R627, R536).
-/

namespace Sys2Proof.Machine

/-! ## Command records (R524) -/

def cmdOp (h : HCmd) : Nat := leAt h.raw 0 1
def cmdP (h : HCmd) (k : Nat) : Nat := leAt h.raw (8 + 8 * k) 8
def cmdNocpl (h : HCmd) : Bool := bitAt (leAt h.raw 0 8) 8
def cmdFence (h : HCmd) : Bool := bitAt (leAt h.raw 0 8) 9
def cmdTimeout (h : HCmd) : Nat := leAt h.raw 4 4

/-- CANCEL and CLOSE start on acceptance and take no part in FENCE (R527). -/
def cmdEarly (h : HCmd) : Bool := cmdOp h == 0x06 || cmdOp h == 0x0E

/-- The commands of the module-wide order (R459, R636). -/
def cmdOrdered (h : HCmd) : Bool := [0x02, 0x03, 0x04, 0x0F, 0x10, 0x11].contains (cmdOp h)

def findCmd (s : State) (ctx seq : Nat) : Option HCmd := (ctxOf s ctx).cmds.find? (fun h => h.seq == seq)
def setCmd (s : State) (ctx : Nat) (h : HCmd) : State :=
  onCtx s ctx (fun x => { x with cmds := x.cmds.map (fun k => if k.seq == h.seq then h else k) })

/-- A COMMAND record; a code other than 0x0000 sets CMD_ERR (R533, R545). -/
def cmdOut (s : State) (ctx seq code d0 d1 opid : Nat) : State :=
  let x := ctxOf s ctx
  let s1 := if code = 0 ∨ x.gone ∨ x.st = .free then s else hostErr s x.owner 0x1 ctx code seq
  emitRec s1 ctx { kind := 0, code := code, seq := seq, opid := opid, d0 := d0, d1 := d1 }

/-- A command is taken when it starts, a SUBMIT when its operand is stored (R527). -/
def takeCmd (s : State) (ctx : Nat) (h : HCmd) : State :=
  if h.taken then s
  else onCtx s ctx (fun x => { x with taken := (x.taken + 1) % 2 ^ 32, cmds := x.cmds.map (fun k => if k.seq == h.seq then { k with taken := true } else k) })

/-- A command completes. NOCPL leaves out the record of a success, and the CLOSED event replaces that of a CLOSE. -/
def cmdDone (s : State) (ctx : Nat) (h : HCmd) (code d0 d1 opid : Nat) : State :=
  match findCmd s ctx h.seq with
  | none => s
  | some k =>
    let s1 := onCtx (takeCmd s ctx k) ctx (fun x => { x with cmds := x.cmds.filter (fun c => c.seq != h.seq) })
    if code = 0 ∧ (cmdNocpl h ∨ cmdOp h = 0x0E) then s1 else cmdOut s1 ctx h.seq code d0 d1 opid

/-! ## The apertures (R525, R526) -/

def findBuf (p : Port) (ctx slot : Nat) : Option RecBuf := p.bufs.find? (fun b => b.ctx == ctx && b.slot == slot)

/-- The bytes of word 0x38 that a write covers, as a mask. -/
def markMask (off n : Nat) : Nat := ((upto 8).filter (fun k => decide (off ≤ 56 + k) && decide (56 + k < off + n))).foldl (fun m k => m + 2 ^ k) 0

/-- Merge a write into a record. -/
def mergeBytes (bs : List Byte) (off : Nat) (d : List Byte) : List Byte := bs.take off ++ d ++ bs.drop (off + d.length)

/-- A write arrives at its slot's buffer, which it allocates where the slot has none; none while it cannot (R525). -/
def aperMerge (x : Port) (q : WaitWrite) : Option Port :=
  let b := (findBuf x q.ctx q.slot).getD ⟨q.ctx, q.slot, List.replicate 64 0, 0⟩
  if b.mask = 255 ∨ ((findBuf x q.ctx q.slot).isNone ∧ 512 ≤ x.bufs.length) then none
  else
    let b' := { b with bytes := mergeBytes b.bytes q.off q.bytes, mask := b.mask ||| markMask q.off q.bytes.length }
    some { x with bufs := x.bufs.filter (fun c => !(c.ctx == q.ctx && c.slot == q.slot)) ++ [b'] }

/-- The withheld writes arrive in their order, until one of them cannot. -/
def aperDrain : Nat → Port → Port
  | 0, x => x
  | n + 1, x =>
    match x.waits with
    | [] => x
    | q :: r =>
      match aperMerge x q with
      | none => x
      | some y => aperDrain n { y with waits := r }

/-- APERTURE_WRITE: the write arrives behind those that the port withholds. -/
def apertureWrite (s : State) (p ctx slot off : Nat) (d : List Byte) : State :=
  if !(portOf s p).up || d.isEmpty then s
  else onPort s p (fun x => aperDrain (x.waits.length + 1) { x with waits := x.waits ++ [⟨ctx, slot, off, d⟩] })

def execApertureWrite (port : Fin 2) (x : Fin 1024) (slot : Fin 1024) (off : Fin 64) (data : List Byte) (s : State) :
    Host.Outcome State Fault Refusal :=
  if apertureForm off data.length then .next (apertureWrite s port x slot off data) else .fault .malformed

/-- A record that is not accepted: counted, and answered where a code is given. -/
def turnAway (s : State) (p ctx seq k code : Nat) : State :=
  let s1 := hostBump s p k
  if code = 0 then s1 else cmdOut s1 ctx seq code 0 0 0

/-- COMMAND_RECORD: the fate of a complete record, by the first row of R526 that applies. A record for a context of this
port that is being torn down completes with 0x0906 (R540). -/
def commandRecord (s : State) (p ctx slot : Nat) : State :=
  match findBuf (portOf s p) ctx slot with
  | none => s
  | some b =>
    if b.mask ≠ 255 then s
    else
      let s0 := onPort s p (fun q =>
        aperDrain q.waits.length { q with bufs := q.bufs.filter (fun c => !(c.ctx == ctx && c.slot == slot)) })
      let x := ctxOf s0 ctx
      let seq := leAt b.bytes 0x3C 4
      let back := (x.nextSeq + 2 ^ 32 - seq) % 2 ^ 32
      if (x.st ≠ .openC ∧ x.st ≠ .closing) ∨ x.owner ≠ p then hostErr (hostBump s0 p 2) p 0x2 ctx 0 seq
      else if leAt b.bytes 0x38 1 ≠ 0xC5 then hostBump s0 p 2
      else if x.st = .closing then turnAway s0 p ctx seq 2 0x0906
      else if seq % 1024 ≠ slot then turnAway s0 p ctx seq 2 0x0901
      else if 1 ≤ back ∧ back ≤ 1024 then turnAway s0 p ctx seq 1 0x0902
      else if seq ≠ x.nextSeq then turnAway s0 p ctx seq 2 0x0903
      else if 64 ≤ (x.nextSeq + 2 ^ 32 - x.taken) % 2 ^ 32 then turnAway s0 p ctx seq 2 0x0904
      else
        let s1 := hostBump s0 p 0
        onCtx { s1 with order := s1.order + 1 } ctx (fun x =>
          { x with nextSeq := (x.nextSeq + 1) % 2 ^ 32, cmds := x.cmds ++ [{ seq := seq, raw := b.bytes, order := s1.order }] })

def execCommandRecord (port : Fin 2) (x : Fin 1024) (slot : Fin 1024) (s : State) : Host.Outcome State Fault Refusal :=
  .next (commandRecord s port x slot)

/-! ## Opening and adopting (R523, R538) -/

/-- HST_OPEN_IRQ is held as its difference from its reset value, 0x0001_0000. -/
def openIrq (p : Port) : Nat := regGet p.regs 0x05C ^^^ 0x10000

def setResult (s : State) (p code : Nat) : State := onPort s p (fun x => { x with regs := regSet x.regs 0x01C code })

/-- The staged ring is one that an open accepts. -/
def ringStaged (p : Port) : Bool :=
  let lg := regGet p.regs 0x058
  decide (6 ≤ lg) && decide (lg ≤ 16) && decide (regGet p.regs 0x050 % (32 * 2 ^ lg) = 0)

def openCtx (s : State) (p ctx : Nat) : State :=
  let x := portOf s p
  if (ctxOf s ctx).st ≠ .free ∨ bitAt x.accept 0 = false ∨ ringStaged x = false then setResult s p 0x090A
  else
    setResult (setCtx s ctx { st := .openC, owner := p, base := regGet x.regs 0x050, log2 := regGet x.regs 0x058, irq := openIrq x }) p 0

def execOpenContext (port : Fin 2) (x : Fin 1024) (s : State) : Host.Outcome State Fault Refusal := .next (openCtx s port x)

/-- The culture enables adoption. -/
def adoptOn (s : State) : Bool := s.adoptMs != 0

/-- ADOPT (R538): the ring is checked as an open checks it. -/
def adoptCtx (s : State) (p ctx : Nat) : State :=
  let x := portOf s p
  let c := ctxOf s ctx
  let feat := match c.plan with
    | some pl => pl.features
    | none => 0
  if c.st ≠ .orphaned ∨ adoptOn s = false ∨ bitAt x.accept 0 = false ∨ bitAt x.accept 1 = false
      ∨ feat &&& x.accept ≠ feat ∨ ringStaged x = false then setResult s p 0x090B
  else
    let lost := c.owner
    let s1 := setCtx s ctx { c with st := .openC, owner := p, base := regGet x.regs 0x050, log2 := regGet x.regs 0x058
                                    irq := openIrq x, head := 0, tail := 0, since := 0 }
    let s2 := flushRing s1 ctx
    let s3 := emitRec s2 ctx { kind := 5, code := 0x0911, d0 := c.taken * 2 ^ 32 + c.nextSeq }
    let s4 := { s3 with assign := s3.assign.map (fun a => if a == lost then 2 else a) }
    setResult (hostErr s4 p 0x20 ctx 0 0) p 0

def execAdopt (port : Fin 2) (x : Fin 1024) (s : State) : Host.Outcome State Fault Refusal := .next (adoptCtx s port x)

/-! ## Teardown (R540) -/

/-- Step 1 to 3: records not taken complete with 0x0906, flows are cancelled, and nothing new is issued: streams and drips
that have not begun end here, and STREAM_CANCEL ends those that run. -/
def beginTeardown (s : State) (ctx seq : Nat) (gone : Bool) : State :=
  let x := ctxOf s ctx
  if x.st = .free ∨ x.st = .closing then (if gone then onCtx s ctx (fun x => if x.st = .closing then { x with gone := true } else x) else s)
  else
    let s1 := onCtx s ctx (fun x => { x with st := .closing, gone := gone || x.gone, closeSeq := seq })
    let waits := x.cmds.filter (fun h => !h.taken && !(cmdEarly h))
    let s2 := waits.foldl (fun s h => cmdDone s ctx h 0x0906 0 0 0) s1
    let s3 := stopCtx (cancelCtx s2 ctx) ctx (fun _ _ => true)
    (upto 8).foldl (fun s w =>
      let y := (wheelOf s w).whey
      let mine := fun (o : Owner) => match o with
        | .cmd c _ => c == ctx
        | .inst _ => false
      if y.arms.any (fun a => mine a.1) || y.drips.any (fun d => mine d.own) then
        onWhey s w (fun y => { y with
          arms := y.arms.filter (fun a => !(mine a.1)), drips := y.drips.filter (fun d => !(mine d.own))
          dones := y.dones ++ (y.arms.filter (fun a => mine a.1)).map (fun a => ⟨a.2.1, a.1, 0x0701, 0, 0, 0⟩)
            ++ (y.drips.filter (fun d => mine d.own)).map (fun d => ⟨0xFF, d.own, 0x0701, 0, 0, 0⟩) })
      else s) s3

/-- The private pages reached from a table (R566): leaf entries with V and PRIV, as physical address and bytes. -/
def privatePages (s : State) : Nat → Nat → Nat → Nat → List (Nat × Nat)
  | 0, _, _, _ => []
  | f + 1, level, t, n =>
    if backed s t (8 * n) = false ∨ (wheelOf s (paWheel t)).svc = .out then []
    else
      let bs := rdMem 0 (wheelOf s (paWheel t)).mem.cells (paOff t) (8 * n)
      (upto n).flatMap (fun k =>
        let e := leAt bs (8 * k) 8
        let a := bits e 39 8 * 256
        if bitAt e 0 = false ∨ bits e 63 40 ≠ 0 ∨ bits e 7 5 ≠ 0 then []
        else if bitAt e 1 then (if level ≠ 0 ∧ bitAt e 4 then [(a, pageSize level)] else [])
        else if level < 3 ∧ bits e 4 2 = 0 then privatePages s f (level + 1) a (if level = 2 then 32 else 512)
        else [])

/-- The private pages of a context. -/
def ctxPages (s : State) (ctx : Nat) : List (Nat × Nat) :=
  match (ctxOf s ctx).root with
  | some (t, rb) => privatePages s 4 0 t (2 ^ rb)
  | none => []

/-- Wash a page, or mark its wheel UNWASHED when its memory is out of service (R566, R594). -/
def washPage (s : State) (p : Nat × Nat) : State :=
  let w := paWheel p.1
  if (wheelOf s w).svc = .out then
    { onWheel s w (fun x => onMem x (fun m => { m with unwashed := true })) with unwashedFlash := insertNat w s.unwashedFlash }
  else onWheel s w (fun x => onMem x (fun m => memWash m (paOff p.1) p.2))

/-- Wash Cave bytes (R565). -/
def caveWash (x : Wheel) (a n : Nat) : Wheel :=
  { x with cave := x.cave.filter (fun c => !(decide (a ≤ c.1) && decide (c.1 < a + n)))
           caveBad := x.caveBad.filter (fun c => !(decide (a ≤ c.1 * 8) && decide (c.1 * 8 < a + n))) }

/-- A closed context becomes FREE once its records are written or cannot be (R540 steps 8 and 9). -/
def freeCtx (s : State) (ctx : Nat) : State :=
  let x := ctxOf s ctx
  if x.st = .closing ∧ x.closed ∧ (x.held.isEmpty ∨ x.gone ∨ portReach s x.owner = false) then setCtx s ctx {} else s

/-- Steps 6 to 9, once everything of the context has come to rest. -/
def endTeardown (s : State) (ctx : Nat) : State :=
  let x := ctxOf s ctx
  if x.st ≠ .closing then s
  else if x.closed then freeCtx s ctx
  else if ctxQuiet s ctx = false then stopCtx s ctx (fun _ _ => true)
  else if (ctxPages s ctx).any (fun p => (wheelOf s (paWheel p.1)).svc == .resetting) then s
  -- context teardown sweeps the live shares and the held ranges of the context (R277, R288)
  else if !(ctxSwept s ctx [0, 4]) then sweepAway s ctx [0, 4]
  else
    let caves := match x.plan with
      | some p => p.caveR
      | none => []
    let s1 := unloadEnd s ctx
    let s2 := caves.foldl (fun s r => onWheel s r.1 (fun y => caveWash y r.2.1 r.2.2)) s1
    let s3 := (ctxPages s2 ctx).foldl washPage s2
    let s4 := (ctxOf s3 ctx).cmds.foldl (fun s h => if cmdOp h = 0x0E then cmdDone s ctx h 0 0 0 0 else cmdDone s ctx h 0x0701 0 0 0) s3
    let s6 := if x.gone then s4 else emitRec s4 ctx { kind := 5, code := 0x0910, seq := x.closeSeq }
    freeCtx (onCtx s6 ctx (fun x => { x with closed := true })) ctx

/-- Tear a context down, as far as its work lets it end at once. -/
def teardown (s : State) (ctx seq : Nat) (gone : Bool) : State := endTeardown (beginTeardown s ctx seq gone) ctx

/-- CTX_CTRL_CLOSE: of an OPEN context that the port owns. A repetition carries on a teardown that has not ended. -/
def ctrlClose (s : State) (p ctx : Nat) : State :=
  let x := ctxOf s ctx
  if x.st = .free ∨ x.owner ≠ p then s
  else if x.st = .openC then teardown s ctx 0 false
  else endTeardown s ctx

def execCtxCtrlClose (port : Fin 2) (x : Fin 1024) (s : State) : Host.Outcome State Fault Refusal := .next (ctrlClose s port x)

/-! ## Loss and reset of a port (R513, R537, R539) -/

/-- The contexts that a port owns, rising. -/
def ownedBy (s : State) (p : Nat) : List Nat :=
  (s.ctxs.foldl (fun l c => insertNat c.1 l) []).filter (fun c => (ctxOf s c).st != .free && (ctxOf s c).owner == p)

/-- The RW registers of the port window. -/
def portRw (o : Nat) : Bool := o == 0x050 || o == 0x058 || o == 0x05C || o == 0x060 || (decide (0x080 ≤ o) && decide (o < 0x100))

/-- The function's registers return to their reset values; statistics and error indications stay. PRESUMED: as PCIe
defines it, the vectors are masked again, and ATS and PRI are disabled. -/
def resetFunction (s : State) (p : Nat) : State :=
  onPort s p (fun x => { x with accept := 0, regs := x.regs.filter (fun r => !(portRw r.1)), bufs := [], waits := [], msix := [], unmasked := []
                                pba := [], ats := false, pri := false, latch := [] })

/-- The SPDM state of a port is reset (R662). -/
def resetSpdm (s : State) (p : Nat) : State := { s with sea := { s.sea with spdm := tset {} s.sea.spdm p {} } }

/-- FLR and D3hot: every context the port owns is torn down without adoption. PRESUMED (log 11): the function may not write
host memory until it is enabled again, so that no 0x0910 record follows. -/
def portReset (s : State) (p : Nat) : State :=
  (ownedBy s p).foldl (fun s c => teardown s c 0 true) (resetFunction s p)

def execFlr (port : Fin 2) (s : State) : Host.Outcome State Fault Refusal := .next (portReset (resetSpdm s port) port)
def execD3hotEntry (port : Fin 2) (s : State) : Host.Outcome State Fault Refusal := .next (portReset s port)

/-- PORT_LOSS: the port's contexts are torn down, or become ORPHANED. -/
def portLoss (s : State) (p : Nat) : State :=
  if !(portOf s p).up then s
  else
    let cs := ownedBy s p
    let s1 := onPort (resetFunction s p) p (fun x => { x with up := false, lost := true })
    let s2 := cs.foldl (fun s c =>
      if adoptOn s && (ctxOf s c).st == .openC then onCtx s c (fun x => { x with st := .orphaned, stall := false })
      else teardown s c 0 true) s1
    hostErr s2 (1 - p) 0x10 0 0 0

def execPortLoss (port : Fin 2) (s : State) : Host.Outcome State Fault Refusal := .next (portLoss s port)

/-- ADOPT_EXPIRY: the held records are discarded. -/
def adoptExpiry (s : State) (ctx : Nat) : State :=
  if (ctxOf s ctx).st = .orphaned then teardown (onCtx s ctx (fun x => { x with held := [] })) ctx 0 true else s

def execAdoptExpiry (x : Fin 1024) (s : State) : Host.Outcome State Fault Refusal := .next (adoptExpiry s x)

/-- PERST_ASSERT (R644): the port is reset, and one that owned contexts is lost. -/
def perstAssert (s : State) (p : Nat) : State :=
  let s1 := if (ownedBy s p).isEmpty then s else portLoss s p
  onPort (resetSpdm (resetFunction s1 p) p) p (fun x => { x with up := false, perst := true })

def execPerstAssert (port : Fin 2) (s : State) : Host.Outcome State Fault Refusal := .next (perstAssert s port)

/-- The module has power and has reached step 2 of its start (R626, R627). -/
def linksAlive (s : State) : Bool := decide (2 ≤ s.cul.step) && !s.pwr.off

/-- PERST_DEASSERT: the port trains its link, at once or when the start reaches step 2. -/
def perstDeassert (s : State) (p : Nat) : State :=
  onPort s p (fun x => { x with perst := false, up := x.up || linksAlive s, lost := x.lost && !(linksAlive s) })

def execPerstDeassert (port : Fin 2) (s : State) : Host.Outcome State Fault Refusal := .next (perstDeassert s port)

/-- PCIE_LINK_UP: a lost port's link returns. -/
def linkUp (s : State) (p : Nat) : State :=
  if (portOf s p).perst ∨ linksAlive s = false then s else onPort s p (fun x => { x with up := true, lost := false })

def execPcieLinkUp (port : Fin 2) (s : State) : Host.Outcome State Fault Refusal := .next (linkUp s port)

/-- CONFIGURATION_REQUEST: retried until step 7 has completed, served after it. A write to the ATS and PRI capabilities
sets their enables. `rdCode` 3 is Configuration Request Retry Status. -/
def configRequest (s : State) (p : Nat) (wr ats pri : Bool) : State :=
  if !(portOf s p).up then s
  else if s.cul.step < 8 ∧ s.recovery = false then { s with rdCode := 3 }
  else
    let s1 := { s with rdCode := 0 }
    if wr then onPort s1 p (fun x => { x with ats := ats, pri := pri }) else s1

def execConfigurationRequest (port : Fin 2) (wr ats pri : Bool) (s : State) : Host.Outcome State Fault Refusal :=
  .next (configRequest s port wr ats pri)

/-! ## Registers of the port that act (R521, R531, R536) -/

/-- A write to one half of HST_FEAT_ACCEPT. -/
def featAccept (s : State) (p half word : Nat) : State :=
  let x := portOf s p
  if !(ownedBy s p).isEmpty then hostErr s p 0x4 0 0 0
  else
    let v := if half = 0 then x.accept / 2 ^ 64 * 2 ^ 64 + word else word * 2 ^ 64 + x.accept % 2 ^ 64
    let s1 := onPort s p (fun x => { x with accept := v &&& s.offer })
    if v &&& s.offer = v then s1 else hostErr s1 p 0x4 0 0 0

def execFeatAcceptWrite (port : Fin 2) (half : Fin 2) (word : DWord) (s : State) : Host.Outcome State Fault Refusal :=
  .next (featAccept s port half word.toNat)

/-- A write to RING_HEAD: the records that now have room are written, and what a full store held goes on. -/
def ringHead (s : State) (p ctx word : Nat) : State :=
  let x := ctxOf s ctx
  if x.st = .free ∨ x.owner ≠ p ∨ 2 ^ x.log2 < (x.tail + 2 ^ 32 - word % 2 ^ 32) % 2 ^ 32 then s
  else freeCtx (retryReleases (flushRing (onCtx s ctx (fun x => { x with head := word % 2 ^ 32 })) ctx) ctx) ctx

def execRingHeadWrite (port : Fin 2) (x : Fin 1024) (word : Word) (s : State) : Host.Outcome State Fault Refusal :=
  .next (ringHead s port x word.toNat)

/-- MSIX_UNMASK: a pending vector's message is sent. -/
def msixUnmask (s : State) (p v : Nat) : State :=
  let s1 := onPort s p (fun x => { x with unmasked := insertNat v x.unmasked })
  if (portOf s p).pba.contains v && (portOf s p).up then
    msixSend (onPort s1 p (fun x => { x with pba := x.pba.filter (· ≠ v) })) p v
  else s1

def execMsixUnmask (port : Fin 2) (v : Fin 2048) (s : State) : Host.Outcome State Fault Refusal := .next (msixUnmask s port v)

/-! ## BAR4 (R520, R557, R628) -/

/-- The device physical address of a BAR4 offset, where the access is not refused. -/
def bar4Addr (s : State) (p off n : Nat) : Option Nat :=
  let r := regGet (portOf s p).regs (0x080 + 8 * (off / 2 ^ 32))
  let pa := bits r 7 0 * 2 ^ 32 + off % 2 ^ 32
  let w := paWheel pa
  if bitAt r 63 && backed s pa n && wheelVisible s p w && (wheelOf s w).svc == .inService && (wheelOf s w).mem.st == 0
      && !s.sea.busy then some pa
  else none

def bar4Abort (s : State) (p : Nat) : State := hostErr (hostBump s p 5) p 0x8 0 0 0

/-- The requests of an access to BAR4: one for each 4 KiB page that it touches, as PCIe splits them. -/
def bar4Split : Nat → Nat → Nat → List (Nat × Nat)
  | 0, _, _ => []
  | k + 1, off, n => if n = 0 then [] else (off, min n (4096 - off % 4096)) :: bar4Split k (off + min n (4096 - off % 4096)) (n - min n (4096 - off % 4096))

/-- One read request: the bytes join those read, and how it completed: 0 successfully, 1 with Completer Abort, 2 with
poisoned data. The first request that does not complete successfully tells how the access did. -/
def bar4ReadOne (s : State) (p off n : Nat) : State :=
  let code := fun (s : State) (c : Nat) => if s.rdCode = 0 then c else s.rdCode
  match bar4Addr s p off n with
  | none => { bar4Abort s p with rdCode := code s 1 }
  | some pa =>
    let w := paWheel pa
    let (m, bs, c) := memRead s.now w (wheelOf s w).mem (paOff pa) n
    { onWheel s w (fun x => { x with mem := m }) with rdBytes := s.rdBytes ++ bs, rdCode := code s (if c = 0 then 0 else 2) }

def bar4Read (s : State) (p off n : Nat) : State :=
  if !(portOf s p).up then s
  else (bar4Split (n / 4096 + 2) off n).foldl (fun s q => bar4ReadOne s p q.1 q.2) { s with rdBytes := [], rdCode := 0 }

def execBar4Read (port : Fin 2) (off n : Nat) (s : State) : Host.Outcome State Fault Refusal :=
  if bar4Access off n then .next (bar4Read s port off n) else .fault .malformed

/-- One write request: posted, and discarded where it is refused. -/
def bar4WriteOne (s : State) (p off : Nat) (d : List Byte) : State :=
  match bar4Addr s p off d.length with
  | none => bar4Abort s p
  | some pa => onWheel s (paWheel pa) (fun x => { x with mem := (memWrite s.now (paWheel pa) x.mem (paOff pa) d).1 })

def bar4Write (s : State) (p off : Nat) (d : List Byte) : State :=
  if !(portOf s p).up then s
  else (bar4Split (d.length / 4096 + 2) off d.length).foldl
    (fun s q => bar4WriteOne s p q.1 ((d.drop (q.1 - off)).take q.2)) s

def execBar4Write (port : Fin 2) (off : Nat) (data : List Byte) (s : State) : Host.Outcome State Fault Refusal :=
  if bar4Access off data.length then .next (bar4Write s port off data) else .fault .malformed

end Sys2Proof.Machine
end

