-- ==== Sys2Proof/Machine/Window.lean ====
section
/-!
DEFINITION. Sys2Proof/Machine/Window.lean: the register map of BAR0 (R517–R519) and what every register reads as, with the
clock periods and reset counts that some of them show; and the content of trier samples (R585, R586), which holds register
images.
-/

namespace Sys2Proof.Machine

/-! ## Clock periods (R604–R607) -/

def clkOf (s : State) (d : Nat) : Clk := tget {} s.clks d

/-- The adaptive domains, and all domains of a die (R604). -/
def islands : Nat := 239
def domains : Nat := 247

/-- The target period at CAP sixteenths of the nominal clock, in whole steps (R606, R607). -/
def targetPeriod (c : Clk) : Nat := cdiv 256 c.cap

/-- An island's period: what the supply needs, not below the target and at most twice the nominal period. -/
def islandPeriod (c : Clk) (k : Nat) : Nat :=
  if k < islands then max (targetPeriod c) (min 32 (tget 0 c.need k)) else 16

def longestPeriod (c : Clk) (k : Nat) : Nat :=
  if k < islands then max (max c.maxTarget (tget 0 c.maxp k)) (islandPeriod c k) else 16

/-! ## Reset counts (R596) -/

/-- RESET_LIMIT and RESET_WINDOW in minutes (R596, R602). -/
def resetLimit (s : State) : Nat := regGet s.rst.regs 0x008 % 16
def resetWindow (s : State) : Nat := bits (regGet s.rst.regs 0x008) 31 16

/-- The wheel resets of a wheel within the window. -/
def resetCount (s : State) (w : Nat) : Nat :=
  ((tget [] s.rst.starts w).filter (fun t => decide (s.now ≤ t + resetWindow s * 600000))).length

/-! ## The words of a trier sample (R585, R586) -/

/-- A sample of no instance. -/
def bareSample (level cls wheel die engine cause : Nat) : TSample :=
  { level := level, cls := cls, wheel := wheel, die := die, engine := engine, cause := cause }

/-- The section types of a level (R586). -/
def sampleSections (level : Nat) : List Nat :=
  match level with
  | 0 => [2, 3, 4, 5, 6, 7, 8]
  | 1 => [1, 2, 3, 4, 6, 7, 8]
  | 2 => [1, 2, 3, 4, 5, 6, 7, 8, 9]
  | _ => [1, 2, 3, 4, 5, 6, 7, 8, 9, 10]

/-- The length of a section: R586 sizes the entries of REGS, HOOPS and SLOTS. -/
def secBytes (t : TSec) : Nat :=
  match t.type with
  | 1 => 256 * t.entries.length
  | 2 => 16 * t.entries.length
  | 3 => 16 * t.entries.length
  | _ => 8 * Config.sectionWords t.type t.entries

/-- Word k of a section: REGS holds images of the windows; the places of the fields in the other entries are open. -/
def secWord (t : TSec) (k : Nat) : Nat :=
  if t.type = 1 then
    let e := nth [] t.entries (k / 32)
    nth 0 e (2 * (k % 32)) % 2 ^ 32 + nth 0 e (2 * (k % 32) + 1) % 2 ^ 32 * 2 ^ 32
  else (Config.sectionWord t.type t.entries k).toNat

def slotBytes : Nat := 262144

/-- Each section from an offset on, with its offset and the bytes of it that fit in the slot. -/
def secPlaces : Nat → List TSec → List (TSec × Nat × Nat)
  | _, [] => []
  | o, t :: r => (t, o, min (secBytes t) (slotBytes - o)) :: secPlaces (min slotBytes (o + secBytes t)) r

/-- The length that a sample would have without the limit of the slot. -/
def sampleBytes (t : TSample) : Nat := 64 + 16 * t.secs.length + t.secs.foldl (fun n e => n + secBytes e) 0

/-- Word k of a sample: the header, the section entries, then the sections. -/
def sampleWord (t : TSample) (k : Nat) : Nat :=
  let places := secPlaces (64 + 16 * t.secs.length) t.secs
  match k with
  | 0 => 2 ^ 60 + t.level % 8 * 2 ^ 57 + t.cls % 16 * 2 ^ 53 + t.wheel % 8 * 2 ^ 50 + t.die % 2 * 2 ^ 49 + t.engine % 128 * 2 ^ 42
      + b2n t.pinned * 2 ^ 41 + b2n (decide (slotBytes < sampleBytes t)) * 2 ^ 40 + t.cause % 2 ^ 16 * 2 ^ 16 + t.secs.length
  | 1 => t.time % 2 ^ 64
  | 2 => t.flow % 2 ^ 14 * 2 ^ 16 + b2n t.ctx.isSome * 2 ^ 10 + t.ctx.getD 0 % 1024
  | 3 => t.iter % 2 ^ 16 * 2 ^ 32 + t.opid % 2 ^ 24
  | 4 => min slotBytes (sampleBytes t)
  | 5 => 0
  | 6 => 0
  | 7 => 0
  | _ =>
    let j := k - 8
    match (if j < 2 * places.length then places[j / 2]? else none) with
    | some (e, o, n) =>
      if j % 2 = 0 then o * 2 ^ 32 + e.entries.length % 2 ^ 16 * 2 ^ 16 + e.type
      else b2n (decide (n < secBytes e)) * 2 ^ 32 + n
    | none => match places.find? (fun p => decide (p.2.1 ≤ 8 * k) && decide (8 * k < p.2.1 + p.2.2)) with
      | some (e, o, _) => secWord e (k - o / 8)
      | none => (Config.trierWord t.seed k).toNat

/-! ## The map (R517, R518) -/

/-- A window of BAR0: its block, with wheel or die and unit. -/
inductive BarWin where
  | none
  | port
  | msix
  | pba
  | rst
  | cul
  | ctx (c : Nat)
  | pwr
  | vat (w v : Nat)
  | press (w p : Nat)
  | ladle (w l : Nat)
  | ladleWheel (w : Nat)
  | grader (w g : Nat)
  | mld (w : Nat)
  | whey (w : Nat)
  | rnt (w : Nat)
  | chan (w c : Nat)
  | mem (w : Nat)
  | rstWheel (w : Nat)
  | crm (d : Nat)
  | clk (d : Nat)
  | sea (d : Nat)
  deriving DecidableEq, Repr

/-- The window of an offset of a wheel's region, and the offset within the window. -/
def wheelWin (w o : Nat) : BarWin × Nat :=
  if o < 0x2000 then (.vat w (o / 256), o % 256)
  else if o < 0x2C00 then (.press w ((o - 0x2000) / 256), o % 256)
  else if o < 0x3000 then (.none, 0)
  else if o < 0x3800 then (.ladle w ((o - 0x3000) / 256), o % 256)
  else if o < 0x3900 then (.ladleWheel w, o % 256)
  else if o < 0x4000 then (.none, 0)
  else if o < 0x4400 then (.grader w ((o - 0x4000) / 256), o % 256)
  else if o < 0x5000 then (.none, 0)
  else if o < 0x5100 then (.mld w, o % 256)
  else if o < 0x6000 then (.none, 0)
  else if o < 0x6100 then (.whey w, o % 256)
  else if o < 0x7000 then (.none, 0)
  else if o < 0x7100 then (.rnt w, o % 256)
  else if o < 0x8000 then (.none, 0)
  else if o < 0xA000 then (.chan w ((o - 0x8000) / 64), o % 64)
  else if o < 0xB000 then (.mem w, o % 4096)
  else if o < 0xC000 then (.rstWheel w, o % 4096)
  else (.none, 0)

/-- The window of an offset of a die's region. -/
def dieWin (d o : Nat) : BarWin × Nat :=
  if o < 0x1000 then (.crm d, o)
  else if o < 0x2000 then (.clk d, o - 0x1000)
  else if o < 0x3000 then (.sea d, o - 0x2000)
  else (.none, 0)

/-- The window of an offset of BAR0, and the offset within it. -/
def windowOf (a : Nat) : BarWin × Nat :=
  if a < 0x1000 then (.port, a)
  else if a < 0x10000 then (.none, 0)
  else if a < 0x18000 then (.msix, a - 0x10000)
  else if a < 0x18100 then (.pba, a - 0x18000)
  else if a < 0x20000 then (.none, 0)
  else if a < 0x30000 then (.rst, a - 0x20000)
  else if a < 0x40000 then (.cul, a - 0x30000)
  else if a < 0x50000 then (.ctx ((a - 0x40000) / 64), a % 64)
  else if a < 0x60000 then (.pwr, a - 0x50000)
  else if a < 0x100000 then (.none, 0)
  else if a < 0x180000 then wheelWin ((a - 0x100000) / 0x10000) (a % 0x10000)
  else if a < 0x200000 then (.none, 0)
  else if a < 0x220000 then dieWin ((a - 0x200000) / 0x10000) (a % 0x10000)
  else (.none, 0)

/-- The wheel whose region a window lies in. -/
def winWheel : BarWin → Option Nat
  | .vat w _ => some w
  | .press w _ => some w
  | .ladle w _ => some w
  | .ladleWheel w => some w
  | .grader w _ => some w
  | .mld w => some w
  | .whey w => some w
  | .rnt w => some w
  | .chan w _ => some w
  | .mem w => some w
  | .rstWheel w => some w
  | _ => none

/-- What a port sees (R519): regions of wheels assigned to it or shared, registers of contexts it owns, and all else. -/
def winVisible (s : State) (p : Nat) (x : BarWin) : Bool :=
  match x with
  | .ctx c => (ctxOf s c).st != .free && (ctxOf s c).owner == p
  | _ => match winWheel x with
    | some w => wheelVisible s p w
    | none => true

/-- BAR0 can be reached through a port: its link is up and the start has reached step 7, or recovery mode (R628, R633). -/
def bar0Open (s : State) (p : Nat) : Bool := (portOf s p).up && !s.pwr.off && (decide (7 ≤ s.cul.step) || s.recovery)

/-- An offset within a window is that of a 64-bit register. -/
def winWide (x : BarWin) (o : Nat) : Bool :=
  let upTo := fun (hi : Nat) => decide (0x40 ≤ o) && decide (o ≤ hi)
  match x with
  | .port => (decide (0x28 ≤ o) && decide (o ≤ 0x50)) || (decide (0x80 ≤ o) && decide (o ≤ 0x128))
  | .ctx _ => o == 0x08
  | .rst => o == 0x28 || upTo 0x78
  | .cul => o == 0x28 || upTo 0x50
  | .pwr => upTo 0x50
  | .vat _ _ => upTo 0x78
  | .press _ _ => upTo 0xA0
  | .ladle _ _ => upTo 0x80
  | .ladleWheel _ => upTo 0x48
  | .grader _ _ => upTo 0x78
  | .mld _ => upTo 0xB0
  | .whey _ => upTo 0x80
  | .rnt _ => o == 0x30 || upTo 0x78
  | .chan _ _ => decide (0x08 ≤ o) && decide (o ≤ 0x30)
  | .mem _ => o == 0x28 || o == 0x30 || upTo 0x68
  | .crm _ => o == 0x30 || upTo 0x80
  | .clk _ => upTo 0x60
  | .sea _ => upTo 0x58
  | _ => false

/-! ## What the registers read as -/

/-- The identity of a unit of a wheel: revision, die, wheel, unit. -/
def unitIdent (w u : Nat) : Nat := 0xB0 * 2 ^ 24 + w / 4 * 2 ^ 8 + w % 8 * 2 ^ 5 + u
def dieIdent (d : Nat) : Nat := 0xB0 * 2 ^ 24 + d * 2 ^ 8

/-- The state code of a block that is 0 RUN, 1 FENCED, 2 OUT_OF_SERVICE. -/
def svcCode (x : Wheel) : Nat := match x.svc with
  | .inService => 0
  | .resetting => 1
  | .out => 2

/-- An error, counter or plain register at its offset. -/
def plainReg (r : Regs) (o : Nat) : Nat := regGet r o

def opFlow (op : Option OpRef) : Nat := match op with
  | some p => p.flow % 2 ^ 14
  | none => 0

/-- An own transfer of the bundle in issue has not taken effect yet: VLD, VST, VLDXB, VLDXE, MSTO or MSTP (R117, R149). -/
def inXfer (t : Vat) : Bool :=
  match t.issue with
  | some i => !(i.done.contains 3) && [0x01, 0x02, 0x03, 0x04, 0x10, 0x11].contains (slOp (bundleSlot (tget 0 t.istore t.prog.pc) 3))
  | none => false

def vatStCode (x : Wheel) (t : Vat) : Nat :=
  match x.svc with
  | .out => 7
  | .resetting => 6
  | .inService => match t.st with
    | .idle => 0
    | .run => if inXfer t then 3 else 1
    | .handleWait => 2
    | .save => 4
    | .restore => 5
    | .fenced => 6
    | .outOfService => 7

/-- VAT_ registers (R129–R134). -/
def vatReg (x : Wheel) (w v o : Nat) : Nat :=
  let t := vatOf x v
  match o with
  | 0x000 => unitIdent w v
  | 0x004 => (if t.st = .idle then 0 else opFlow t.op) * 2 ^ 16 + t.saved.length % 4 * 2 ^ 12 + vatStCode x t
  | 0x008 => x.yieldWait % 2 ^ 12 * 2 ^ 16 + x.saveSlots % 4
  | 0x014 => 0
  | _ => plainReg t.regs o

/-- The state code of an engine: its own one where its wheel is in service; FENCED is `f`, and OUT_OF_SERVICE follows. -/
def engCode (x : Wheel) (e : Eng) (f : Nat) (own : EngSt → Nat) : Nat :=
  match x.svc with
  | .out => f + 1
  | .resetting => f
  | .inService => if e.st = .fenced then f else if e.st = .outOfService then f + 1 else own e.st

/-- PRS_ registers (R216–R220). -/
def pressReg (x : Wheel) (w p o : Nat) : Nat :=
  let e := pressOf x p
  match o with
  | 0x000 => unitIdent w p
  | 0x004 => (if e.st = .idle then 0 else opFlow e.op) * 2 ^ 16 + e.col % 16 * 2 ^ 4 + engCode x e 6 (fun s => match s with
      | .idle => 0
      | .check => 1
      | .inWait => 3
      | .outWait => 4
      | .drain => 5
      | _ => 2)
  | _ => plainReg e.regs o

/-- LDL_ registers of a ladle (R340–R344). The mode is that of the descriptor read. -/
def ladleReg (x : Wheel) (w l o : Nat) : Nat :=
  let e := ladleOf x l
  match o with
  | 0x000 => unitIdent w l
  | 0x004 => (if e.st = .idle then 0 else opFlow e.op * 2 ^ 16 + lhMode e.desc * 2 ^ 4) + engCode x e 6 (fun s => match s with
      | .idle => 0
      | .inWait => 2
      | .outWait => 3
      | .rowWait => 4
      | .drain => 5
      | _ => 1)
  | _ => plainReg e.regs o

/-- The LDL_ wheel window (R345). -/
def ladleWheelReg (x : Wheel) (o : Nat) : Nat :=
  match o with
  | 0x004 => x.ldl.sampleCtx % 1024
  | 0x008 => b2n x.ldl.stopped * 2 ^ 31 + x.ldl.migrated % 2 ^ 12
  | 0x048 => match x.ldl.samples with
    | [] => 0
    | p :: _ => 2 ^ 63 + p.table * 2 ^ 47 + p.row % 2 ^ 40
  | _ => plainReg x.ldl.regs o

/-- GRD_ registers (R372–R376). -/
def graderReg (x : Wheel) (w g o : Nat) : Nat :=
  let e := graderOf x g
  match o with
  | 0x000 => unitIdent w g
  | 0x004 => (if e.st = .idle then 0 else opFlow e.op * 2 ^ 16 + bits (leAt e.desc 0 8) 59 56 * 2 ^ 4) + engCode x e 7 (fun s => match s with
      | .idle => 0
      | .inWait => 4
      | .outWait => 5
      | .drain => 6
      | _ => match e.fin with
        | some f => if f.code = 0 then 3 else 6
        | none => 1)
  | _ => plainReg e.regs o

/-- The valid entries of a share. -/
def shareCount (m : Mould) (share : Nat) : Nat := (m.entries.filter (fun e => e.2.valid && shareOf m e.1 == share)).length

/-- MLD_ registers (R293–R298). -/
def mldReg (x : Wheel) (w o : Nat) : Nat :=
  let m := x.mld
  match o with
  | 0x000 => unitIdent w 0
  | 0x004 => m.scrub % 2 ^ 11 * 2 ^ 16 + b2n (!m.sweeps.isEmpty) * 2 ^ 5 + b2n (!m.upds.isEmpty) * 2 ^ 4 + svcCode x
  | 0x008 => shareSize m 1 % 2 ^ 12 * 2 ^ 16 + shareSize m 0 % 2 ^ 12
  | 0x014 => shareSize m 3 % 2 ^ 12 * 2 ^ 16 + shareSize m 2 % 2 ^ 12
  | 0x018 => shareSize m 4 % 2 ^ 12
  | 0x024 => shareCount m 1 % 2 ^ 12 * 2 ^ 16 + shareCount m 0 % 2 ^ 12
  | 0x028 => shareCount m 3 % 2 ^ 12 * 2 ^ 16 + shareCount m 2 % 2 ^ 12
  | 0x02C => shareCount m 4 % 2 ^ 12
  | _ => plainReg m.regs o

/-- WHY_ registers of the whey window (R408–R410). -/
def wheyReg (x : Wheel) (w o : Nat) : Nat :=
  let y := x.whey
  match o with
  | 0x000 => unitIdent w 0
  | 0x004 => walksNow x % 256 * 2 ^ 24 + (y.chans.filter (fun c => c.2.st != .idle)).length % 256 * 2 ^ 12 + y.st % 16
  | 0x018 => y.hoopSel % 1024
  | 0x01C => let h := hoopOf x (y.hoopSel % 1024)
    h.q.length % 2 ^ 11 * 2 ^ 11 + h.free.length % 2 ^ 11
  | _ => plainReg y.regs o

/-- The registers of a channel (R411). -/
def chanReg (x : Wheel) (c o : Nat) : Nat :=
  let ch := chanOf x c
  let ix := fun (k : Nat) => nth 0 ch.savedPos k % 2 ^ 32
  match o with
  | 0x00 => (if ch.st = .idle then 0 else ch.flow % 2 ^ 14 * 2 ^ 16 + ch.ctx % 1024 * 2 ^ 6) + b2n ch.faultWrite * 2 ^ 5 + (match ch.st with
      | .idle => 0
      | .run => 1
      | .creditWait => 2
      | .walk => 3
      | .faulted => 4
      | .priWait => 5
      | .ending => 6
      | .fenced => 7)
  | 0x08 => ch.faultSpace % 4 * 2 ^ 57 + ch.faultAddr % 2 ^ 57
  | 0x10 => ix 1 * 2 ^ 32 + ix 0
  | 0x18 => ix 3 * 2 ^ 32 + ix 2
  | 0x20 => ix 5 * 2 ^ 32 + ix 4
  | 0x28 => ch.savedPuts % 2 ^ 32 * 2 ^ 32 + ch.savedOff % 2 ^ 22
  | 0x30 => ch.savedIx % 2 ^ 64
  | _ => 0

def flowStCode (f : FlowSt) : Nat := match f with
  | .free => 0
  | .openF => 1
  | .cancelled => 2
  | .failed => 3

/-- RNT_ registers (R442–R445). -/
def rntReg (x : Wheel) (w o : Nat) : Nat :=
  let r := x.rnt
  let f := flowOf r r.flowSel
  match o with
  | 0x000 => unitIdent w 0
  | 0x004 => (r.insts.filter (fun i => i.ready.isSome && (match i.st with
      | .service _ _ => false
      | _ => true))).length % 2 ^ 16 * 2 ^ 16 + r.st % 16
  | 0x018 => r.flowSel % 2 ^ 11
  | 0x01C => flowStCode f.st * 2 ^ 30 + b2n f.atomic * 2 ^ 29 + b2n (flowBusy r r.flowSel) * 2 ^ 28 + f.ctx % 1024 * 2 ^ 16 + flowSlots r r.flowSel % 2 ^ 16
  | 0x024 => min 255 r.tokq.length * 2 ^ 16 + min 32767 (usedSlots r)
  | 0x080 => f.dispatched.toNat
  | 0x084 => f.completed.toNat
  | 0x088 => f.cancelled.toNat
  | 0x08C => f.failed.toNat
  | _ => plainReg r.regs o

/-- MEM_ registers (R572). -/
def memReg (s : State) (x : Wheel) (w o : Nat) : Nat :=
  let m := x.mem
  match o with
  | 0x000 => unitIdent w 0
  | 0x004 => m.hot % 256 * 2 ^ 8 + b2n m.unwashed * 2 ^ 7 + m.st % 16
  | 0x008 => m.scrubHours % 256 * 2 ^ 16 + b2n s.small
  | 0x014 => m.laneFail % 256 * 2 ^ 16 + m.devFail % 256 * 2 ^ 8 + m.posOk % 256
  | 0x030 => (w * 2 ^ 37 + m.scrub) % 2 ^ 40
  | _ => plainReg m.regs o

/-- RST_W_ registers (R602). -/
def rstWheelReg (s : State) (x : Wheel) (w o : Nat) : Nat :=
  match o with
  | 0x000 => resetCount s w % 16 * 2 ^ 16 + (match x.svc with
      | .inService => 0
      | .resetting => if x.mem.st = 3 then 1 else 2
      | .out => 3)
  | 0x004 => tget 0 s.rst.last w
  | _ => 0

/-- CRM_PORT_STATUS: one bit per port of the die. -/
def crmPorts (s : State) (d : Nat) (f : Nat → Bool) : Nat :=
  (upto (ePorts s / 2)).foldl (fun n j => n + b2n (f (d * (ePorts s / 2) + j)) * 2 ^ j) 0

/-- The offset estimate as CRM_PTP_OFFSET shows it (R508). -/
def crmOffset (s : State) : Nat := wrapInt 32 (max (-2147483648) (min 2147483647 s.crm.ptp.offset))

/-- CRM_ registers (R508–R510). -/
def crmReg (s : State) (d o : Nat) : Nat :=
  if 0x100 ≤ o then 0
  else match o with
  | 0x000 => dieIdent d
  | 0x004 => s.node % 2 ^ 12 * 2 ^ 20 + b2n s.cul.pinned * 2 ^ 19 + portMode s % 4 * 2 ^ 17 + s.crm.ptp.sync % 4 * 2 ^ 4 + tget 0 s.crm.st d % 16
  | 0x024 => crmPorts s d (fun e => s.crm.ptp.port == e && (ePort s e).link) * 2 ^ 12 + crmPorts s d (fun e => (ePort s e).fault) * 2 ^ 8
      + crmPorts s d (fun e => !(ePort s e).neigh.isEmpty) * 2 ^ 4 + crmPorts s d (fun e => (ePort s e).link)
  | 0x028 => crmOffset s
  | 0x030 => s.crm.ptp.time % 2 ^ 64
  | _ => plainReg (tget [] s.crm.regs d) o

/-- A die's blocks are behind a rind (1) or out of service (2). -/
def dieCode (s : State) (d : Nat) : Nat :=
  if s.dieDown.contains d then 2 else if s.rst.dies.any (fun p => p.1 == d) then 1 else 0

/-- CLK_ registers (R622). -/
def clkReg (s : State) (d o : Nat) : Nat :=
  let c := clkOf s d
  let k := regGet c.regs 0x018 % 256
  match o with
  | 0x000 => dieIdent d
  | 0x004 => c.held.length % 256 * 2 ^ 16 + c.absent.length % 256 * 2 ^ 8 + dieCode s d
  | 0x008 => c.cap % 32
  | 0x01C => if domains ≤ k then 0
      else b2n (!(c.absent.contains k)) * 2 ^ 31 + b2n (decide (k < islands)) * 2 ^ 30 + b2n (c.held.contains k) * 2 ^ 29
        + longestPeriod c k % 64 * 2 ^ 8 + islandPeriod c k % 64
  | _ => plainReg c.regs o

/-- SEA_ registers (R671). Fuse programming ends within the command that asks for it, so FUSE_BUSY reads 0. -/
def seaReg (s : State) (d o : Nat) : Nat :=
  match o with
  | 0x000 => dieIdent d
  | 0x004 => s.sea.lc % 8 * 2 ^ 29 + b2n (d == 0) * 2 ^ 28 + b2n s.recovery * 2 ^ 27 + b2n s.sea.busy * 2 ^ 26 + s.sea.refurb % 8 * 2 ^ 22 + dieCode s d
  | 0x008 => s.sea.culSvn % 128 * 2 ^ 16 + s.sea.fwSvn % 128
  | 0x014 => s.sea.ownerRevoked % 256 * 2 ^ 16 + s.sea.ownerValid % 256 * 2 ^ 8 + s.sea.fwRevoked % 16
  | 0x018 => s.sea.lcResult % 2 ^ 32
  | _ => plainReg (tget [] s.sea.regs d) o

/-- RST_ registers of the module window (R602). The module recovers while an engine, wheel or die is behind a rind, a replay
is due, or a context's reset has not ended. -/
def rstReg (s : State) (o : Nat) : Nat :=
  let r := s.rst
  let slots := fun (d : Nat) (f : TSample → Bool) => (upto 8).foldl (fun n k => n + b2n (r.trier.any (fun p => p.1 == 8 * d + k && f p.2)) * 2 ^ k) 0
  match o with
  | 0x000 => 0xB0 * 2 ^ 24
  | 0x004 => (upto 8).foldl (fun n w => n + b2n ((wheelOf s w).svc == .out) * 2 ^ w) 0 * 2 ^ 16
      + (if s.outOfService then 2
         else if r.fences.isEmpty && r.rewrites.isEmpty && r.replays.isEmpty && r.ctxs.isEmpty && r.wheels.isEmpty && r.dies.isEmpty then 0 else 1)
  | 0x018 => r.sel % 2 ^ 32
  | 0x024 => slots 1 (·.pinned) * 2 ^ 24 + slots 1 (fun _ => true) * 2 ^ 16 + slots 0 (·.pinned) * 2 ^ 8 + slots 0 (fun _ => true)
  | 0x028 => match r.trier.find? (fun p => p.1 == 8 * bits r.sel 31 31 + bits r.sel 26 24) with
    | some (_, t) => sampleWord t (bits r.sel 17 0 / 8)
    | none => (Config.free s.free).toNat
  | _ => plainReg r.regs o

/-- CUL_ registers (R647). -/
def culReg (s : State) (o : Nat) : Nat :=
  let c := s.cul
  match o with
  | 0x000 => 0xB0 * 2 ^ 24
  | 0x004 => b2n c.done * 2 ^ 8 + b2n s.recovery * 2 ^ 4 + c.step % 16
  | 0x008 => b2n c.pinned * 2 ^ 12 + s.node % 2 ^ 12
  | 0x01C => match c.da with
    | some a => 2 ^ 7 + a % 128
    | none => 0
  | 0x028 => c.versions % 2 ^ 64
  | 0x030 => c.startMs % 2 ^ 32
  | _ => plainReg c.regs o

/-- PWR_ registers (R686): ALARM, then CAPPED, then NORMAL. -/
def pwrReg (s : State) (o : Nat) : Nat :=
  let p := s.pwr
  match o with
  | 0x000 => 0xB0 * 2 ^ 24
  | 0x004 => b2n p.byTemp * 2 ^ 9 + b2n p.byPower * 2 ^ 8 + (if p.alarm || p.thermal then 2 else if (clkOf s 0).cap < 16 then 1 else 0)
  | 0x014 => p.lastFault
  | 0x018 => p.railSel % 8
  | 0x01C => regGet p.tele (0x100 + 4 * (p.railSel % 8))
  | 0x024 => regGet p.tele o
  | 0x028 => regGet p.tele o
  | 0x02C => regGet p.tele o
  | 0x030 => regGet p.tele o
  | 0x034 => regGet p.tele o
  | 0x038 => regGet p.tele o
  | _ => plainReg p.regs o

def hstState (s : State) (p : Nat) : Nat :=
  if s.outOfService then 3 else if s.dieDown.contains p || s.rst.dies.any (fun d => d.1 == p) then 2 else if s.recovery then 1 else 0

/-- The registers of a port's window (R545). -/
def portReg (s : State) (p o : Nat) : Nat :=
  let x := portOf s p
  match o with
  | 0x000 => 0xB0 * 2 ^ 24 + b2n s.small * 2 + p
  | 0x004 => (ownedBy s p).length % 2 ^ 11 * 2 ^ 16 + hstState s p
  | 0x008 => (upto 8).foldl (fun n w => n + (if (wheelOf s w).svc = .out then 3 else if nth 3 s.assign w = 2 then 2 else if nth 3 s.assign w = p then 1 else 0) * 4 ^ w) 0
  | 0x028 => s.serial.toNat
  | 0x030 => s.offer % 2 ^ 64
  | 0x038 => s.offer / 2 ^ 64 % 2 ^ 64
  | 0x040 => x.accept % 2 ^ 64
  | 0x048 => x.accept / 2 ^ 64 % 2 ^ 64
  | 0x05C => openIrq x
  | _ => plainReg x.regs o

/-- The registers of a context (R545). -/
def ctxReg (s : State) (c o : Nat) : Nat :=
  let x := ctxOf s c
  match o with
  | 0x00 => (match x.st with
      | .free => 0
      | .openC => 1
      | .closing => 2
      | .orphaned => 3) * 2 ^ 29 + x.owner % 2 * 2 ^ 28 + b2n x.plan.isSome * 2 ^ 27
  | 0x04 => x.irq
  | 0x08 => x.base % 2 ^ 64
  | 0x10 => x.log2 % 32
  | 0x14 => x.head % 2 ^ 32
  | 0x18 => x.nextSeq % 2 ^ 32
  | 0x1C => x.taken % 2 ^ 32
  | 0x20 => x.tail % 2 ^ 32
  | _ => 0

/-- A word of the MSI-X table: the mask of a vector is bit 0 of the fourth word of its entry. -/
def msixWord (x : Port) (o : Nat) : Nat :=
  if o % 16 = 12 then regGet x.msix o / 2 * 2 + b2n (!(x.unmasked.contains (o / 16))) else regGet x.msix o

/-- The register at an offset of a window: a 64-bit one whole. -/
def winReg (s : State) (p : Nat) (x : BarWin) (o : Nat) : Nat :=
  match x with
  | .none => 0
  | .port => portReg s p o
  | .msix => msixWord (portOf s p) o
  | .pba => (upto 32).foldl (fun n k => n + b2n ((portOf s p).pba.contains (8 * o + k)) * 2 ^ k) 0
  | .rst => rstReg s o
  | .cul => culReg s o
  | .ctx c => ctxReg s c o
  | .pwr => pwrReg s o
  | .vat w v => vatReg (wheelOf s w) w v o
  | .press w p => pressReg (wheelOf s w) w p o
  | .ladle w l => ladleReg (wheelOf s w) w l o
  | .ladleWheel w => ladleWheelReg (wheelOf s w) o
  | .grader w g => graderReg (wheelOf s w) w g o
  | .mld w => mldReg (wheelOf s w) w o
  | .whey w => wheyReg (wheelOf s w) w o
  | .rnt w => rntReg (wheelOf s w) w o
  | .chan w c => chanReg (wheelOf s w) c o
  | .mem w => memReg s (wheelOf s w) w o
  | .rstWheel w => rstWheelReg s (wheelOf s w) w o
  | .crm d => crmReg s d o
  | .clk d => clkReg s d o
  | .sea d => seaReg s d o

/-- The 32 bits at a word offset of a window. -/
def winWord (s : State) (p : Nat) (x : BarWin) (o : Nat) : Nat :=
  if winWide x (o / 8 * 8) then winReg s p x (o / 8 * 8) / 2 ^ (32 * (o / 4 % 2)) % 2 ^ 32 else winReg s p x o % 2 ^ 32

/-! ## What a sample records (R586) -/

/-- The wheels that a sample covers. -/
def sampleWheels (s : State) (t : TSample) : List Nat :=
  match t.level with
  | 0 => match t.ctx.bind (planOf s) with
    | some p => partWheels p
    | none => []
  | 1 => [t.wheel]
  | 2 => [t.wheel]
  | 3 => (upto 4).map (4 * t.die + ·)
  | _ => upto 8

/-- The sampled contexts: that of the instance or the reset, else those with a plan on the wheels. -/
def sampleCtxs (s : State) (t : TSample) : List Nat :=
  if t.level ≤ 1 then t.ctx.toList
  else (s.ctxs.filter (fun c => match c.2.plan with
    | some p => (partWheels p).any (fun w => (sampleWheels s t).contains w)
    | none => false)).map (·.1)

/-- A unit belongs to the domain of a sample; to a context's, where it holds an instance of the context. -/
def sampleUnit (s : State) (t : TSample) (w : Nat) (u : UnitId) : Bool :=
  match t.level with
  | 0 => t.ctx.toList.any (fun c => (unitsOf (wheelOf s w) c).contains u)
  | 1 => u == ⟨t.cls, t.engine⟩
  | _ => true

/-- The 256-byte image of a register window, in 32-bit words. -/
def regImage (s : State) (p : Nat) (x : BarWin) : List Nat := (upto 64).map (fun k => winWord s p x (4 * k))

def engineWin (w : Nat) (u : UnitId) : BarWin :=
  match u.cls with
  | 1 => .vat w u.idx
  | 2 => .press w u.idx
  | 3 => .ladle w u.idx
  | 4 => .grader w u.idx
  | _ => .chan w u.idx

/-- The register windows of a wheel, in ascending offset. -/
def wheelWins (w : Nat) : List BarWin :=
  (upto 32).map (.vat w) ++ (upto 12).map (.press w) ++ (upto 8).map (.ladle w) ++ [.ladleWheel w] ++ (upto 4).map (.grader w)
    ++ [.mld w, .whey w, .rnt w, .mem w, .rstWheel w]

/-- The register windows of a sample's domain. -/
def sampleWins (t : TSample) : List BarWin :=
  let die := fun (d : Nat) => (upto 4).flatMap (fun k => wheelWins (4 * d + k)) ++ [.crm d, .clk d, .sea d]
  match t.level with
  | 0 => []
  | 1 => [engineWin t.wheel ⟨t.cls, t.engine⟩]
  | 2 => wheelWins t.wheel
  | 3 => .port :: die t.die
  | _ => [.port, .rst, .cul, .pwr] ++ die 0 ++ die 1

def unitWord : Option UnitId → Nat
  | none => 0
  | some u => 2 ^ 31 + u.cls * 2 ^ 16 + u.idx

/-- HOOPS: hoop, producer, consumer, QUEUED, FREE, head handle. -/
def hoopEntries (s : State) (t : TSample) (w : Nat) : List (List Nat) :=
  ((wheelOf s w).hoops.filter (fun p => p.2.prod.toList.any (sampleUnit s t w) || p.2.cons.toList.any (sampleUnit s t w))).map (fun p =>
    [p.1, unitWord p.2.prod, unitWord p.2.cons, p.2.q.length, p.2.free.length] ++ (match p.2.q with
      | hd :: _ => [hd.addr, hd.len, hd.hoop, b2n hd.last, b2n hd.err]
      | [] => []))

/-- SLOTS: OPID, ITER, slot, flow. -/
def slotEntries (r : Rennet) (cs : List Nat) : List (List Nat) :=
  (r.insts.filter (fun i => cs.contains i.ctx)).flatMap (fun i => match findOp r i.ctx i.opid with
    | some o => (upto o.slots.length).map (fun k => [i.opid, i.iter, k, o.flow])
    | none => [])

/-- FLOWS: RNT_FLOW_STATE and the four counters. -/
def flowEntries (x : Wheel) (w : Nat) (cs : List Nat) : List (List Nat) :=
  (x.rnt.flows.filter (fun f => f.2.st != .free && cs.contains f.2.ctx)).map (fun f =>
    rntReg { x with rnt := { x.rnt with flowSel := f.1 } } w 0x01C :: [f.2.dispatched, f.2.completed, f.2.cancelled, f.2.failed].map (·.toNat))

/-- The channels concerned: that of the engine, else those with a stream of a sampled context. -/
def chanEntries (x : Wheel) (t : TSample) (cs : List Nat) : List (List Nat) :=
  (x.whey.chans.filter (fun c => if t.level = 1 ∧ t.cls = 5 then c.1 == t.engine else c.2.st != .idle && cs.contains c.2.ctx)).map (fun c =>
    c.1 :: (upto 7).map (fun k => chanReg x c.1 (8 * k)))

/-- LOCKS: the ladle rows held odd: table, row, context (R322). -/
def lockEntries (s : State) (t : TSample) (w : Nat) : List (List Nat) :=
  ((wheelOf s w).ladles.filter (fun l => sampleUnit s t w ⟨3, l.1⟩)).filterMap (fun l => match l.2.lw.lock, l.2.op with
    | some (_, _, row), some op => some [(lTab l.2).table, row, op.ctx]
    | _, _ => none)

/-- COMMANDS: NEXT_SEQ, TAKEN, and SEQ and OPCODE of the accepted records not taken. -/
def cmdEntry (x : Ctx) : List Nat := [x.nextSeq, x.taken] ++ (x.cmds.filter (fun h => !h.taken)).flatMap (fun h => [h.seq, cmdOp h])

/-- CREAMERY: the CRM_ windows, and the receive states of the flows of a wheel. -/
def crmEntries (s : State) (t : TSample) (ws : List Nat) : List (List Nat) :=
  (if t.level = 3 then [t.die] else [0, 1]).map (fun d => regImage s 0 (.crm d))
    ++ (s.crm.srcs.filter (fun r => ws.contains r.wheel)).map (fun r => [r.ctx, r.flow, r.node, r.next, r.limit, r.mnext])

/-- The entries of a section of a sample, as the lists of their fields. -/
def sectionEntries (s : State) (t : TSample) (type : Nat) : List (List Nat) :=
  let ws := sampleWheels s t
  let cs := sampleCtxs s t
  match type with
  | 1 => (sampleWins t).map (regImage s t.die)
  | 2 => ws.flatMap (hoopEntries s t)
  | 3 => ws.flatMap (fun w => slotEntries (wheelOf s w).rnt cs)
  | 4 => ws.flatMap (fun w => flowEntries (wheelOf s w) w cs)
  | 5 => ws.flatMap (fun w => ((wheelOf s w).rnt.passes.filter (fun p => cs.contains p.ctx)).map (fun p =>
      [p.iter, p.released, tget 0 p.counts p.released]))
  | 6 => ws.flatMap (fun w => chanEntries (wheelOf s w) t cs)
  | 7 => ws.flatMap (lockEntries s t)
  | 8 => cs.map (fun c => cmdEntry (ctxOf s c))
  | 9 => ws.map (fun w => regImage s t.die (.mem w))
  | _ => crmEntries s t ws

/-- What a sample records when it is taken. -/
def sampleSecs (s : State) (t : TSample) : List TSec := (sampleSections t.level).map (fun y => ⟨y, sectionEntries s t y⟩)

end Sys2Proof.Machine
end

