-- ==== Sys2Proof/Machine/Reset.lean ====
section
/-!
DEFINITION. Sys2Proof/Machine/Reset.lean: hangs, rinds, resets and recovery (R574–R603): expired timers, the recovery and
replay of engines, context, wheel, die and module resets, and the trier stores.
-/

namespace Sys2Proof.Machine

/-! ## Notices, errors and counters (R601–R603, R640) -/

/-- An event for the management controller: ALERT# is driven low, and an In-Band Interrupt is raised where they are enabled
and the module has an address; 0xFF stands for no wheel. -/
def raiseIbi (s : State) (code wheel : Nat) : State :=
  let s1 := { s with cul := { s.cul with alert := true } }
  if s.cul.da.isSome && bitAt s.cul.events 0 && !s.cul.busFault then { s1 with out := s1.out ++ [.ibi code wheel] } else s1

def onRst (s : State) (f : Rst → Rst) : State := { s with rst := f s.rst }
def rstBump (s : State) (k : Nat) : State := onRst s (fun r => { r with regs := bump r.regs k 1 })

/-- Set bits of RST_ERR_STATUS; the class code 0xF stands for no engine. -/
def rstErr (s : State) (mask level code cls wheel eng ctx : Nat) : State :=
  let d := level * 2 ^ 12 + cls % 16 * 2 ^ 8 + wheel % 8 * 2 ^ 5 + eng % 32
  onRst s (fun r => { r with regs := errSet r.regs mask (ctx % 1024 * 2 ^ 16 + code % 2 ^ 16) d })

/-- RST_W_LAST of a wheel: level and code. -/
def wheelLast (s : State) (w level code : Nat) : State :=
  onRst s (fun r => { r with last := tset 0 r.last w (level * 2 ^ 16 + code % 2 ^ 16) })

/-! ## Trier samples (R583–R585) -/

/-- Write a sample into a slot of its die: a free one, or the oldest that is not pinned; when every slot is pinned the
sample is dropped. -/
def takeSample (s : State) (t : TSample) : State :=
  let mine := (upto 8).map (fun k => 8 * t.die + k)
  let held := s.rst.trier.filter (fun p => mine.contains p.1)
  let old := sortBy (fun (a b : Nat × TSample) => decide (a.2.order < b.2.order)) (held.filter (fun p => !p.2.pinned))
  let slot := (mine.find? (fun k => !(held.any (fun p => p.1 == k)))).or (old.head?.map (·.1))
  match slot with
  | none => rstErr (rstBump s 7) 0x4 t.level 0x0B06 t.cls t.wheel t.engine (t.ctx.getD 0)
  | some k =>
    let n := held.foldl (fun n p => max n (p.2.order + 1)) 0
    let t' : TSample := { t with order := n + 1, seed := s.free, time := 100 * s.now, secs := sampleSecs s t }
    onRst { s with free := s.free + 1 } (fun r => { r with trier := tset (bareSample 0 0 0 0 0 0) r.trier k t' })

/-- Pin the newest sample of a level on a die, and copy it to the fault log (R584). -/
def pinSample (s : State) (die level wheel : Nat) : State :=
  let mine := s.rst.trier.filter (fun p => p.1 / 8 == die && p.2.level == level && p.2.wheel == wheel && !p.2.pinned)
  match (sortBy (fun (a b : Nat × TSample) => decide (b.2.order < a.2.order)) mine).head? with
  | none => s
  | some (k, t) =>
    onRst s (fun r => { r with trier := r.trier.map (fun p => if p.1 = k then (p.1, { p.2 with pinned := true }) else p)
                               faultLog := r.faultLog ++ [{ t with pinned := true }] })

/-! ## Busy and waiting (R577) -/

/-- The instance in service on a unit. -/
def serviceOn (x : Wheel) (u : UnitId) : Option Inst :=
  x.rnt.insts.find? (fun i => match i.st with
    | .service v _ => v == u
    | _ => false)

/-- The vat's next bundle sends on the ring while its last transfer waits for the receiver's credit (R114, R167). -/
def ringBlocked (t : Vat) : Bool :=
  t.ring.isSome && (t.fin.isSome || (t.issue.isNone && slOp (bundleSlot (tget 0 t.istore t.prog.pc) 3) == 0x20))

def vatWaits (t : Vat) : Bool := t.st == .handleWait || t.wait.isSome || t.closed || ringBlocked t

def engWaits (e : Eng) : Bool := e.st == .inWait || e.st == .outWait || e.fin.isSome

/-- A stream waits: for a credit, a handle, a fault to be resolved, or an acknowledgement or credit of its NET flow. -/
def chanWaits (x : Wheel) (ch : Chan) : Bool :=
  let empty := fun (h : Nat) => (hoopOf x h).q.isEmpty
  let net := match ch.out with
    | .net _ => true
    | _ => false
  match ch.st with
  | .creditWait => true
  | .faulted => true
  | .priWait => true
  | .ending => ch.errPut || net
  | .run => net || (sdSrcKind ch.sd == 1 && decide (ch.inBuf.length < hoopNeed ch) && !ch.inLast && !ch.inErr && empty (sdSrcHoop ch.sd))
      || (sdIxs ch.sd && !ch.ixLast && empty (sdIxHoop ch.sd))
  | _ => false

def unitWaits (x : Wheel) (u : UnitId) : Bool :=
  match u.cls with
  | 1 => vatWaits (vatOf x u.idx)
  | 5 => chanWaits x (chanOf x u.idx) || (chanOf x u.idx).st == .idle
  | 6 => true
  | _ => engWaits (engOf x u)

/-- The units of a wheel with an instance in service that satisfies `p`, and that are busy. -/
def busyUnits (x : Wheel) (p : Inst → Bool) : List UnitId :=
  x.rnt.insts.filterMap (fun i => match i.st with
    | .service u _ => if p i && !(unitWaits x u) then some u else none
    | _ => none)

/-! ## The rind around an engine (R580, R581) -/

def unitFenced (x : Wheel) (u : UnitId) : Bool :=
  match u.cls with
  | 1 => (vatOf x u.idx).st == .fenced
  | 5 => (chanOf x u.idx).st == .fenced
  | _ => (engOf x u).st == .fenced

def fenceMark (x : Wheel) (u : UnitId) : Wheel :=
  match u.cls with
  | 1 => onVat x u.idx (fun t => { t with st := .fenced })
  | 5 => setChan x u.idx { chanOf x u.idx with st := .fenced }
  | _ => onEng x u (fun e => { e with st := .fenced })

/-- The copy invalidations on their way to a ladle are answered at once when it is fenced. -/
def answerInvals (s : State) (f : Fence) : State :=
  if f.unit.cls = 3 then { s with mesh := s.mesh.filter (fun m => match m with
    | .invalidate w l _ _ _ _ => !(w == f.wheel && l == f.unit.idx)
    | _ => true) }
  else s

/-- Raise a rind around an engine: an outstanding work interrupt for it is withdrawn. -/
def fenceUnit (s0 : State) (f : Fence) : State :=
  let x := wheelOf s0 f.wheel
  if x.svc ≠ .inService ∨ unitFenced x f.unit then s0
  else
    let s := answerInvals (if f.unit.cls = 5 then creditWaited s0 f.wheel f.unit.idx else s0) f
    let s1 := onWheel s f.wheel (fun x =>
      let y := fenceMark x f.unit
      { y with rnt := { y.rnt with intr := y.rnt.intr.filter (fun e => e.1 ≠ f.unit) } })
    let s2 := wheelLast (rstErr (rstBump s1 2) 0x1 1 f.cause f.unit.cls f.wheel f.unit.idx f.ctx) f.wheel 1 f.cause
    onRst s2 (fun r => { r with fences := r.fences ++ [f] })

/-! ## Context reset (R591) -/

/-- Discard the passes of a context on every wheel of its part, and the submissions that wait to open one. -/
def dropPasses (s : State) (ctx : Nat) : State :=
  match planOf s ctx with
  | none => s
  | some p =>
    let s1 := (partWheels p).foldl (fun s w => onWheel s w (fun x =>
      { x with rnt := { x.rnt with passes := x.rnt.passes.filter (fun q => q.ctx != ctx), tokq := x.rnt.tokq.filter (fun t => t.ctx != ctx) } })) s
    let s2 := { s1 with mesh := s1.mesh.filter (fun m => match m with
      | .token _ _ c _ _ _ => c != ctx
      | .release _ _ c _ _ => c != ctx
      | _ => true) }
    let s3 := ((ctxOf s2 ctx).cmds.filter (fun h => h.started && !h.taken && cmdOp h == 0x05)).foldl
      (fun s h => cmdDone s ctx h 0x0702 0 0 0) s2
    onCtx s3 ctx (fun c => { c with submits := [], plan := c.plan.map (fun p => { p with reports := [], notices := [] }) })

def contextReset (s : State) (ctx code : Nat) : State :=
  let s1 := failCtx (rstErr (rstBump s 1) 0x1 0 code 0xF 0 0 ctx) ctx code
  let s2 := dropPasses (stopCtx s1 ctx unitWaits) ctx
  let s3 := takeSample s2 { bareSample 0 0xF 0 0 0 code with ctx := some ctx }
  if ctxQuiet s3 ctx then s3 else onRst s3 (fun r => { r with ctxs := insertNat ctx r.ctxs })

/-! ## Expired timers (R576–R579) -/

/-- A replay of the context runs, or a ready instance of it waits for an engine under replay (R578, R590). -/
def timersHeld (s : State) (ctx : Nat) : Bool :=
  s.rst.replays.any (fun r => r.running && r.ctx != ctx && (ranked (wheelOf s r.wheel)).any (fun p =>
    p.2.ctx == ctx && p.1.cls == r.unit.cls && (p.1.any || p.1.target == r.unit.idx)))

/-- The replays of a context whose timer has run out again: the engines are recovered with 0x0B03, the flows fail, and the
context is torn down (R590). -/
def replayHang (s : State) (ctx seq : Nat) : State :=
  let hung := s.rst.replays.filter (fun r => r.running && r.ctx == ctx && r.seq == seq)
  let s1 := onRst (rstErr (rstBump s 6) 0x2 1 0x0B03 0xF 0 0 ctx) (fun r => { r with replays := r.replays.filter (fun q => q.ctx != ctx) })
  let s2 := hung.foldl (fun s r => fenceUnit s ⟨r.wheel, r.unit, 0x0B03, ctx, seq, true, 0x0B03⟩) s1
  teardown (failCtx s2 ctx 0x0B03) ctx 0 false

/-- The engines that a ready instance of a pass waits for, of those whose instance has been in service for longer than the
timeout (`late`). -/
def lateUnits (s : State) (ctx iter : Nat) (ws : List Nat) (late : List (Nat × Nat × Nat)) : List (Nat × UnitId) :=
  late.filterMap (fun t =>
    let x := wheelOf s t.1
    let u : UnitId := ⟨t.2.1, t.2.2⟩
    let wanted := (ranked x).any (fun p => p.2.ctx == ctx && p.2.iter == iter && p.1.cls == u.cls && (match p.2.st with
      | .saved v _ => v == u.idx
      | _ => p.1.any || p.1.target == u.idx))
    if ws.contains t.1 && wanted && (serviceOn x u).isSome && !(unitWaits x u) && decide (1 ≤ u.cls) && decide (u.cls ≤ 5) then some (t.1, u) else none)

/-- SUBMIT_TIMEOUT: the timer of the pass that a SUBMIT feeds. -/
def submitTimeout (s : State) (ctx seq : Nat) (late : List (Nat × Nat × Nat)) : State :=
  if s.rst.replays.any (fun r => r.running && r.ctx == ctx && r.seq == seq) then replayHang (rstBump s 0) ctx seq
  else match (ctxOf s ctx).submits.find? (fun t => t.seq == seq), planOf s ctx with
  | some t, some p =>
    let waits := (findCmd s ctx seq).any (fun h => h.started && !h.taken)
    if t.expired || timersHeld s ctx || !(passOpen s p ctx t.iter || waits) || s.outOfService then s
    else
      let s1 := onCtx (rstBump s 0) ctx (fun x => { x with submits := x.submits.map (fun q => if q.seq == seq then { q with expired := true } else q) })
      let hung := (partWheels p).flatMap (fun w =>
        (busyUnits (wheelOf s w) (fun i => i.ctx == ctx && i.iter == t.iter)).map (fun u => (w, u)))
      let all := hung ++ lateUnits s ctx t.iter (partWheels p) late
      if all.isEmpty then contextReset s1 ctx 0x0B01
      else all.foldl (fun s q => fenceUnit s ⟨q.1, q.2, 0x0B01, ctx, seq, false, 0x0B02⟩) s1
  | _, _ => s

def execSubmitTimeout (x : Fin 1024) (seq : Nat) (late : List (Nat × Nat × Nat)) (s : State) : Host.Outcome State Fault Refusal :=
  .next (submitTimeout s x seq late)

/-- Recover the busy engines that hold an instance of a context, without replay (R579, R588). -/
def fenceBusy (s : State) (ctx seq : Nat) : State :=
  match planOf s ctx with
  | none => s
  | some p => (partWheels p).foldl (fun s w =>
      (busyUnits (wheelOf s w) (fun i => i.ctx == ctx)).foldl (fun s u => fenceUnit s ⟨w, u, 0x0B01, ctx, seq, true, 0x0B02⟩) s) s

def cmdOwner (ctx seq : Nat) : Owner := .cmd ctx seq

/-- The expiry of an ARM: wheel and channel of its operand (R529). -/
def armTimeout (s : State) (ctx : Nat) (h : HCmd) (w c : Nat) : State :=
  let ch := chOf s w c
  let own := cmdOwner ctx h.seq
  let waiting := (wheelOf s w).whey.arms.any (fun a => a.1 == own)
  if waiting then
    cmdDone (onWhey s w (fun y => { y with arms := y.arms.filter (fun a => a.1 != own) })) ctx h 0x0B01 0 0 0
  else if ch.own ≠ some own ∨ ch.st = .fenced then s
  else if chanWaits (wheelOf s w) ch then chFail s w c 0x0B01 0
  else fenceUnit s ⟨w, ⟨5, c⟩, 0x0B01, ctx, h.seq, true, 0x0B02⟩

/-- The expiry of a command in progress (R579). ARM and DRIP carry their physical wheel, ARM its channel, while they are in
progress. -/
def startedTimeout (s : State) (ctx : Nat) (h : HCmd) : State :=
  let op := cmdOp h
  let w := nth 0 h.info 0
  if op = 0x0A then armTimeout s ctx h w (nth 0 h.info 1)
  else if [0x06, 0x07, 0x03, 0x0E].contains op then fenceBusy s ctx h.seq
  else if op = 0x0C ∨ op = 0x0D then s
  else if op = 0x0B then
    cmdDone (onWhey s w (fun y => { y with drips := y.drips.filter (fun d => d.own != cmdOwner ctx h.seq) })) ctx h 0x0B08 0 0 0
  else cmdDone s ctx h 0x0B08 0 0 0

/-! ## The end of a drain: sample and reset of an engine (R587, R588) -/

/-- Put handles back at the head of a hoop in their order. -/
def hoopBack (x : Wheel) (h : Nat) (hs : List Handle) : Wheel := onHoop x h (fun y => { y with q := hs ++ y.q })

/-- The instance has done something that a rerun would change (R588). -/
def unitIrrev (s : State) (w : Nat) (u : UnitId) : Bool :=
  let x := wheelOf s w
  match u.cls with
  | 1 => (vatOf x u.idx).irrev
  | 5 =>
    let ch := chanOf x u.idx
    ch.irrev || decide (0 < ch.netAcked) || (match ch.out with
      | .net f => match findTx s ch.ctx f with
        | some t => t.chan == some u.idx && t.pkts.any (·.sent)
        | none => false
      | _ => false)
  | _ => (engOf x u).irrev

/-- The reset of a vat whose ring transfers have been cut off (R116): handles and buffers go back, tiles, registers,
instruction store and save slots are washed (R126). It stays behind the rind until its instruction store is rewritten. -/
def resetVat (x : Wheel) (v : Nat) : Wheel :=
  let t := vatOf x v
  let x1 := t.prog.inP.foldl (fun x p => match p.2.hoop with
    | some h => hoopBack x h p.2.taken
    | none => x) x
  let x2 := t.prog.outP.foldl (fun x p => match p.2.hoop with
    | some h => p.2.got.foldl (fun x i => hoopReturn x h i) x
    | none => x) x1
  let lo := bankAddr v (visibleEnd x.saveSlots)
  let x3 := caveWash (unbindAll x2 ⟨1, v⟩) lo (x.saveSlots * saveSlotBytes)
  onVat x3 v (fun t => { st := .fenced, regs := t.regs, slices := t.slices })

/-- A NET transfer whose packets were never sent leaves the flow's numbers as they were. -/
def netUndo (s : State) (ctx flow c : Nat) : State :=
  match findTx s ctx flow with
  | none => s
  | some t =>
    if t.chan ≠ some c then s
    else
      let t1 := match t.pkts with
        | p :: _ => if t.pkts.any (·.sent) then t else { t with seq := p.seq, msg := p.msg }
        | [] => t
      netDrop (setTx s t1) ctx flow

/-- The reset of a stream channel: source and index handles go back, buffers return to their pools, late data is
discarded. -/
def resetChan (s : State) (w c : Nat) : State :=
  let ch := chOf s w c
  let s1 := onWheel s w (fun x => hoopBack (hoopBack x (sdSrcHoop ch.sd) (ch.taken.map (·.1))) (sdIxHoop ch.sd) (ch.ixTaken.map (·.1)))
  let s2 := returnRemote (if ch.taken.isEmpty && ch.ixTaken.isEmpty then s else s1) c w
  let s3 := match ch.out with
    | .net f => netUndo s2 ch.ctx f c
    | _ => s2
  onChan (onWheel s3 w (fun x => unbindAll x (chUnit c))) w c (fun y => restChan y)

/-- The reset of a press, ladle or grader: its memories and copied descriptors are washed; rows held odd stay odd (R322). -/
def resetEng (x : Wheel) (u : UnitId) : Wheel :=
  onEng (unbindAll (returnHeld x u) u) u (fun e => { regs := e.regs })

def resetUnit (s : State) (w : Nat) (u : UnitId) : State :=
  match u.cls with
  | 1 => onWheel (ringFaultOn (ringFaultOn s w u.idx) w ((u.idx + 31) % 32)) w (fun x => resetVat x u.idx)
  | 5 => resetChan s w u.idx
  | _ => onWheel s w (fun x => resetEng x u)

/-- An operation of an engine that a reset ended completes with a code other than 0x0000, which the engine's ERR_STATUS
shows (R132, R218, R342, R374); a channel's is noted where its stream ends. -/
def noteLost (s : State) (w : Nat) (u : UnitId) (flow code : Nat) : State :=
  match u.cls with
  | 1 => onWheel s w (fun x => onVat x u.idx (fun t => vatErr t flow code))
  | 5 => wheyNote s w flow code u.idx
  | _ => onWheel s w (fun x => onEng x u (fun e =>
      { e with regs := endCount u e (endRegs u.cls flow (engMask u.cls e.sub code) ⟨code, 0, if u.cls = 4 then 0xFFFFFFF else 0⟩ e.regs) }))

/-- The engine of an instance that its reset ends notes it, while it still holds the operation. -/
def noteInst (s : State) (w : Nat) (i : Inst) (code : Nat) : State :=
  match findOp (wheelOf s w).rnt i.ctx i.opid, i.st with
  | some o, .service u _ => noteLost s w u o.flow code
  | _, _ => s

/-- An instance that a reset took from its engine completes, and its flow fails (R588). -/
def loseInst (s : State) (w : Nat) (i : Inst) (code : Nat) : State :=
  match findOp (wheelOf s w).rnt i.ctx i.opid with
  | none => s
  | some o => rRun s w (fun c => completeInst c (opRefOf o i 0) code 0 0)

/-- The operations saved in a vat's slots complete with 0x0106 (R126, R587), which sets SAVE_LOST (R132). -/
def loseSaved (s : State) (w v : Nat) (saved : List (Nat × SavedOp)) : State :=
  saved.foldl (fun s p => rRun (noteLost s w ⟨1, v⟩ p.2.op.flow 0x0106) w (fun c => completeInst c p.2.op 0x0106 0 0)) s

/-- The clock domain of an engine of a wheel, and those of a wheel with its memory controller, on their die (R604). -/
def unitDomain (w : Nat) (u : UnitId) : Option Nat :=
  let b := 59 * (w % 4)
  match u.cls with
  | 1 => some (b + u.idx)
  | 2 => some (b + 32 + u.idx)
  | 3 => some (b + 44 + u.idx)
  | 4 => some (b + 52 + u.idx)
  | _ => none

def wheelDomains (w : Nat) : List Nat := (upto 59).map (fun k => 59 * (w % 4) + k) ++ [239 + w % 4]

def onClk (s : State) (d : Nat) (f : Clk → Clk) : State := { s with clks := tmod {} s.clks d f }

/-- Domains of a die become absent to their crossings (R615). -/
def setAbsent (s : State) (d : Nat) (ds : List Nat) : State :=
  onClk s d (fun c => { c with absent := ds.foldl (fun l k => insertNat k l) c.absent })

/-- Steps 2 to 5 for one engine: sample, reset, judgement; a vat stays fenced for the rewrite of its instruction store. -/
def recoverUnit (s : State) (f : Fence) : State :=
  let x := wheelOf s f.wheel
  let inst := serviceOn x f.unit
  let armed := f.unit.cls == 5 && hostArmed (chanOf x f.unit.idx)
  let flow := match inst with
    | some i => ((findOp x.rnt i.ctx i.opid).map (·.flow)).getD 0
    | none => 0
  let smp : TSample := { bareSample 1 f.unit.cls f.wheel (f.wheel / 4) f.unit.idx f.cause with
    ctx := (inst.map (·.ctx)).or (some f.ctx), flow := flow, opid := (inst.map (·.opid)).getD 0, iter := (inst.map (·.iter)).getD 0 }
  let s1 := takeSample s smp
  let lost := f.noReplay || unitIrrev s1 f.wheel f.unit || armed
  let saved := if f.unit.cls = 1 then (vatOf x f.unit.idx).saved else []
  let own := (chanOf x f.unit.idx).own
  let s1 := match inst with
    | some i => if lost then noteInst s1 f.wheel i f.lost else s1
    | none => s1
  let s2 := loseSaved (resetUnit (setAbsent s1 (f.wheel / 4) (unitDomain f.wheel f.unit).toList) f.wheel f.unit) f.wheel f.unit.idx saved
  let s3 := match inst with
    | none => s2
    | some i => if lost then loseInst s2 f.wheel i f.lost
      else onRst (onWheel s2 f.wheel (fun x => { x with rnt := setInst x.rnt { i with replay := true } })) (fun r => { r with replays := r.replays ++ [{ ctx := i.ctx, wheel := f.wheel, opid := i.opid, iter := i.iter, unit := f.unit, seq := f.seq }] })
  let s4 := if armed then wheyFinish s3 f.wheel ⟨f.unit.idx, own.getD (.cmd f.ctx f.seq), f.lost, 0, 0, 0⟩ else s3
  if f.unit.cls = 1 then onRst s4 (fun r => { r with rewrites := r.rewrites ++ [⟨f.wheel, f.unit.idx⟩] }) else s4

/-- DRAIN_DEADLINE: the engines behind rinds on a wheel have drained. -/
def drainDeadline (s : State) (w : Nat) : State :=
  let fs := s.rst.fences.filter (fun f => f.wheel == w)
  fs.foldl recoverUnit (onRst s (fun r => { r with fences := r.fences.filter (fun f => f.wheel != w) }))

def execDrainDeadline (w : Fin 8) (s : State) : Host.Outcome State Fault Refusal := .next (drainDeadline s w)

/-! ## Instruction stores (R589) -/

/-- The image of a loaded plan, when it can be read and its hash is the one measured at the load. -/
def planImage (s : State) (ctx : Nat) : State × Option Img :=
  match planOf s ctx with
  | none => (s, none)
  | some p =>
    match cmdRead s ctx p.image p.bytes with
    | (s1, .error _) => (s1, none)
    | (s1, .ok b) =>
      if sha512 b ≠ p.hash then (s1, none)
      else match sectionsOf b (hdrOf b) with
        | .error _ => (s1, none)
        | .ok ss => (s1, some ⟨b, hdrOf b, ss, p.wmap, p.nodes⟩)

/-- Rewrite a vat's instruction store from the images of the plans loaded on its wheel. An altered image fails its plan. -/
def rewriteStore (s : State) (w v : Nat) : State :=
  (s.ctxs.map (·.1)).foldl (fun s c =>
    match planOf s c with
    | none => s
    | some p => match logicalOf p w with
      | none => s
      | some lw => match planImage s c with
        | (s1, some m) => onWheel s1 w (fun x => writeIstores m lw x [v])
        | (s1, none) => failCtx s1 c 0x0931) s

/-- ISTORE_REWRITE_DONE. -/
def rewriteDone (s : State) (w v : Nat) : State :=
  if !(s.rst.rewrites.contains ⟨w, v⟩) then s
  else
    let s1 := rewriteStore (onRst s (fun r => { r with rewrites := r.rewrites.erase ⟨w, v⟩ })) w v
    onWheel s1 w (fun x => onVat x v (fun t => { t with st := .idle }))

def execIstoreRewriteDone (w : Fin 8) (v : Fin 32) (s : State) : Host.Outcome State Fault Refusal := .next (rewriteDone s w v)

/-! ## Replay (R590) -/

/-- A replay whose instance has completed has ended. -/
def endReplays (s : State) : State :=
  let excess := s.rst.replays.filter (fun r => r.running && (findInst (wheelOf s r.wheel).rnt r.ctx r.opid r.iter).isNone)
  excess.foldl (fun s r => onRst (rstBump s 5) (fun q => { q with replays := q.replays.erase r })) s

def unitIdle (x : Wheel) (u : UnitId) : Bool :=
  rawFree x u.cls u.idx && (u.cls != 5 || (chanOf x u.idx).st == .idle)

/-- REPLAY: the lowest suspect context's instance on a wheel is dispatched again to its engine, once no context of a lower
number is replayed; no other instance goes to that engine until the replay ends. -/
def replayOn (s0 : State) (w : Nat) : State :=
  let s := endReplays s0
  let rs := s.rst.replays
  let c := rs.foldl (fun m r => min m r.ctx) 1024
  if rs.any (fun r => r.running && r.ctx != c) then s
  else match rs.find? (fun r => !r.running && r.ctx == c && r.wheel == w && unitIdle (wheelOf s w) r.unit) with
    | none => s
    | some r =>
      let x := wheelOf s w
      match findInst x.rnt r.ctx r.opid r.iter, findOp x.rnt r.ctx r.opid with
      | some i, some o =>
        let s1 := rRun s w (fun c => dispatchTo c r.unit o { i with st := .waiting })
        onRst s1 (fun q => { q with replays := q.replays.map (fun k => if k = r then { k with running := true } else k) })
      | _, _ => onRst s (fun q => { q with replays := q.replays.erase r })

def execReplay (w : Fin 8) (s : State) : Host.Outcome State Fault Refusal := .next (replayOn s w)

/-! ## The module out of service (R598) -/

/-- Every command but CLOSE completes with 0x0003. -/
def failCmds (s : State) : State :=
  s.ctxs.foldl (fun s c => (ctxOf s c.1).cmds.foldl (fun s h =>
    if cmdOp h = 0x0E then s else cmdDone s c.1 h 0x0003 0 0 0) s) s

def moduleOut (s : State) (code : Nat) : State :=
  if s.outOfService then s
  else
    let s1 := s.ctxs.foldl (fun s c => failCtx s c.1 0x0003) { s with outOfService := true }
    let s2 := failCmds s1
    let s3 := onRst s2 (fun r => { r with fences := [], rewrites := [], replays := [], ctxs := [] })
    raiseIbi (rstErr s3 0x10 4 code 0xF 0 0 0) 1 0xFF

/-! ## Wheel resets (R592–R597) -/

/-- The wheel that sent a message, and the one it goes to. -/
def meshEnds (m : MeshMsg) : Nat × Nat := match m with
  | .credit w _ src _ _ => (src, w)
  | .put w src _ _ => (src, w)
  | .token w src _ _ _ _ => (src, w)
  | .release w src _ _ _ => (src, w)
  | .invalidate w _ _ _ _ src => (src / 8, w)

/-- A stream of wheel `w` into a hoop of a wheel that went away fails with 0x0001 or 0x0002; one that has ended with a put
still on its way there too (R31, R395). -/
def streamGone (s : State) (w c t : Nat) : State :=
  let ch := chOf s w c
  let code := reachCode s w t
  match ch.out with
  | .rhoop t' h =>
    if t' ≠ t then s
    else match ch.st with
      | .ending =>
        let cut := s.mesh.any (fun m => match m with
          | .put a b k _ => a == t && b == w && k == h
          | _ => false)
        onChan (if cut then absentNote s w t else s) w c (fun y => { y with errPut := false, code := if y.code = 0 ∧ cut then code else y.code })
      | .idle => s
      | .fenced => s
      | _ => chFail s w c code 0
  | _ => s

/-- A wheel went away: the streams of the others into its hoops fail, and the messages from it and to it are discarded, but
for the credits to its streams (R31, R395). -/
def wheelGone (s : State) (t : Nat) : State :=
  let s1 := ((upto 8).filter (· ≠ t)).foldl (fun s w => (wheelOf s w).whey.chans.foldl (fun s c => streamGone s w c.1 t) s) s
  { s1 with mesh := s1.mesh.filter (fun m => match m with
    | .credit _ _ src _ _ => src != t
    | _ => (meshEnds m).1 != t && (meshEnds m).2 != t) }

/-- The reset of a wheel's channels gives the buffers of remote hoops back: those held, then those on their way (R381,
R394). -/
def remoteBack (s : State) (t : Nat) : State :=
  let s1 := (wheelOf s t).whey.chans.foldl (fun s c => match c.2.out with
    | .rhoop _ _ => returnRemote s c.1 t
    | _ => s) s
  let s2 := s1.mesh.foldl (fun s m => match m with
    | .credit w _ src h a => if w = t then onWheel s src (fun x => hoopReturn x h (bufIndex (hoopOf x h) a)) else s
    | _ => s) s1
  { s2 with mesh := s2.mesh.filter (fun m => (meshEnds m).2 != t) }

/-- The rind around a wheel: every engine with an operation, and every stream channel whatever its state (R405), is fenced. -/
def fenceAll (x : Wheel) : Wheel :=
  { x with
    vats := x.vats.map (fun p => (p.1, if p.2.op.isSome then { p.2 with st := .fenced } else p.2))
    presses := x.presses.map (fun p => (p.1, if p.2.op.isSome then { p.2 with st := .fenced } else p.2))
    ladles := x.ladles.map (fun p => (p.1, if p.2.op.isSome then { p.2 with st := .fenced } else p.2))
    graders := x.graders.map (fun p => (p.1, if p.2.op.isSome then { p.2 with st := .fenced } else p.2))
    whey := { x.whey with st := 1, chans := (upto 128).map (fun c => (c, { chanOf x c with st := .fenced })) }
    rnt := { x.rnt with st := 1, intr := [] }
    mem := { x.mem with st := 3 } }

/-- The passes open on a wheel are abandoned: the flows of each plan concerned fail with 0x0B04 on every wheel of its part
(R594). -/
def abandonPasses (s : State) (w : Nat) : State :=
  let cs := (wheelOf s w).rnt.passes.foldl (fun l p => insertNat p.ctx l) []
  cs.foldl (fun s c => dropPasses (failCtx s c 0x0B04) c) s

/-- Host-armed streams, arms and drips of a wheel end with 0x0001 (R580). -/
def answerHost (s : State) (w code : Nat) : State :=
  let y := (wheelOf s w).whey
  let cmd := fun (o : Owner) => match o with
    | .cmd _ _ => true
    | .inst _ => false
  let ds := (y.chans.filterMap (fun c => match c.2.own with
      | some (.cmd x q) => some (⟨c.1, .cmd x q, code, 0, 0, 0⟩ : WheyDone)
      | _ => none))
    ++ (y.arms.filter (fun a => cmd a.1)).map (fun a => ⟨a.2.1, a.1, code, 0, 0, 0⟩)
    ++ (y.drips.filter (fun d => cmd d.own)).map (fun d => ⟨0xFF, d.own, code, 0, 0, 0⟩)
  onWhey s w (fun y => { y with arms := y.arms.filter (fun a => !(cmd a.1)), drips := y.drips.filter (fun d => !(cmd d.own)), dones := y.dones ++ ds })

/-- The rind around a wheel is raised; engine resets and replays on it are absorbed. A wheel reset within a die reset is
not counted (R596). -/
def beginWheel (s : State) (w cause level : Nat) : State :=
  if (wheelOf s w).svc ≠ .inService ∨ s.outOfService then s
  else
    let s1 := if level = 2 then
        onRst (rstErr (rstBump s 3) 0x1 2 cause 0xF w 0 0) (fun r =>
          { r with starts := tset [] r.starts w (((tget [] r.starts w) ++ [s.now]).drop ((tget [] r.starts w).length + 1 - 15)) })
      else s
    let s2 := onRst (wheelLast s1 w level cause) (fun r =>
      { r with wheels := r.wheels ++ [(w, cause)], fences := r.fences.filter (fun f => f.wheel != w)
               rewrites := r.rewrites.filter (fun f => f.wheel != w), replays := r.replays.filter (fun f => f.wheel != w) })
    wheelGone (answerHost (abandonPasses (onWheel s2 w (fun x => fenceAll { x with svc := .resetting })) w) w 1) w

/-- Every unit of a wheel at reset; the firmware keeps the flow entries of loaded plans, and the configuration, the memory's
contents and the completions of host commands stay. -/
def washWheel (x : Wheel) (memSt : Nat) : Wheel :=
  { svc := x.svc, saveSlots := x.saveSlots, yieldWait := x.yieldWait, mld := mldWash x.mld
    whey := { st := x.whey.st, dones := x.whey.dones.filter (fun d => match d.own with
      | .cmd _ _ => true
      | .inst _ => false) }
    rnt := { st := x.rnt.st, flows := x.rnt.flows.map (fun f => (f.1, { f.2 with dispatched := 0, completed := 0, cancelled := 0, failed := 0 })) }
    mem := { x.mem with st := memSt, regs := [], exh := [], crcFail := [], resetReq := false, scrub := 0, hot := 0 }
    ldl := { poolUsed := x.ldl.poolUsed } }

/-- The Creamery's states on a wheel are stale after its reset (R502). -/
def staleFlows (s : State) (w : Nat) : State :=
  onCrm s (fun c => { c with
    txs := c.txs.map (fun t => if t.wheel = w then { t with stale := true, pkts := [], chan := none } else t)
    rxs := c.rxs.map (fun t => if t.wheel = w then { t with stale := true } else t)
    srcs := c.srcs.filter (fun t => t.wheel != w), grps := c.grps.filter (fun g => g.wheel != w)
    retx := c.retx.filter (fun r => !(c.txs.any (fun t => t.wheel == w && t.ctx == r.ctx && t.flow == r.flow))) })

/-- The reset of a wheel behind its rind: sample, reset, wash; then its devices train. -/
def resetWheel (s : State) (w : Nat) : State :=
  match s.rst.wheels.find? (fun p => p.1 == w) with
  | none => s
  | some (_, cause) =>
    if (wheelOf s w).mem.st ≠ 3 then s
    else
      let s1 := remoteBack (takeSample s (bareSample 2 0xF w (w / 4) 0 cause)) w
      staleFlows (onWheel (setAbsent s1 (w / 4) (wheelDomains w)) w (fun x => washWheel x 1)) w

/-- WHEEL_RESET: one that a watchdog or an escalation has begun, or one that the memory controller requests (R555). -/
def wheelReset (s : State) (w : Nat) : State :=
  let s1 := if (wheelOf s w).mem.resetReq then beginWheel s w 0x0A02 2 else s
  if s.rst.dies.any (fun d => d.1 == w / 4) then s else resetWheel s1 w

def execWheelReset (w : Fin 8) (s : State) : Host.Outcome State Fault Refusal := .next (wheelReset s w)

def execWheelWatchdogExpiry (w : Fin 8) (s : State) : Host.Outcome State Fault Refusal := .next (beginWheel s w 0x0B09 2)

/-- A wheel goes out of service (R597, R598): EVENT 0x0913 reaches every context whose plan uses it. -/
def wheelOut (s : State) (w code : Nat) : State :=
  let s1 := onRst (onWheel s w (fun x =>
    { x with svc := .out, mem := { x.mem with st := 4 }, whey := { x.whey with st := 2 }, rnt := { x.rnt with st := 2 } }))
    (fun r => { r with wheels := r.wheels.filter (fun p => p.1 != w) })
  let s2 := pinSample (rstErr s1 0x10 2 code 0xF w 0 0) (w / 4) 2 w
  let s3 := s2.ctxs.foldl (fun s c => match c.2.plan with
    | some p => if (partWheels p).contains w then emitRec s c.1 { kind := 5, code := 0x0913, d0 := w } else s
    | none => s) s2
  let s4 := raiseIbi s3 2 w
  if 2 ≤ ((upto 8).filter (fun k => (wheelOf s4 k).svc == .out)).length then moduleOut s4 code else s4

/-- WHEEL_RESET_COMPLETE: what training found (bit p of each: a lane of position p failed, a device did not respond), the
count, and the return to service with the restoring of plans and migration entries. -/
def wheelComplete (s : State) (w lane dev : Nat) : State :=
  if !(s.rst.wheels.any (fun p => p.1 == w)) || (wheelOf s w).mem.st != 1 || s.rst.dies.any (fun d => d.1 == w / 4) then s
  else
    let s1 := onWheel s w (fun x => { x with mem := { x.mem with laneFail := lane, devFail := dev, posOk := 255 - (lane ||| dev) } })
    if resetLimit s1 ≤ resetCount s1 w then wheelOut s1 w 0x0B07
    else if lane ≠ 0 ∨ dev ≠ 0 then wheelOut s1 w 0
    else
      let s2 := onRst (onWheel s1 w (fun x =>
        { x with svc := .inService, mem := { x.mem with st := 0 }, whey := { x.whey with st := 0 }, rnt := { x.rnt with st := 0 } }))
        (fun r => { r with wheels := r.wheels.filter (fun p => p.1 != w) })
      restoreWheel s2 w

/-! ## Die resets (R595) and escalation (R574) -/

/-- A die reset begins: its four wheels, its half of the bridge and its ports stop. -/
def beginDie (s : State) (d cause : Nat) : State :=
  if s.outOfService || s.rst.dies.any (fun p => p.1 == d) then s
  else
    let s1 := onRst (rstErr (rstBump s 4) 0x1 3 cause 0xF (4 * d) 0 0) (fun r => { r with dies := r.dies ++ [(d, cause)] })
    let s2 := (upto 4).foldl (fun s k => beginWheel s (4 * d + k) cause 3) { s1 with dieDown := insertNat d s1.dieDown }
    let s3 := onCrm s2 (fun c =>
      { c with st := tset 0 c.st d 1, ports := c.ports.map (fun p => if eDie s p.1 = d then (p.1, { p.2 with wait := [] }) else p) })
    portLoss s3 d

def execControlCoreWatchdog (die : Fin 2) (s : State) : Host.Outcome State Fault Refusal := .next (beginDie s die 0x0B09)

/-- DIE_RESET: the domain is reset, with its Creamery, Seal and port; the module then goes out of service. -/
def dieReset (s : State) (d : Nat) : State :=
  match s.rst.dies.find? (fun p => p.1 == d) with
  | none => s
  | some (_, cause) =>
    let s1 := pinSample (takeSample s (bareSample 3 0xF (4 * d) d 0 cause)) d 3 (4 * d)
    let s2 := (upto 4).foldl (fun s k =>
      let w := 4 * d + k
      staleFlows (onWheel (remoteBack (wheelLast s w 3 cause) w) w (fun x =>
        let y := washWheel x 4
        { y with svc := .out, whey := { y.whey with st := 2 }, rnt := { y.rnt with st := 2 } })) w) s1
    let s3 := onCrm s2 (fun c => { c with st := tset 0 c.st d 2, regs := tset [] c.regs d [] })
    let s4 := onPort { s3 with
      sea := { s3.sea with regs := tset [] s3.sea.regs d [], spdm := if d = 0 then [] else tset {} s3.sea.spdm d {}
                           nonces := if d = 0 then [] else s3.sea.nonces }
      clks := tmod {} s3.clks d (fun c => { c with regs := [], maxp := [], maxTarget := cdiv 256 c.cap, absent := upto 247 }) } d (fun p => { lost := p.lost, perst := p.perst })
    moduleOut (onRst s4 (fun r => { r with dies := r.dies.filter (fun p => p.1 != d), wheels := r.wheels.filter (fun p => p.1 / 4 != d) })) cause

def execDieReset (die : Fin 2) (s : State) : Host.Outcome State Fault Refusal := .next (dieReset s die)

/-- RESET_OVERRUN: the largest reset in progress on a wheel escalates: a die reset to the module out of service, a wheel
reset to a die reset, an engine reset to a wheel reset, and a context reset to the reset of each engine that still holds
an instance. -/
def resetOverrun (s : State) (w : Nat) : State :=
  let esc := fun (s : State) (level : Nat) => rstErr s 0x8 level 0x0B05 0xF w 0 0
  if s.outOfService then s
  else if s.rst.dies.any (fun p => p.1 == w / 4) then moduleOut (esc s 3) 0x0B05
  else if s.rst.wheels.any (fun p => p.1 == w) then beginDie (esc s 2) (w / 4) 0x0B05
  else if s.rst.fences.any (fun f => f.wheel == w) || s.rst.rewrites.any (fun f => f.wheel == w) then beginWheel (esc s 1) w 0x0B05 2
  else
    let cs := s.rst.ctxs.filter (fun c => !(unitsOf (wheelOf s w) c).isEmpty)
    if cs.isEmpty then s
    else cs.foldl (fun s c => (unitsOf (wheelOf s w) c).foldl (fun s u =>
        if 1 ≤ u.cls ∧ u.cls ≤ 5 then fenceUnit s ⟨w, u, 0x0B05, c, 0, true, 0x0B02⟩ else s) s)
      (onRst (esc s 0) (fun r => { r with ctxs := r.ctxs.filter (fun c => !(cs.contains c)) }))

def execResetOverrun (w : Fin 8) (s : State) : Host.Outcome State Fault Refusal := .next (resetOverrun s w)

/-! ## The trier stores (R584–R586, R602) -/

/-- TRIER_CTRL_WRITE: RELEASE frees a slot. -/
def trierCtrl (s : State) (word : Nat) : State :=
  if bitAt word 31 then onRst s (fun r => { r with trier := r.trier.filter (fun p => p.1 ≠ 8 * bits word 3 3 + bits word 2 0) }) else s

def execTrierCtrlWrite (word : Word) (s : State) : Host.Outcome State Fault Refusal := .next (trierCtrl s word.toNat)

/-- TRIER_DATA_READ: the word at the selected offset; OFFSET advances by 8. An empty slot reads as an open value. -/
def trierRead (s : State) : State :=
  let sel := s.rst.sel
  let k := bits sel 17 0 / 8
  let slot := 8 * bits sel 31 31 + bits sel 26 24
  let s1 := onRst s (fun r => { r with sel := sel / 2 ^ 18 * 2 ^ 18 + (bits sel 17 0 + 8) % 2 ^ 18 })
  match s.rst.trier.find? (fun p => p.1 == slot) with
  | some (_, t) => { s1 with rdVal := BitVec.ofNat 64 (sampleWord t k) }
  | none => { s1 with rdVal := Config.free s.free, free := s.free + 1 }

def execTrierDataRead (s : State) : Host.Outcome State Fault Refusal := .next (trierRead s)

end Sys2Proof.Machine
end

