-- ==== Sys2Proof/Machine/Clock.lean ====
section
/-!
DEFINITION. Sys2Proof/Machine/Clock.lean: clock islands under supply droop and the presence of domains to their crossings
(R604–R623). Periods are in sixteenths of the nominal period.
-/

namespace Sys2Proof.Machine

/-- CLK_ERR_STATUS with domain and code; offset 0x014 is not a register of this window. -/
def clkErr (c : Clk) (mask dom code : Nat) : Clk :=
  let r := if regGet c.regs 0x00C = 0 then regSet c.regs 0x010 (dom * 2 ^ 16 + code) else c.regs
  { c with regs := regSet r 0x00C (regGet r 0x00C ||| mask) }

/-- SUPPLY_DROOP: the supply needs a longer period of an island, `need`. One longer than twice the nominal holds the clock;
one that is no longer than what it needs already is no droop. -/
def droop (c : Clk) (k need : Nat) : Clk :=
  if islands ≤ k ∨ c.absent.contains k ∨ need ≤ tget 0 c.need k then c
  else
    let c1 := { c with need := tset 0 c.need k need }
    let c2 := { c1 with maxp := tset 0 c1.maxp k (max (tget 0 c1.maxp k) (islandPeriod c1 k)) }
    let c3 := if islandPeriod c2 k = 32 ∧ islandPeriod c k < 32 then clkErr c2 1 k 0 else c2
    if 32 < need ∧ c3.held.contains k = false then { c3 with held := insertNat k c3.held, regs := bump c3.regs 1 1 } else c3

def execSupplyDroop (die : Fin 2) (dom : Fin 256) (need : Nat) (s : State) : Host.Outcome State Fault Refusal :=
  .next (onClk s die (fun c => droop c dom need))

/-- DROOP_RECOVERY: the island goes on at the period that the supply allows; the clocks it stretched are counted, a number
that depends on real time. -/
def droopEnd (s : State) (d k need : Nat) : State :=
  let c := clkOf s d
  if islands ≤ k ∨ 32 < need ∨ tget 0 c.need k ≤ need then s
  else
    let n := if targetPeriod c < tget 0 c.need k then (Config.free s.free).toNat else 0
    { onClk s d (fun c => { c with need := tset 0 c.need k need, held := c.held.filter (· ≠ k), regs := bump c.regs 0 n }) with free := s.free + 1 }

def execDroopRecovery (die : Fin 2) (dom : Fin 256) (need : Nat) (s : State) : Host.Outcome State Fault Refusal :=
  .next (droopEnd s die dom need)

/-- ISLAND_HOLD_LONG (R609). -/
def holdLong (c : Clk) (k : Nat) : Clk := if c.held.contains k then clkErr c 2 k 0x0C02 else c

def execIslandHoldLong (die : Fin 2) (dom : Fin 256) (s : State) : Host.Outcome State Fault Refusal :=
  .next (onClk s die (fun c => holdLong c dom))

/-- The domain's reset has ended: it does not belong to a wheel that is out of service or to a die that was reset. -/
def domainBack (s : State) (d k : Nat) : Bool :=
  let w := 4 * d + (if k < 236 then k / 59 else k - 239)
  !(s.rst.dies.any (fun p => p.1 == d)) && !(s.dieDown.contains d)
    && (!(decide (k < 236) || (decide (239 ≤ k) && decide (k ≤ 242))) || (wheelOf s w).svc != .out)

/-- CROSSING_PRESENCE_RESTORE: the flag is set again (R618). The counters and pointers of a cell, its one VALUE, COUNT and
MESSAGE contents, are of no register: what passes a cell is what the commands of the two sides exchange. -/
def presenceBack (s : State) (d k : Nat) : State :=
  if domainBack s d k then onClk s d (fun c => { c with absent := c.absent.filter (· ≠ k) }) else s

def execCrossingPresenceRestore (die : Fin 2) (dom : Fin 256) (s : State) : Host.Outcome State Fault Refusal :=
  .next (presenceBack s die dom)

/-- The power controller sets CAP of a die (R607, R676). -/
def applyCap (c : Clk) (cap : Nat) : Clk :=
  let c1 := { c with cap := cap, maxTarget := max c.maxTarget (cdiv 256 cap) }
  if cap = 8 ∧ c.cap ≠ 8 then clkErr c1 1 0 0 else c1

/-- The clock statistics whose counts depend on real time advance by open values (R5, R612, R611, R606). -/
def clkDrift (s : State) (d : Nat) : State :=
  let n := fun (k : Nat) => (Config.free (s.free + k)).toNat
  { onClk s d (fun c => { c with regs := bump (bump (if c.need.any (fun p => decide (targetPeriod c < p.2)) then bump c.regs 0 (n 0) else c.regs) 3 (n 1)) 4 (n 2) })
    with free := s.free + 3 }

end Sys2Proof.Machine
end

