-- ==== Sys2Proof/Machine/Power.lean ====
section
/-!
DEFINITION. Sys2Proof/Machine/Power.lean: the power controller (R673–R688): sampling, CAP, alarms, telemetry, and the clean
shutdown with what it leaves (R569, R583, R596, R679, R680).
-/

namespace Sys2Proof.Machine

def onPwr (s : State) (f : Pwr → Pwr) : State := { s with pwr := f s.pwr }

/-- PWR_ERR_STATUS with the code of the first error; offset 0x014 is PWR_LAST_FAULT. -/
def pwrErr (s : State) (mask code : Nat) : State :=
  onPwr s (fun p =>
    let r := if regGet p.regs 0x00C = 0 then regSet p.regs 0x010 code else p.regs
    { p with regs := regSet r 0x00C (regGet r 0x00C ||| mask) })

def pwrBump (s : State) (k n : Nat) : State := onPwr s (fun p => { p with regs := bump p.regs k n })

/-- An alarm: its error bit, PWR_ALARMS, and IBI 0x03 where the spec gives one. -/
def pwrAlarm (s : State) (mask code : Nat) (ibi : Bool) : State :=
  let s1 := pwrBump (pwrErr s mask code) 2 1
  if ibi then raiseIbi s1 3 0xFF else s1

/-- POWER_LIMIT in W. -/
def powerLimit (s : State) : Nat := regGet s.pwr.regs 0x008 % 2048

/-! ## Sampling (R675, R678) -/

def low16 (x : Int) : Nat := wrapInt 16 x

/-- A sample above a shutdown limit. -/
def tooHot (q : PSample) : Bool := decide (1150 < q.die0) || decide (1150 < q.die1) || decide (1050 < q.gddr)

/-- A sample's telemetry by register: the regulators, the coolant and one rail are read with it. -/
def staged (q : PSample) (reg inlet outlet flow rail mv da : Nat) (r : Regs) : Regs :=
  let r1 := regSet (regSet r 0x024 (q.iin * 2 ^ 16 + q.vin)) 0x02C (low16 q.die1 * 2 ^ 16 + low16 q.die0)
  let r2 := regSet (regSet r1 0x030 (reg * 2 ^ 16 + low16 q.gddr)) 0x034 (outlet * 2 ^ 16 + inlet)
  regSet (regSet r2 0x038 flow) (0x100 + 4 * rail) (da * 2 ^ 16 + mv)

def powerSample (s : State) (q : PSample) (reg inlet outlet flow rail mv da : Nat) : State :=
  if s.pwr.off then s
  else onPwr s (fun p =>
    { p with samples := p.samples ++ [q], hotRun := if tooHot q then p.hotRun + 1 else 0
             stage := staged q reg inlet outlet flow rail mv da p.stage })

def execPowerSample (vin iin die0 die1 mem reg inlet outlet flow : BitVec 16) (rail : Fin 8) (mv da : BitVec 16) (s : State) :
    Host.Outcome State Fault Refusal :=
  .next (powerSample s ⟨vin.toNat, iin.toNat, die0.toInt, die1.toInt, mem.toInt⟩ reg.toNat inlet.toNat outlet.toNat flow.toNat
    rail mv.toNat da.toNat)

/-! ## The interval (R676, R677, R685) -/

/-- The sum of the samples' input power, in 0.1 mW. -/
def powerSum (qs : List PSample) : Nat := qs.foldl (fun n q => n + q.vin * q.iin) 0

def anyTemp (qs : List PSample) (die gddr : Int) : Bool := qs.any (fun q => decide (die < q.die0) || decide (die < q.die1) || decide (gddr < q.gddr))

/-- The next CAP, and the calm intervals counted: lowering wins, and a raise needs 1 ms below 95 % of the limit and 5 °C
below every temperature limit. -/
def nextCap (p : Pwr) (limit cap : Nat) : Nat × Nat :=
  let n := p.samples.length
  let sum := powerSum p.samples
  let excess := decide (limit * 10000 * n < sum)
  let hot := anyTemp p.samples 1000 950
  let calm := if decide (sum * 100 < limit * 950000 * n) && !(anyTemp p.samples 950 900) && !p.sensor then p.calm + 1 else 0
  if excess || hot then (max 8 (cap - 1), 0)
  else if 10 ≤ calm then (min 16 (cap + 1), calm)
  else (cap, calm)

/-- The counts of R677 after an interval: an alarm ends when its condition has been absent for 100 intervals. -/
def alarmCounts (p : Pwr) (power therm : Bool) : Pwr :=
  let goneA := if power then 0 else p.alarmGone + 1
  let goneT := if therm then 0 else p.thermGone + 1
  { p with
    alarmRun := if power then p.alarmRun + 1 else 0, thermRun := if therm then p.thermRun + 1 else 0
    alarmGone := goneA, thermGone := goneT
    alarm := p.alarm && decide (goneA < 100), thermal := p.thermal && decide (goneT < 100) }

/-- Energy, the 1 s mean and the telemetry, which is refreshed every 1 ms. -/
def telemetry (p : Pwr) (now mean : Nat) : Pwr :=
  let e := p.energy + mean
  let r := bumpAt p.regs 0x020 0 0x040 (e / 100000)
  let sum := p.avgSum + mean
  let full := decide (10000 ≤ p.avgN + 1)
  let avg := if full then sum / 10000 / 1000 else p.avg
  let stage := regSet p.stage 0x028 (avg % 2 ^ 16 * 2 ^ 16 + mean / 1000 % 2 ^ 16)
  { p with
    energy := e % 100000, regs := r, avg := avg, avgSum := if full then 0 else sum, avgN := if full then 0 else p.avgN + 1
    stage := stage, tele := if now % 10 = 0 then stage else p.tele, mean := mean }

def powerInterval (s : State) : State :=
  let s0 := { s with now := s.now + 1 }
  let p := s0.pwr
  if p.off then s0
  else
    let n := p.samples.length
    let cap := (clkOf s0 0).cap
    let (cap', calm) := if n = 0 then (cap, p.calm) else nextCap p (powerLimit s0) cap
    let excess := decide (0 < n) && decide (powerLimit s0 * 10000 * n < powerSum p.samples)
    let hot := anyTemp p.samples 1000 950
    let lower := excess || hot
    let mean := if n = 0 then p.mean else powerSum p.samples / n
    let byTemp := if lower then hot else p.byTemp
    let p1 := telemetry p s0.now mean
    let p2 := alarmCounts { p1 with samples := [], sensor := false, calm := calm, byPower := if lower then excess else p.byPower, byTemp := byTemp }
      (cap == 8 && excess) (decide (cap' < 16) && byTemp)
    let s1 := { s0 with pwr := { p2 with regs := if cap < 16 then bump p2.regs 1 100 else p2.regs } }
    let s2 := onClk (onClk s1 0 (fun c => applyCap c cap')) 1 (fun c => applyCap c cap')
    clkDrift (clkDrift s2 0) 1

def execPowerInterval (s : State) : Host.Outcome State Fault Refusal := .next (powerInterval s)

/-- POWER_ALARM: CAP 8 and power above the limit for 10 ms. -/
def powerAlarm (s : State) : State :=
  if !s.pwr.off && !s.pwr.alarm && decide (100 ≤ s.pwr.alarmRun) then
    pwrAlarm (onPwr s (fun p => { p with alarm := true })) 0x1 0x0F01 true
  else s

def execPowerAlarm (s : State) : Host.Outcome State Fault Refusal := .next (powerAlarm s)

def thermalRecord (s : State) : State :=
  if !s.pwr.off && !s.pwr.thermal && decide (100 ≤ s.pwr.thermRun) then
    pwrAlarm (onPwr s (fun p => { p with thermal := true })) 0x2 0x0F02 true
  else s

def execThermalLimitRecord (s : State) : Host.Outcome State Fault Refusal := .next (thermalRecord s)

/-! ## Coolant and sensors (R683) -/

def execCoolantFlowLow (s : State) : Host.Outcome State Fault Refusal := .next (if s.pwr.off then s else pwrAlarm s 0x4 0x0F07 true)
def execCoolantInletHot (s : State) : Host.Outcome State Fault Refusal := .next (if s.pwr.off then s else pwrAlarm s 0x8 0x0F08 true)

/-- SENSOR_FAULT: CAP falls to 8, and does not rise in an interval in which a sensor failed. -/
def sensorFault (s : State) : State :=
  if s.pwr.off then s
  else
    let s1 := onPwr (pwrAlarm s 0x10 0x0F09 false) (fun p => { p with sensor := true, byTemp := true, byPower := false })
    onClk (onClk s1 0 (fun c => applyCap c 8)) 1 (fun c => applyCap c 8)

def execSensorFault (s : State) : Host.Outcome State Fault Refusal := .next (sensorFault s)

/-! ## The input and clean shutdown (R673, R679, R680) -/

def execInputDip (s : State) : Host.Outcome State Fault Refusal := .next (if s.pwr.off then s else pwrErr s 0x20 0x0F0A)
def execInputSurge (s : State) : Host.Outcome State Fault Refusal := .next (if s.pwr.off then s else pwrErr s 0x20 0x0F0A)

/-- What a port keeps without power: the level of PERST#. -/
def portOff (p : Port) : Port := { perst := p.perst }

/-- What survives a reset of both dies: the product and its serial number, flash, fuses, the fault log and start times, the
powered time, and what lies outside the module. -/
def afterOff (s : State) : State :=
  { pending := s.pending, small := s.small, serial := s.serial, now := s.now, free := s.free
    ports := s.ports.map (fun p => (p.1, portOff p.2)), hosts := s.hosts, out := s.out, unwashedFlash := s.unwashedFlash
    rst := { starts := s.rst.starts, faultLog := s.rst.faultLog }
    cul := { flash := s.cul.flash, noFlash := s.cul.noFlash, regs := s.cul.regs.filter (fun r => r.1 = 0x040) }
    sea := { lc := s.sea.lc, refurb := s.sea.refurb, fwSvn := s.sea.fwSvn, culSvn := s.sea.culSvn, fwRevoked := s.sea.fwRevoked
             ownerValid := s.sea.ownerValid, ownerRevoked := s.sea.ownerRevoked, ownerKeys := s.sea.ownerKeys
             noSecret := s.sea.noSecret, lcResult := s.sea.lcResult } }

/-- A clean shutdown: the standby controller latches the fault and drives ALERT# low; the links go down, the rails go off,
and GDDR7 and the trier stores are lost. After over-temperature or a rail fault the module is held off. -/
def shutdown (s : State) (code rail : Nat) : State :=
  if s.pwr.off then s
  else
    let s1 := afterOff s
    { s1 with
      cul := { s1.cul with alert := true }
      pwr := { off := true, hold := decide (code = 0x0F03 ∨ code = 0x0F04), lastFault := 2 ^ 31 + rail % 8 * 2 ^ 16 + code } }

def execOverTemperatureShutdown (s : State) : Host.Outcome State Fault Refusal :=
  .next (if 10 ≤ s.pwr.hotRun then shutdown s 0x0F03 0 else s)
def execRailFault (rail : Fin 8) (s : State) : Host.Outcome State Fault Refusal := .next (shutdown s 0x0F04 rail)
def execUndervoltage (s : State) : Host.Outcome State Fault Refusal := .next (shutdown s 0x0F05 0)
def execOvervoltage (s : State) : Host.Outcome State Fault Refusal := .next (shutdown s 0x0F06 0)

/-- SHUTDOWN_HOLD_RELEASE: the input has stayed below 40.0 V for 1 s. -/
def execShutdownHoldRelease (s : State) : Host.Outcome State Fault Refusal :=
  .next (if s.pwr.off then onPwr s (fun p => { p with hold := false }) else s)

/-- AUXILIARY_INPUT_LOSS: the standby controller stops; with the module off, nothing drives ALERT#. -/
def auxLoss (s : State) : State :=
  let s1 := onPwr s (fun p => { p with lastFault := 0 })
  if s.pwr.off then { s1 with cul := { s1.cul with alert := false } } else s1

def execAuxiliaryInputLoss (s : State) : Host.Outcome State Fault Refusal := .next (auxLoss s)

end Sys2Proof.Machine
end

