-- ==== Sys2Proof/Machine/Startup.lean ====
section
/-!
DEFINITION. Sys2Proof/Machine/Startup.lean: the flash and its images (R624, R625, R629–R635, R653, R654), the start-up
sequence (R626–R628, R632, R633), and the module reset (R642).
-/

namespace Sys2Proof.Machine

/-! ## Flash -/

def flashRead (s : State) (a n : Nat) : List Byte := rdMem 0xFF s.cul.flash a n
def flashWrite (s : State) (a : Nat) (bs : List Byte) : State := { s with cul := { s.cul with flash := wrMem 0xFF s.cul.flash a bs } }

def fwBase : Nat := 0
def fwRegion : Nat := 0x2000000
def culBase : Nat := 0x2000000
def culRegion : Nat := 0x1000000
def keptBase : Nat := 0x3000000

/-- The verdict on an image: code, failing offset, its bytes (none where it was not read), and whether a signature was
checked. -/
structure Verdict where
  code : Nat
  at_ : Nat
  bytes : List Byte
  checked : Bool
  deriving DecidableEq, Repr

/-- The offset of the first check that fails. -/
def firstFailing (cs : List (Nat × Bool)) : Option Nat := (cs.find? (fun c => !c.2)).map (·.1)

def zeroAt (b : List Byte) (o n : Nat) : Bool := ((b.drop o).take n).all (· == 0)

/-- The header fields that a firmware image (R653) and a culture image (R629, R630) share, before the signature is
checked. -/
def headChecks (h : List Byte) (magic lo hi : Nat) : List (Nat × Bool) :=
  [(0x00, leAt h 0 4 == magic), (0x04, leAt h 4 4 == 1), (0x08, decide (lo ≤ leAt h 8 4) && decide (leAt h 8 4 ≤ hi)),
   (0x20, leAt h 0x20 4 == leAt h 8 4 - 160)]

/-- The public keys of the boot ROM. -/
def romKeyBytes (k : Nat) : List Byte := leBytes 133 (Config.romKey k).toNat
def named (key : List Byte) : List Byte × List Byte := (keyId key, key)

/-- The Umlia firmware keys that are not revoked (R652). -/
def fwKeys (s : State) : List (List Byte × List Byte) :=
  if s.sea.lc = 4 then [] else ((upto 4).filter (fun k => !(bitAt s.sea.fwRevoked k))).map (fun k => named (romKeyBytes k))

/-- The owner keys that are valid and not revoked. -/
def ownerKeysNow (s : State) : List (List Byte × List Byte) :=
  ((upto 8).filter (fun k => bitAt s.sea.ownerValid k && !(bitAt s.sea.ownerRevoked k))).map (fun k => named (tget [] s.sea.ownerKeys k))

/-- The keys that may sign a culture image in the present life-cycle state (R652). -/
def culKeys (s : State) : List (List Byte × List Byte) :=
  (if s.sea.lc = 0 ∨ s.sea.lc = 1 ∨ s.sea.lc = 3 then [named (romKeyBytes 4)] else [])
    ++ (if s.sea.lc = 1 ∨ s.sea.lc = 2 then ownerKeysNow s else [])

/-- Check an image in flash: header, signature, security version. -/
def imageCheck (s : State) (base region magic lo hi bad svn : Nat) (keys : List (List Byte × List Byte))
    (more : List (Nat × Bool)) : Verdict :=
  if s.cul.noFlash then ⟨0x0D04, 0, [], false⟩
  else
    let h := flashRead s base 64
    let b := flashRead s base (min region (leAt h 8 4))
    match firstFailing (headChecks h magic lo hi ++ more) with
    | some o => ⟨bad, o, b, false⟩
    | none =>
      let sig := leAt h 0x20 4
      if !(sectionVerifies keys (b.take sig) (b.drop sig)) then ⟨bad, sig, b, true⟩
      else if leAt h 0x18 4 < svn then ⟨0x0D09, 0x18, b, true⟩
      else ⟨0, 0, b, true⟩

/-- Step 3: the firmware image. Its other header bytes are zero. -/
def fwCheck (s : State) : Verdict :=
  let h := flashRead s fwBase 64
  imageCheck s fwBase fwRegion 0x5746584F 512 33554432 0x0D03 s.sea.fwSvn (fwKeys s)
    [(0x0C, zeroAt h 0x0C 12), (0x1C, zeroAt h 0x1C 4), (0x24, zeroAt h 0x24 28)]

/-! ## Culture fields (R630, R631) -/

def inRange (x lo hi : Nat) : Bool := decide (lo ≤ x) && decide (x ≤ hi)

/-- The checks of the culture's fields, in ascending offset order. -/
def cultureChecks (b : List Byte) (serial : Nat) : List (Nat × Bool) :=
  let w := fun (o : Nat) => leAt b o 4
  let f := fun (o hi lo : Nat) => bits (leAt b o 4) hi lo
  let nk := leAt b 0x200 1
  let ports := match f 0xA0 1 0 with
    | 0 => 2
    | 1 => 4
    | _ => 8
  let v6 := f 0xA0 2 2 == 1
  let addr := fun (o : Nat) => beNat ((b.drop o).take 16)
  let v4ok := fun (o : Nat) => v6 || zeroAt b o 12
  let key := fun (k : Nat) => (b.drop (0x220 + 160 * k)).take 160
  [(0x08, decide (704 + 160 * nk ≤ w 8)), (0x0C, zeroAt b 0x0C 4), (0x10, leAt b 0x10 8 == 0 || leAt b 0x10 8 == serial)
   , (0x1C, zeroAt b 0x1C 4), (0x24, zeroAt b 0x24 28)
   , (0x40, decide (f 0x40 1 0 ≤ 2) && f 0x40 3 2 == 0 && f 0x40 31 18 == 0), (0x44, decide (w 0x44 ≤ 600000))
   , (0x48, inRange (f 0x48 7 0) 1 168 && inRange (f 0x48 11 8) 1 15 && f 0x48 15 12 == 0 && inRange (f 0x48 31 16) 1 1440)
   , (0x4C, (upto 8).all (fun k => f 0x4C (2 * k + 1) (2 * k) != 3) && f 0x4C 31 16 == 0), (0x50, inRange (w 0x50) 100 1000000)
   , (0x54, inRange (f 0x54 7 0) 5 200 && f 0x54 15 8 == 0 && inRange (f 0x54 26 16) 300 1250 && f 0x54 31 27 == 0)
   , (0x58, zeroAt b 0x58 8)]
  ++ (upto 8).map (fun k =>
    let x := leAt b (0x60 + 8 * k) 8
    let shares := (upto 5).map (fun j => bits x (12 * j + 11) (12 * j))
    (0x60 + 8 * k, shares.all (· % 32 == 0) && shares.foldl (· + ·) 0 == 2048 && bits x 63 60 == 0))
  ++ [(0xA0, decide (f 0xA0 1 0 ≤ 2) && (if f 0xA0 3 3 = 1 then decide (f 0xA0 15 4 ≤ 0xFFE) else f 0xA0 15 4 == 0) && decide (1024 ≤ f 0xA0 31 16))
      , (0xA4, inRange (f 0xA4 11 0) 1 4094 && f 0xA4 14 12 != f 0xA4 18 16 && f 0xA4 15 15 == 0 && f 0xA4 23 19 == 0 && f 0xA4 31 30 == 0)
      , (0xA8, f 0xA8 5 0 != f 0xA4 29 24 && f 0xA8 7 6 == 0 && decide (f 0xA8 15 8 ≤ 127) && decide (f 0xA8 17 16 ≤ 2) && f 0xA8 19 18 == 0
          && decide (f 0xA8 22 20 < ports) && f 0xA8 23 23 == 0 && inRange (f 0xA8 26 24) 1 7 && f 0xA8 31 27 == 0)
      , (0xAC, inRange (f 0xAC 15 0) 100 2000 && f 0xAC 31 16 == 0)]
  ++ (upto 8).map (fun p => (0xB0 + 16 * p, v4ok (0xB0 + 16 * p)
      && (decide (ports ≤ p) || decide (addr (0xB0 + 16 * p) + 0xFFE < (if v6 then 2 ^ 128 else 2 ^ 32)))))
  ++ (upto 8).map (fun p => (0x130 + 16 * p, v4ok (0x130 + 16 * p)))
  ++ [(0x1B0, zeroAt b 0x1B0 80), (0x200, decide (nk ≤ 16) && zeroAt b 0x201 31)]
  ++ (upto nk).map (fun k => (0x220 + 160 * k, zeroAt (key k) 141 19 && (upto k).all (fun j => (key j).take 8 != (key k).take 8)))
  ++ [(0x220 + 160 * nk, zeroAt b (0x220 + 160 * nk) (w 0x20 - (0x220 + 160 * nk)))]

/-- Step 4: the culture image. -/
def culCheck (s : State) : Verdict :=
  let v := imageCheck s culBase culRegion 0x5543584F 704 16777216 0x0D01 s.sea.culSvn (culKeys s) []
  if v.code = 0 ∨ v.code = 0x0D09 then
    match firstFailing (cultureChecks v.bytes s.serial.toNat) with
    | some o => ⟨0x0D02, o, v.bytes, true⟩
    | none => v
  else v

/-! ## Errors of the start (R646, R647) -/

def culErr (s : State) (mask info detail : Nat) : State := { s with cul := { s.cul with regs := errSet s.cul.regs mask info detail } }
def culBump (s : State) (k n : Nat) : State := { s with cul := { s.cul with regs := bump s.cul.regs k n } }
def setStep (s : State) (n : Nat) : State := { s with cul := { s.cul with step := n } }

/-- The bit of CUL_ERR_STATUS for a code. -/
def culMask (code : Nat) : Nat := if code = 0x0D04 ∨ code = 0x0D06 ∨ code = 0x0D07 then 2 else 1

/-! ## The module reset (R642) -/

/-- A module reset: sample, then everything that a start clears; GDDR7 contents stay in self-refresh, and so do the trier
stores, the standby controller's record, ALERT# and the SPDM-independent fuses. The start that follows runs from step 2. -/
def moduleReset (s : State) : State :=
  let s1 := takeSample s (bareSample 4 0xF 0 0 0 0)
  let s2 := afterOff s1
  { s2 with
    wheels := (upto 8).foldl (fun t w => tset {} t w { ({} : Wheel) with mem := { cells := (wheelOf s1 w).mem.cells, bad := (wheelOf s1 w).mem.bad } }) []
    rst := { s2.rst with trier := s1.rst.trier }
    cul := { s2.cul with alert := s1.cul.alert, restart := true }
    pwr := { lastFault := s1.pwr.lastFault } }

/-- CUL_CTRL_WRITE: RESET with KEY 0x5A5A. -/
def culCtrl (s : State) (word : Nat) : State :=
  if bitAt word 31 ∧ word % 2 ^ 16 = 0x5A5A ∧ s.pwr.off = false then moduleReset s else s

def execCulCtrlWrite (word : Word) (s : State) : Host.Outcome State Fault Refusal := .next (culCtrl s word.toNat)

/-! ## The steps of a start -/

/-- The features that revision B0 offers (R522), and those of recovery mode (R633). -/
def offerAll : Nat := 0x3F
def offerRecovery : Nat := 0x11

/-- Hot-Join is due where step 6 ends without an address (R638). -/
def openEndpoint (s : State) : State := { s with cul := { s.cul with hotJoin := s.cul.hotJoin || s.cul.da.isNone } }

/-- Recovery mode (R633). -/
def enterRecovery (s : State) (code sel at_ : Nat) : State :=
  let s1 := culErr { s with recovery := true, offer := offerRecovery } (culMask code) (sel * 2 ^ 16 + code) at_
  raiseIbi (openEndpoint s1) 4 0xFF

/-- Culture values reach the blocks (R632, R514, R475). -/
def applyCulture (s : State) (b : List Byte) : State :=
  let f := fun (o hi lo : Nat) => bits (leAt b o 4) hi lo
  let s1 := { s with
    culture := b, signedPlans := f 0x40 16 16 == 1, migrEn := f 0x40 17 17 == 1, adoptMs := leAt b 0x44 4
    migrImbal := f 0x54 7 0, assign := (upto 8).map (fun w => f 0x4C (2 * w + 1) (2 * w)) }
  let s2 := onRst s1 (fun r => { r with regs := regSet r.regs 0x008 (f 0x48 31 16 * 2 ^ 16 + f 0x48 11 8) })
  let s3 := onPwr s2 (fun p => { p with regs := regSet p.regs 0x008 (f 0x54 26 16) })
  (upto 8).foldl (fun s w => onWheel s w (fun x =>
    let sp := leAt b (0x60 + 8 * w) 8
    { x with saveSlots := f 0x40 1 0, yieldWait := f 0x40 15 4, mem := { x.mem with scrubHours := f 0x48 7 0 }
             mld := { x.mld with shares := (upto 5).map (fun j => bits sp (12 * j + 11) (12 * j)) } })) s3

/-- The pinned node number (R475). -/
def pinNode (s : State) : State :=
  if culF s 0xA0 3 3 = 1 then { s with node := culF s 0xA0 15 4, cul := { s.cul with node := true, pinned := true } } else s

/-- Training of a wheel's devices at a start (R552, R553). -/
def trainWheel (s : State) (lane dev : Nat) (w : Nat) : State :=
  let l := bits lane (8 * w + 7) (8 * w)
  let d := bits dev (8 * w + 7) (8 * w)
  onWheel s w (fun x =>
    let m := { x.mem with laneFail := l, devFail := d, posOk := 255 - (l ||| d), st := if l = 0 ∧ d = 0 then 0 else 4 }
    if l = 0 ∧ d = 0 then { x with mem := m }
    else { x with svc := .out, mem := m, whey := { x.whey with st := 2 }, rnt := { x.rnt with st := 2 } })

/-- Step 9 for a wheel that trained: an UNWASHED wheel is washed and its mark cleared (R567); one whose reset count still
meets the limit stays out of service (R596). -/
def settleWheel (s : State) (w : Nat) : State :=
  if (wheelOf s w).svc = .out then onWheel s w (fun x => onMem x (fun m => { m with unwashed := s.unwashedFlash.contains w }))
  else
    let s1 := if s.unwashedFlash.contains w then
        { onWheel s w (fun x => onMem x (fun m => memWash m 0 (backedBytes s))) with unwashedFlash := s.unwashedFlash.filter (· ≠ w) }
      else s
    if resetLimit s1 ≤ resetCount s1 w then
      onWheel s1 w (fun x => { x with svc := .out, mem := { x.mem with st := 4 }, whey := { x.whey with st := 2 }, rnt := { x.rnt with st := 2 } })
    else s1

/-- The wheels that a start leaves out of service are reported (R640), with 0x0B07 where the reset count holds them. -/
def reportOut (s : State) : State :=
  (upto 8).foldl (fun s w =>
    let x := wheelOf s w
    if x.svc = .out then raiseIbi (rstErr s 0x10 2 (if x.mem.laneFail ||| x.mem.devFail = 0 then 0x0B07 else 0) 0xF w 0 0) 2 w else s) s

/-- Step 10. -/
def finishStart (s : State) (ms : Nat) : State :=
  let s1 := reportOut { setStep s 10 with offer := offerAll }
  let s2 := { s1 with cul := { s1.cul with done := true, startMs := ms } }
  let outs := ((upto 8).filter (fun w => (wheelOf s2 w).svc == .out)).length
  raiseIbi (if 2 ≤ outs then moduleOut s2 0 else s2) 5 0xFF

/-- Steps 5 to 10, after both images were accepted. -/
def startSteps (s : State) (fw cul : List Byte) (lane dev ms : Nat) : State :=
  let s1 := applyCulture s cul
  let s2 := { s1 with cul := { s1.cul with versions := leAt fw 0x18 4 * 2 ^ 32 + leAt cul 0x18 4 } }
  let s3 := openEndpoint (pinNode (setStep s2 6))
  let s4 := (upto 8).foldl (fun s w => trainWheel s lane dev w) (setStep s3 8)
  let s5 := (upto 8).foldl settleWheel (setStep s4 9)
  finishStart s5 ms

/-- Step 2: the lanes come out of reset; ports whose PERST# is deasserted train. -/
def linkPorts (s : State) (lanes : Nat) : State :=
  let s1 := (upto 2).foldl (fun s p => if (portOf s p).perst then s else onPort s p (fun x => { x with up := true, lost := false })) s
  if lanes % 4 = 0 then s1 else culErr s1 0x20 0 0

/-- Note an image in the Seal of die 0: its digest, the bytes hashed, and a signature check (R660, R670, R671). -/
def noteImage (s : State) (v : Verdict) (fw : Bool) : State :=
  let s1 := sealNote s 0 v.checked (v.code == 0 || v.code == 0x0D09 || v.code == 0x0D02) v.bytes.length
  let s2 := if v.code = 0x0D01 ∨ v.code = 0x0D03 then sealErr s1 0 1 v.code else s1
  { s2 with sea := if fw then { s2.sea with fwDigest := sha512 v.bytes } else { s2.sea with culDigest := sha512 v.bytes } }

/-- The start-up sequence (R626). `answers`: the flash answers with a valid SFDP; `lanes`: bit p, an
open or shorted lane of port p; `lane` and `dev`: byte w, the positions of wheel w of which a lane failed or a device did
not respond; `ms`: the duration. -/
def runStart (s : State) (answers : Bool) (lanes lane dev ms : Nat) : State :=
  let s1 := culBump { s with pwr := { s.pwr with off := false }, cul := { s.cul with noFlash := !answers, restart := false } } 0 1
  let s2 := linkPorts (setStep s1 2) lanes
  if s2.sea.lc = 4 then s2
  else if !answers then
    enterRecovery { s2 with sea := { s2.sea with fwDigest := sha512 [], culDigest := sha512 [] } } 0x0D04 0 0
  else
    let vf := fwCheck s2
    let s3 := noteImage (setStep s2 3) vf true
    if vf.code ≠ 0 then enterRecovery { s3 with sea := { s3.sea with culDigest := sha512 [] } } vf.code 0 vf.at_
    else
      let vc := culCheck s3
      let s4 := noteImage (setStep s3 4) vc false
      if vc.code ≠ 0 then enterRecovery s4 vc.code 1 vc.at_ else startSteps s4 vf.bytes vc.bytes lane dev ms

/-- POWER_ON: a module that has power and is not held off starts, from step 1, or from step 2 after a module reset. One that
has started runs on. -/
def powerOn (s : State) (answers : Bool) (lanes lane dev ms : Nat) : State :=
  if s.pwr.hold ∨ s.cul.step ≠ 1 ∨ s.recovery then s else runStart s answers lanes lane dev ms

def execPowerOn (answers : Bool) (lanes : BitVec 2) (lane dev : DWord) (ms : Word) (s : State) : Host.Outcome State Fault Refusal :=
  .next (powerOn s answers lanes.toNat lane.toNat dev.toNat ms.toNat)

/-! ## The node number (R475, R641) -/

/-- CUL_NODE_WRITE through the management bus: the first number after step 6, unless one is pinned. -/
def nodeWrite (s : State) (word : Nat) : State :=
  if s.cul.node ∨ s.cul.step ≤ 6 ∨ word % 2 ^ 12 = 0xFFF then s
  else { s with node := word % 2 ^ 12, cul := { s.cul with node := true } }

def execCulNodeWrite (word : Word) (s : State) : Host.Outcome State Fault Refusal := .next (nodeWrite s word.toNat)

/-! ## ALERT# (R643) -/

/-- ALERT_PIN_FAULT: the pin reads low while released. -/
def execAlertPinFault (s : State) : Host.Outcome State Fault Refusal :=
  .next (if s.cul.alert ∨ s.pwr.off then s else culErr s 0x10 0 0)

end Sys2Proof.Machine
end

