-- ==== Sys2Proof/Machine/HostCmd.lean ====
section
/-!
DEFINITION. Sys2Proof/Machine/HostCmd.lean: the commands that hosts submit (R524–R530), but for SEAL: when one starts, the
checks that every command undergoes, its effect, and its completion; and reads of host memory that time out.
-/

namespace Sys2Proof.Machine

/-! ## Order (R527, R459) -/

/-- The commands accepted before one in its context, without CANCEL and CLOSE. -/
def earlierCmds (s : State) (ctx : Nat) (h : HCmd) : List HCmd :=
  ((ctxOf s ctx).cmds.takeWhile (fun k => k.seq != h.seq)).filter (fun k => !(cmdEarly k))

/-- No load, unload, resume, flash or SEAL command that any port's context accepted earlier is outstanding; a record not
started of an ORPHANED context waits without holding the others. -/
def orderedTurn (s : State) (h : HCmd) : Bool :=
  s.ctxs.all (fun c => c.2.cmds.all (fun k =>
    !(cmdOrdered k) || decide (h.order ≤ k.order) || (c.2.st == .orphaned && !k.started)))

/-- An accepted record may start now (R527, R535, R537, R568). -/
def startable (s : State) (ctx : Nat) (h : HCmd) : Bool :=
  (ctxOf s ctx).st == .openC && !h.started && recRoom s ctx && !s.sea.busy
    && (cmdEarly h
      || ((earlierCmds s ctx h).all (fun k => k.started && k.taken) && (!(cmdFence h) || (earlierCmds s ctx h).isEmpty)
        && (!(cmdOrdered h) || orderedTurn s h)))

/-- A command starts; every command but a SUBMIT is taken then. -/
def startCmd (s : State) (ctx : Nat) (h : HCmd) : State :=
  let s1 := onCtx s ctx (fun x => { x with cmds := x.cmds.map (fun k => if k.seq == h.seq then { k with started := true } else k) })
  if cmdOp h = 0x05 then s1 else takeCmd s1 ctx h

/-! ## The checks of every command (R526, R521, R598, R633, R524, R529) -/

def addrMask : Nat := 0x61FFFFFFFFFFFFFF
def caveMask : Nat := 0x7FFFFFF07
def fullMask : Nat := 0xFFFFFFFFFFFFFFFF

/-- The bits of P0 to P5 that a command uses. -/
def cmdMasks (op : Nat) : Option (List Nat) :=
  match op with
  | 0x00 => some []
  | 0x01 => some []
  | 0x02 => some [addrMask, addrMask]
  | 0x03 => some []
  | 0x04 => some [0xFFFFFFFF, addrMask]
  | 0x05 => some [0xFFFFF7FFFFFF]
  | 0x06 => some [0xBFFF]
  | 0x07 => some [0xBFFF]
  | 0x08 => some [addrMask, caveMask, fullMask]
  | 0x09 => some [addrMask, caveMask, fullMask]
  | 0x0A => some [0x7FFFFFF07F7]
  | 0x0B => some [fullMask, fullMask, fullMask, fullMask, 7]
  | 0x0C => some [fullMask]
  | 0x0D => some [fullMask, fullMask]
  | 0x0E => some []
  | 0x0F => some [addrMask, fullMask, fullMask]
  | 0x10 => some []
  | 0x11 => some [fullMask, fullMask, fullMask, fullMask, fullMask, fullMask]
  | _ => none

def recoveryOp (op : Nat) : Bool := [0x00, 0x01, 0x0E, 0x0F, 0x10].contains op

/-- The feature bit that a command needs (R522, R529). -/
def cmdFeature (h : HCmd) : Option Nat :=
  match cmdOp h with
  | 0x08 => some 2
  | 0x09 => some 2
  | 0x0B => if bits (cmdP h 0) 59 58 = 1 then some 2 else none
  | 0x0F => some 4
  | 0x10 => some 4
  | _ => none

/-- The logical wheel a command names. -/
def cmdWheel (h : HCmd) : Option Nat :=
  match cmdOp h with
  | 0x05 => some (bits (cmdP h 0) 26 24)
  | 0x08 => some (bits (cmdP h 1) 2 0)
  | 0x09 => some (bits (cmdP h 1) 2 0)
  | 0x0A => some (bits (cmdP h 0) 2 0)
  | 0x0B => some (bits (cmdP h 4) 2 0)
  | _ => none

/-- The physical wheel a command names. -/
def cmdPhys (s : State) (ctx : Nat) (h : HCmd) : Option Nat :=
  match planOf s ctx, cmdWheel h with
  | some p, some lw => physOf p lw
  | _, _ => none

/-- The code that stops a command before its effect, 0 for none. -/
def cmdCheck (s : State) (ctx : Nat) (h : HCmd) : Nat :=
  let acc := (portOf s (ctxOf s ctx).owner).accept
  match cmdMasks (cmdOp h) with
  | none => 0x0901
  | some ms =>
    if bits (leAt h.raw 0 8) 31 10 ≠ 0 ∨ bits (leAt h.raw 0x38 8) 31 8 ≠ 0 ∨ (upto 6).any (fun k => cmdP h k &&& nth 0 ms k != cmdP h k) then
      0x0901
    else if s.outOfService ∧ cmdOp h ≠ 0x0E then 0x0003
    else if s.recovery ∧ recoveryOp (cmdOp h) = false then 0x0D05
    else if (cmdNocpl h && !(bitAt acc 5)) || (cmdFeature h).any (fun b => !(bitAt acc b)) then 0x0905
    else if cmdTimeout h ≠ 0 ∧ (cmdTimeout h < 10 ∨ 60000000 < cmdTimeout h) then 0x0907
    else match cmdWheel h with
      | none => 0
      | some _ =>
        if (planOf s ctx).isNone then 0x090C
        else match cmdPhys s ctx h with
          | none => 0x0907
          | some w => reachCode s (fwWheel s ctx) w

/-! ## Records without a row -/

/-- An unlisted opcode, or a reserved subcommand of SEAL. -/
def rowless (h : HCmd) : Bool :=
  (cmdMasks (cmdOp h)).isNone || (cmdOp h == 0x11 && !(decide (1 ≤ cmdP h 0 % 256) && decide (cmdP h 0 % 256 ≤ 6)))

/-- Complete a startable record without a row: with 0x0901, or 0x0E08 for a subcommand (R526, R663). -/
def endRowless (s : State) (ctx : Nat) (h : HCmd) : State :=
  let s1 := startCmd s ctx h
  let code := cmdCheck s1 ctx h
  cmdDone s1 ctx h (if code = 0 then 0x0E08 else code) 0 0 0

def clearGo (ctx : Nat) : Nat → State → State
  | 0, s => s
  | n + 1, s =>
    match (ctxOf s ctx).cmds.find? (fun h => rowless h && startable s ctx h) with
    | none => s
    | some h => clearGo ctx n (endRowless s ctx h)

/-- Complete every record without a row that can start. -/
def clearRowless (s : State) (ctx : Nat) : State := clearGo ctx (ctxOf s ctx).cmds.length s

/-! ## One row -/

/-- Run the accepted record (ctx, seq) where it is a command of the kind `isOne`: it starts, if its turn has come, with
`run` after the checks; a command in progress goes on with `more`. -/
def hostRow (s : State) (ctx seq : Nat) (isOne : HCmd → Bool) (run more : State → Nat → HCmd → State) : State :=
  let s0 := clearRowless s ctx
  match findCmd s0 ctx seq with
  | none => s0
  | some h =>
    if isOne h = false then s0
    else if h.started then more s0 ctx h
    else if startable s0 ctx h = false then s0
    else
      let s1 := startCmd s0 ctx h
      let code := cmdCheck s1 ctx h
      if code ≠ 0 then cmdDone s1 ctx h code 0 0 0 else run s1 ctx h

def isOp (op : Nat) (h : HCmd) : Bool := cmdOp h == op

/-- A command that ends when it starts has nothing to go on with. -/
def noMore (s : State) (_ctx : Nat) (_h : HCmd) : State := s

def done0 (s : State) (ctx : Nat) (h : HCmd) (code : Nat) : State := cmdDone s ctx h code 0 0 0

/-! ## NOP, FENCE -/

def runNop (s : State) (ctx : Nat) (h : HCmd) : State := done0 s ctx h 0

def execHostNop (x : Fin 1024) (seq : Nat) (s : State) : Host.Outcome State Fault Refusal :=
  .next (hostRow s x seq (isOp 0x00) runNop noMore)

def moreFence (s : State) (ctx : Nat) (h : HCmd) : State := if (earlierCmds s ctx h).isEmpty then done0 s ctx h 0 else s

def execFence (x : Fin 1024) (seq : Nat) (s : State) : Host.Outcome State Fault Refusal :=
  .next (hostRow s x seq (isOp 0x01) moreFence moreFence)

/-! ## LOAD, UNLOAD, RESUME (R457–R467) -/

def runLoad (s : State) (ctx : Nat) (h : HCmd) : State :=
  let r := loadPlan s ctx (cmdP h 0) (cmdP h 1)
  cmdDone r.1 ctx h r.2.1 r.2.2.1 0 r.2.2.2

def execLoad (x : Fin 1024) (seq : Nat) (s : State) : Host.Outcome State Fault Refusal :=
  .next (hostRow s x seq (isOp 0x02) runLoad noMore)

/-- UNLOAD (R467): once every instance in service, and every stream armed by a command, has completed, the rows return home,
the held ranges are swept, and the claims are freed. -/
def moreUnload (s : State) (ctx : Nat) (h : HCmd) : State :=
  if !(ctxQuiet s ctx) then s
  else
    let s1 := rowsHome s ctx
    if !(ctxSwept s1 ctx []) then sweepAway s1 ctx []
    else done0 (onCtx (unloadEnd s1 ctx) ctx (fun x => { x with submits := [] })) ctx h 0

def runUnload (s : State) (ctx : Nat) (h : HCmd) : State :=
  if (planOf s ctx).isNone then done0 s ctx h 0x0937 else moreUnload (cancelCtx s ctx) ctx h

def execUnload (x : Fin 1024) (seq : Nat) (s : State) : Host.Outcome State Fault Refusal :=
  .next (hostRow s x seq (isOp 0x03) runUnload moreUnload)

def runResume (s : State) (ctx : Nat) (h : HCmd) : State :=
  let r := resumePlan s ctx (bits (cmdP h 0) 15 0) (bits (cmdP h 0) 31 16) (cmdP h 1)
  done0 r.1 ctx h r.2

def execResume (x : Fin 1024) (seq : Nat) (s : State) : Host.Outcome State Fault Refusal :=
  .next (hostRow s x seq (isOp 0x04) runResume noMore)

/-! ## SUBMIT (R530, R434, R465) -/

/-- The code of a CMD operand that is not stored, 0 for one that may be. -/
def operandCode (x : Wheel) (o : OpRec) (iter slot : Nat) : Nat :=
  let early := match findPass x.rnt o.ctx iter with
    | some p => match p.resumed with
      | some n => decide (o.layer ≤ n)
      | none => false
    | none => false
  let f := flowOf x.rnt o.flow
  if early then 0x0706
  else if f.st = .cancelled then 0x0701
  else if f.st = .failed then 0x0702
  else match findInst x.rnt o.ctx o.opid iter with
    | some i => if i.filled.contains slot then 0x0705 else 0
    | none => 0

/-- The pass of the operand is open, or may be opened: no wheel of the part has four passes of the context or is being reset,
and ITER lies within the window of the open passes (R413, R430). -/
def passReady (s : State) (p : Plan) (ctx iter : Nat) : Bool :=
  passOpen s p ctx iter || ((partWheels p).all (fun w => !(passesFull s w ctx) && (wheelOf s w).svc != .resetting)
    && iterInWindow (iterOpens s p ctx) iter)

/-- Hand an operand to a wheel's Rennet; none where it has to wait. -/
def giveOperand (s : State) (w ctx opid slot iter : Nat) : Option State :=
  match storeOperand { x := wheelOf s w, w := w } 1 ctx opid slot iter with
  | .waits => none
  | .stored _ => some (rRun s w (fun c => match storeOperand c 1 ctx opid slot iter with
      | .stored c' => c'
      | .waits => c))

/-- Complete a SUBMIT that stores nothing. -/
def submitFail (s : State) (ctx : Nat) (h : HCmd) (code : Nat) : State :=
  done0 (onCtx s ctx (fun x => { x with submits := x.submits.filter (fun t => t.seq != h.seq) })) ctx h code

/-- Store the operand of a SUBMIT, or let it wait, with the wheel whose store it waits for. -/
def moreSubmit (s : State) (ctx : Nat) (h : HCmd) : State :=
  let opid := bits (cmdP h 0) 23 0
  let slot := bits (cmdP h 0) 31 28
  let iter := bits (cmdP h 0) 47 32
  let wait := fun (s : State) (w : Nat) => onCtx s ctx (fun x =>
    { x with cmds := x.cmds.map (fun k => if k.seq == h.seq then { k with info := [w] } else k) })
  match planOf s ctx, cmdPhys s ctx h with
  | some p, some w =>
    if reachCode s (fwWheel s ctx) w ≠ 0 then submitFail s ctx h (reachCode s (fwWheel s ctx) w)
    else match findOp (wheelOf s w).rnt ctx opid with
      | none => submitFail s ctx h 0x090C
      | some o =>
        if slotKind o slot ≠ 1 then submitFail s ctx h 0x090C
        else
          let code := operandCode (wheelOf s w) o iter slot
          if code ≠ 0 then submitFail ((giveOperand s w ctx opid slot iter).getD s) ctx h code
          else if passReady s p ctx iter = false then wait s w
          else
            let s1 := openPass s ctx iter 0 none
            match giveOperand s1 w ctx opid slot iter with
            | none => wait s1 w
            | some s2 => done0 s2 ctx h 0
  | _, _ => submitFail s ctx h 0x090C

/-- A SUBMIT's timer starts with it (R528). -/
def runSubmit (s : State) (ctx : Nat) (h : HCmd) : State :=
  moreSubmit (onCtx s ctx (fun x => { x with submits := x.submits ++ [{ seq := h.seq, iter := bits (cmdP h 0) 47 32 }] })) ctx h

def execSubmit (x : Fin 1024) (seq : Nat) (s : State) : Host.Outcome State Fault Refusal :=
  .next (hostRow s x seq (isOp 0x05) runSubmit moreSubmit)

/-- Retry the SUBMITs of a context that satisfy `p`. -/
def retrySubmits (s : State) (ctx : Nat) (p : HCmd → Bool) : State :=
  ((ctxOf s ctx).cmds.filter (fun h => h.started && !h.taken && cmdOp h == 0x05 && p h)).foldl (fun s h => moreSubmit s ctx h) s

/-- OPERAND_STORE_RESUME: the waiting tokens of a wheel, then the waiting SUBMITs, in ascending context order. -/
def operandResume (s : State) (w : Nat) : State :=
  let s1 := if (wheelOf s w).rnt.st = 0 then rRun s w resumeTokens else s
  (s1.ctxs.map (·.1)).foldl (fun s c => retrySubmits s c (fun h => h.info.head? == some w)) s1

def execOperandStoreResume (w : Fin 8) (s : State) : Host.Outcome State Fault Refusal := .next (operandResume s w)

/-! ## CANCEL, REOPEN (R433) -/

/-- The flows that P0 names: physical wheel and entry. -/
def namedFlows (p : Plan) (h : HCmd) : List (Nat × Nat) :=
  (p.flows.filter (fun f => bitAt (cmdP h 0) 15 || f.2.1 == bits (cmdP h 0) 13 0)).map (fun f => (f.1, f.2.2))

def moreCancel (s : State) (ctx : Nat) (h : HCmd) : State :=
  match planOf s ctx with
  | none => done0 s ctx h 0
  | some p =>
    if (partWheels p).all (fun w => flowsQuiet (wheelOf s w) (((namedFlows p h).filter (fun f => f.1 == w)).map (·.2))) then
      done0 s ctx h 0
    else s

/-- CANCEL: a SUBMIT of a cancelled flow that waits completes with 0x0701. -/
def runCancel (s : State) (ctx : Nat) (h : HCmd) : State :=
  match planOf s ctx with
  | none => done0 s ctx h 0x090C
  | some p =>
    let s1 := (partWheels p).foldl (fun s w => cancelFlows s w (((namedFlows p h).filter (fun f => f.1 == w)).map (·.2))) s
    moreCancel (retrySubmits s1 ctx (fun _ => true)) ctx h

def execCancel (x : Fin 1024) (seq : Nat) (s : State) : Host.Outcome State Fault Refusal :=
  .next (hostRow s x seq (isOp 0x06) runCancel moreCancel)

def reopenFlow (r : Rennet) (e : Nat) : Rennet :=
  let f := flowOf r e
  if f.st = .cancelled ∨ f.st = .failed then setFlow r e { f with st := .openF } else r

def runReopen (s : State) (ctx : Nat) (h : HCmd) : State :=
  match planOf s ctx with
  | none => done0 s ctx h 0x090C
  | some p =>
    done0 ((namedFlows p h).foldl (fun s f => onWheel s f.1 (fun x => { x with rnt := reopenFlow x.rnt f.2 })) s) ctx h 0

def execReopen (x : Fin 1024) (seq : Nat) (s : State) : Host.Outcome State Fault Refusal :=
  .next (hostRow s x seq (isOp 0x07) runReopen noMore)

/-! ## CAVE_WRITE, CAVE_READ (R529, R696) -/

/-- Take a range out of the pieces that are not covered yet. -/
def cutPieces (ps : List (Nat × Nat)) (a n : Nat) : List (Nat × Nat) :=
  ps.flatMap (fun p =>
    if a + n ≤ p.1 ∨ p.1 + p.2 ≤ a then [p]
    else (if p.1 < a then [(p.1, a - p.1)] else []) ++ (if a + n < p.1 + p.2 then [(a + n, p.1 + p.2 - (a + n))] else []))

/-- The context's plan claims every byte of a Cave range of a wheel. -/
def caveClaimed (s : State) (ctx w a n : Nat) : Bool :=
  match planOf s ctx with
  | none => false
  | some p => ((p.caveR.filter (fun r => r.1 == w)).foldl (fun ps r => cutPieces ps r.2.1 r.2.2) [(a, n)]).isEmpty

/-- The Cave operands: wheel, address and bytes, or the code. -/
def caveOperand (s : State) (ctx : Nat) (h : HCmd) : Except Nat (Nat × Nat × Nat) :=
  let a := bits (cmdP h 1) 34 8
  let n := cmdP h 2
  match cmdPhys s ctx h with
  | none => .error 0x0907
  | some w =>
    if n % 32 ≠ 0 ∨ n = 0 ∨ 2 ^ 20 < n ∨ caveAddrOk (wheelOf s w) a n = false then .error 0x0907
    else if caveClaimed s ctx w a n = false then .error 0x0908
    else .ok (w, a, n)

/-- Write the first `upTo` bytes of a CAVE_WRITE: the code. -/
def caveWriteCmd (s : State) (ctx : Nat) (h : HCmd) (upTo : Nat) : State × Nat :=
  match caveOperand s ctx h with
  | .error c => (s, c)
  | .ok (w, a, n) =>
    match cmdRead s ctx (cmdP h 0) n with
    | (s1, .error c) => (s1, c)
    | (s1, .ok bs) =>
      let ds := bs.take upTo
      (if ds.isEmpty then s1 else onWheel s1 w (fun x => unrecord (caveWrite x a ds) a ds.length), 0)

def runCaveWrite (s : State) (ctx : Nat) (h : HCmd) : State :=
  let r := caveWriteCmd s ctx h (2 ^ 20)
  done0 r.1 ctx h r.2

def execCaveWrite (x : Fin 1024) (seq : Nat) (s : State) : Host.Outcome State Fault Refusal :=
  .next (hostRow s x seq (isOp 0x08) runCaveWrite noMore)

/-- Copy the first `upTo` bytes of a CAVE_READ. An uncorrectable bank word stops the command with 0x060E. -/
def caveReadCmd (s : State) (ctx : Nat) (h : HCmd) (upTo : Nat) : State × Nat :=
  match caveOperand s ctx h with
  | .error c => (s, c)
  | .ok (w, a, n) =>
    if caveUncorr (wheelOf s w) a n then (s, 0x060E)
    else
      let bs := caveRead (wheelOf s w) a (min n upTo)
      cmdWrite (onWheel s w (fun x => caveCorrect x a n)) ctx (cmdP h 0) bs

def runCaveRead (s : State) (ctx : Nat) (h : HCmd) : State :=
  let r := caveReadCmd s ctx h (2 ^ 20)
  done0 r.1 ctx h r.2

def execCaveRead (x : Fin 1024) (seq : Nat) (s : State) : Host.Outcome State Fault Refusal :=
  .next (hostRow s x seq (isOp 0x09) runCaveRead noMore)

/-! ## ARM, DRIP -/

def setInfo (s : State) (ctx : Nat) (h : HCmd) (i : List Nat) : State :=
  onCtx s ctx (fun x => { x with cmds := x.cmds.map (fun k => if k.seq == h.seq then { k with info := i } else k) })

/-- Take the completion of a stream or drip operation that the command started. -/
def moreWhey (s : State) (ctx : Nat) (h : HCmd) : State :=
  let own := cmdOwner ctx h.seq
  (upto 8).foldl (fun s w =>
    match (wheelOf s w).whey.dones.find? (fun d => d.own == own) with
    | none => s
    | some d =>
      let arm := cmdOp h == 0x0A
      cmdDone (onWhey s w (fun y => { y with dones := y.dones.erase d })) ctx h d.code (if arm then d.moved else 0) (if arm then d.puts else 0) 0) s

def runArm (s : State) (ctx : Nat) (h : HCmd) : State :=
  let c := bits (cmdP h 0) 10 4
  match planOf s ctx, cmdPhys s ctx h with
  | some p, some w =>
    if p.channels.contains (w, c) = false then done0 s ctx h 0x0908
    else
      setInfo (onWhey s w (fun y => { y with arms := y.arms ++ [(cmdOwner ctx h.seq, c, bits (cmdP h 0) 42 16, 0)] })) ctx h [w, c]
  | _, _ => done0 s ctx h 0x0907

def execArm (x : Fin 1024) (seq : Nat) (s : State) : Host.Outcome State Fault Refusal :=
  .next (hostRow s x seq (isOp 0x0A) runArm moreWhey)

/-- DRIP: a Cave source has to be claimed. -/
def runDrip (s : State) (ctx : Nat) (h : HCmd) : State :=
  let rec' := (h.raw.drop 8).take 32
  match cmdPhys s ctx h with
  | none => done0 s ctx h 0x0907
  | some w =>
    if dripSrcSpace rec' = 1 ∧ caveClaimed s ctx w (dripSrc rec') (max 1 (dripLen rec')) = false then done0 s ctx h 0x0908
    else setInfo (onWhey s w (fun y => { y with drips := y.drips ++ [⟨cmdOwner ctx h.seq, ctx, 0, rec'⟩] })) ctx h [w]

def execDrip (x : Fin 1024) (seq : Nat) (s : State) : Host.Outcome State Fault Refusal :=
  .next (hostRow s x seq (isOp 0x0B) runDrip moreWhey)

/-! ## SET_PTROOT, INVAL (R559, R288, R289) -/

/-- The sweep of a context's translations. -/
def ctxSweep (ctx : Nat) : MSweep := ⟨0, ctxKey ctx, ctxCare, none⟩

/-- Sweep the translation share of every wheel for a context; a sweep ends every run in progress. -/
def sweepCtx (s : State) (ctx : Nat) : State :=
  (upto 8).foldl (fun s w => if (wheelOf s w).svc = .inService then onWheel s w (fun x => onMld x (fun m => startSweep m (ctxSweep ctx))) else s) s

/-- The command ends when no such sweep is outstanding. -/
def moreSweep (s : State) (ctx : Nat) (h : HCmd) : State :=
  if (upto 8).any (fun w => (wheelOf s w).mld.sweeps.contains (ctxSweep ctx)) then s else done0 s ctx h 0

/-- The root that P0 gives, or none where it breaches R559. -/
def rootOf (s : State) (p0 : Nat) : Option (Option (Nat × Nat)) :=
  let rb := bits p0 52 48
  let a := bits p0 39 8 * 256
  if bits p0 62 53 ≠ 0 ∨ bits p0 47 40 ≠ 0 ∨ bits p0 7 0 ≠ 0 then none
  else if bitAt p0 63 = false then some none
  else if 1 ≤ rb ∧ rb ≤ 18 ∧ a % (max 256 (8 * 2 ^ rb)) = 0 ∧ backed s a (8 * 2 ^ rb) = true then some (some (a, rb))
  else none

def runSetPtroot (s : State) (ctx : Nat) (h : HCmd) : State :=
  match rootOf s (cmdP h 0) with
  | none => done0 s ctx h 0x0907
  | some r => moreSweep (sweepCtx (onCtx s ctx (fun x => { x with root := r })) ctx) ctx h

def execSetPtroot (x : Fin 1024) (seq : Nat) (s : State) : Host.Outcome State Fault Refusal :=
  .next (hostRow s x seq (isOp 0x0C) runSetPtroot moreSweep)

/-- INVAL: a sweep key names no range of addresses, so the whole context is swept, which covers the range. -/
def runInval (s : State) (ctx : Nat) (h : HCmd) : State := moreSweep (sweepCtx s ctx) ctx h

def execInval (x : Fin 1024) (seq : Nat) (s : State) : Host.Outcome State Fault Refusal :=
  .next (hostRow s x seq (isOp 0x0D) runInval moreSweep)

/-! ## CLOSE (R540) -/

def runClose (s : State) (ctx : Nat) (h : HCmd) : State := teardown s ctx h.seq false
def moreClose (s : State) (ctx : Nat) (_h : HCmd) : State := endTeardown s ctx

def execClose (x : Fin 1024) (seq : Nat) (s : State) : Host.Outcome State Fault Refusal :=
  .next (hostRow s x seq (isOp 0x0E) runClose moreClose)

/-! ## FLASH_WRITE, FLASH_VERIFY (R634–R636) -/

/-- A range of whole sectors within the firmware or the culture region. -/
def flashRange (o n : Nat) : Bool :=
  decide (o % 4096 = 0) && decide (n % 4096 = 0)
    && (decide (o + n ≤ fwRegion) || (decide (culBase ≤ o) && decide (o + n ≤ culBase + culRegion)))

/-- Bytes of a sector that failed, or was left partly written: open values. -/
def freeBytes (s : State) (n : Nat) : State × List Byte :=
  ({ s with free := s.free + cdiv n 8 }, (((upto (cdiv n 8)).flatMap (fun k => leBytes 8 (Config.free (s.free + k)).toNat)).take n))

def flashErr (s : State) (o code detail : Nat) : State := culErr s 2 (b2n (decide (culBase ≤ o)) * 2 ^ 16 + code) detail

/-- Write whole sectors of the data; the code. `bad` numbers the sector that fails to erase, program or read back. -/
def flashSectors (s : State) (o : Nat) (bs : List Byte) (bad : Nat) : State × Nat :=
  let n := bs.length / 4096
  let k := if s.cul.noFlash then 0 else min bad n
  let s1 := if k = 0 then s else culBump (flashWrite s o (bs.take (4096 * k))) 1 k
  if k = n then (s1, 0)
  else if s.cul.noFlash then (flashErr s1 o 0x0D07 (o % culBase), 0x0D07)
  else
    let f := freeBytes s1 4096
    (flashErr (flashWrite f.1 (o + 4096 * k) f.2) o 0x0D07 ((o + 4096 * k) % culBase), 0x0D07)

/-- The checks of a FLASH_WRITE, and its source bytes. -/
def flashSource (s : State) (ctx : Nat) (h : HCmd) : State × Except Nat (List Byte) :=
  let sp := opSpace (cmdP h 0)
  let o := cmdP h 1
  let n := cmdP h 2
  if s.recovery ∧ sp = 0 then (s, .error 0x0907)
  else if flashRange o n = false ∨ (sp ≠ 0 ∧ sp ≠ (ctxOf s ctx).owner + 2) then (flashErr s o 0x0D06 0, .error 0x0D06)
  else cmdRead s ctx (cmdP h 0) n

def flashWriteCmd (s : State) (ctx : Nat) (h : HCmd) (bad : Nat) : State × Nat :=
  match flashSource s ctx h with
  | (s1, .error c) => (s1, c)
  | (s1, .ok bs) => flashSectors (sealNote s1 (ctxOf s ctx).owner false true bs.length) (cmdP h 1) bs bad

def runFlashWrite (bad : Nat) (s : State) (ctx : Nat) (h : HCmd) : State :=
  let r := flashWriteCmd s ctx h bad
  done0 r.1 ctx h r.2

def execFlashWrite (x : Fin 1024) (seq bad : Nat) (s : State) : Host.Outcome State Fault Refusal :=
  .next (hostRow s x seq (isOp 0x0F) (runFlashWrite bad) noMore)

/-- Note the check of an image by FLASH_VERIFY. -/
def noteVerify (s : State) (v : Verdict) (sel : Nat) : State :=
  let s1 := sealNote s 0 v.checked (v.code == 0 || v.code == 0x0D09 || v.code == 0x0D02) v.bytes.length
  let s2 := if v.code = 0x0D01 ∨ v.code = 0x0D03 then sealErr s1 0 1 v.code else s1
  if v.code = 0 then s2 else culErr s2 (culMask v.code) (sel * 2 ^ 16 + v.code) v.at_

def runFlashVerify (s : State) (ctx : Nat) (h : HCmd) : State :=
  let vf := fwCheck s
  let s1 := noteVerify s vf 0
  if vf.code ≠ 0 then cmdDone s1 ctx h vf.code (vf.at_ * 2 ^ 32) 0 0
  else
    let vc := culCheck s1
    let s2 := noteVerify s1 vc 1
    cmdDone s2 ctx h vc.code (if vc.code = 0 then 0 else vc.at_ * 2 ^ 32 + 1) 0 0

def execFlashVerify (x : Fin 1024) (seq : Nat) (s : State) : Host.Outcome State Fault Refusal :=
  .next (hostRow s x seq (isOp 0x10) runFlashVerify noMore)

/-! ## COMPLETION_TIMEOUT (R400, R529) -/

/-- A stream channel has a read of the port's host memory outstanding: it runs, and its source is there. -/
def readsHost (s : State) (ch : Chan) (p : Nat) : Bool :=
  ch.st == .run && sdSrcKind ch.sd == 0 && (chSrcD ch).space == p + 2 && portReach s p

/-- A command reads host memory through the port. -/
def cmdReadsHost (h : HCmd) (p : Nat) : Bool :=
  [0x02, 0x04, 0x08, 0x0F].contains (cmdOp h) && (opSpace (cmdP h 0) == p + 2 || ([0x02, 0x04].contains (cmdOp h) && opSpace (cmdP h 1) == p + 2))

/-- COMPLETION_TIMEOUT: of a stream's read (`a` is 128 × wheel + channel), or of the read of a command of context `a` that
starts, with SEQ `b`. -/
def completionTimeout (s : State) (p : Nat) (strm : Bool) (a b : Nat) : State :=
  if strm then
    if readsHost s (chOf s (a / 128) (a % 128)) p then chFail s (a / 128) (a % 128) 0x0606 0 else s
  else match findCmd s a b with
    | none => s
    | some h =>
      if startable s a h = false ∨ (ctxOf s a).owner ≠ p ∨ cmdReadsHost h p = false then s
      else
        let s1 := startCmd s a h
        let code := cmdCheck s1 a h
        done0 s1 a h (if code = 0 then 0x0909 else code)

def execCompletionTimeout (port : Fin 2) (strm : Bool) (a : Fin 1024) (b : Nat) (s : State) : Host.Outcome State Fault Refusal :=
  .next (completionTimeout s port strm a b)

def execWheelResetComplete (w : Fin 8) (lane dev : BitVec 8) (s : State) : Host.Outcome State Fault Refusal :=
  .next (wheelComplete s w lane.toNat dev.toNat)

end Sys2Proof.Machine
end

