-- ==== Sys2Proof/Machine/SealOps.lean ====
section
/-!
DEFINITION. Sys2Proof/Machine/SealOps.lean: the SEAL command's subcommands (R655, R661, R663–R668), and attestation over
the ports' DOE mailboxes (R649, R656–R662); and the expiry of commands' timers. PRESUMED: the layouts of SPDM 1.2 messages and of DOE Discovery are those of
DSP0274 and of the PCIe Base Specification.
-/

namespace Sys2Proof.Machine

def onSea (s : State) (f : Seal → Seal) : State := { s with sea := f s.sea }

/-- A SEAL command with a subcommand. -/
def isSeal (k : Nat) (h : HCmd) : Bool := cmdOp h == 0x11 && cmdP h 0 % 256 == k

/-! ## Authorisations (R664) -/

/-- The 112-byte message that an authorisation signs. -/
def authMsg (s : State) (sub : Nat) (arg nonce : List Byte) : List Byte :=
  leBytes 4 0x4153584F ++ leBytes 1 sub ++ leBytes 1 s.sea.lc ++ leBytes 2 0 ++ leBytes 8 s.serial.toNat ++ takePad 0 64 arg ++ nonce

/-- The keys of an owner, or of Umlia, that may sign an authorisation now (R652). -/
def ownerAuth (s : State) : List (List Byte × List Byte) := if s.sea.lc = 1 ∨ s.sea.lc = 2 then ownerKeysNow s else []
def umliaAuth (s : State) : List (List Byte × List Byte) :=
  if s.sea.lc = 4 then [] else [named (romKeyBytes 5), named (romKeyBytes 6)]

/-- Consume the port's nonce. -/
def dropNonce (s : State) (p : Nat) : State := onSea s (fun e => { e with nonces := tset [] e.nonces p [] })

/-- Check an authorisation at P2: the code. The nonce is consumed whatever comes of it. -/
def authorise (s : State) (ctx : Nat) (h : HCmd) (sub : Nat) (arg : List Byte) (keys : List (List Byte × List Byte)) : State × Nat :=
  let p := (ctxOf s ctx).owner
  let nonce := tget [] s.sea.nonces p
  let s1 := dropNonce s p
  if nonce.isEmpty then (sealErr s1 0 2 0x0E02, 0x0E02)
  else match cmdRead s1 ctx (cmdP h 2) 160 with
    | (s2, .error c) => (s2, c)
    | (s2, .ok sec) =>
      let msg := authMsg s sub arg nonce
      let ok := sectionVerifies keys msg sec
      let s3 := sealNote s2 0 true ok msg.length
      if ok then (s3, 0) else (sealErr s3 0 2 0x0E01, 0x0E01)

/-- A fuse that did not program. -/
def fuseFail (s : State) : State := sealErr s 0 4 0x0E06

/-! ## NONCE, ADVANCE, PLAN_TABLE -/

/-- 32 fresh bytes. -/
def freshNonce (s : State) : List Byte := (upto 4).flatMap (fun k => leBytes 8 (Config.free (s.free + k)).toNat)

def runNonce (s : State) (ctx : Nat) (h : HCmd) : State :=
  let n := freshNonce s
  let r := cmdWrite { s with free := s.free + 4 } ctx (cmdP h 1) n
  let p := (ctxOf s ctx).owner
  done0 (if r.2 = 0 then onSea r.1 (fun e => { e with nonces := tset [] e.nonces p n }) else r.1) ctx h r.2

def execNonce (x : Fin 1024) (seq : Nat) (s : State) : Host.Outcome State Fault Refusal :=
  .next (hostRow s x seq (isSeal 1) runNonce noMore)

/-- ADVANCE: the counter rises to min(SVN of the running image, 64). -/
def advance (fuseOk : Bool) (s : State) (h : HCmd) : State × Nat :=
  let cul := bitAt (cmdP h 1) 0
  let svn := min 64 (if cul then s.cul.versions % 2 ^ 32 else s.cul.versions / 2 ^ 32)
  let now := if cul then s.sea.culSvn else s.sea.fwSvn
  if s.sea.lc ≠ 1 ∧ s.sea.lc ≠ 2 then (s, 0x0E04)
  else if svn ≤ now then (s, 0)
  else if fuseOk = false then (fuseFail s, 0x0E06)
  else (onSea s (fun e => if cul then { e with culSvn := svn } else { e with fwSvn := svn }), 0)

/-- End a subcommand with its code. -/
def doneWith (ctx : Nat) (h : HCmd) (r : State × Nat) : State := done0 r.1 ctx h r.2

def runAdvance (fuseOk : Bool) (s : State) (ctx : Nat) (h : HCmd) : State := doneWith ctx h (advance fuseOk s h)

def execAdvance (x : Fin 1024) (seq : Nat) (fuseOk : Bool) (s : State) : Host.Outcome State Fault Refusal :=
  .next (hostRow s x seq (isSeal 2) (runAdvance fuseOk) noMore)

/-- The plan table of a port (R661). -/
def planTable (s : State) (p : Nat) : List Byte :=
  s.ctxs.flatMap (fun c => match c.2.plan with
    | some pl => if c.2.st != .free && c.2.owner == p then leBytes 2 c.1 ++ leBytes 6 0 ++ pl.hash else []
    | none => [])

def runPlanTable (s : State) (ctx : Nat) (h : HCmd) : State :=
  let t := planTable s (ctxOf s ctx).owner
  if cmdP h 2 < t.length then cmdDone s ctx h 0x0907 t.length 0 0
  else
    let r := cmdWrite s ctx (cmdP h 1) t
    done0 r.1 ctx h r.2

def execPlanTable (x : Fin 1024) (seq : Nat) (s : State) : Host.Outcome State Fault Refusal :=
  .next (hostRow s x seq (isSeal 6) runPlanTable noMore)

/-! ## ENROLL, REVOKE (R663) -/

/-- Program a key into the lowest unused slot. -/
def enrollKey (s : State) (key : List Byte) (fuseOk : Bool) : State × Nat :=
  match (upto 8).find? (fun k => !(bitAt s.sea.ownerValid k) && !(bitAt s.sea.ownerRevoked k)) with
  | none => (s, 0x0E05)
  | some k =>
    if fuseOk = false then (fuseFail s, 0x0E06)
    else (onSea s (fun e => { e with ownerValid := e.ownerValid + 2 ^ k, ownerKeys := tset [] e.ownerKeys k key }), 0)

def enroll (fuseOk : Bool) (s : State) (ctx : Nat) (h : HCmd) : State × Nat :=
  if s.sea.lc ≠ 1 ∧ s.sea.lc ≠ 2 then (s, 0x0E04)
  else match cmdRead s ctx (cmdP h 1) 133 with
    | (s1, .error c) => (if s.sea.lc = 2 then dropNonce s1 (ctxOf s ctx).owner else s1, c)
    | (s1, .ok key) =>
      let a := if s.sea.lc = 2 then authorise s1 ctx h 4 (sha512 key) (ownerAuth s1) else (s1, 0)
      if a.2 ≠ 0 then a else enrollKey a.1 key fuseOk

def runEnroll (fuseOk : Bool) (s : State) (ctx : Nat) (h : HCmd) : State := doneWith ctx h (enroll fuseOk s ctx h)

def execEnroll (x : Fin 1024) (seq : Nat) (fuseOk : Bool) (s : State) : Host.Outcome State Fault Refusal :=
  .next (hostRow s x seq (isSeal 4) (runEnroll fuseOk) noMore)

/-- Owner slots that are valid and not revoked. -/
def liveOwners (valid revoked : Nat) : List Nat := (upto 8).filter (fun k => bitAt valid k && !(bitAt revoked k))

def revokeKey (s : State) (fw : Bool) (k : Nat) (fuseOk : Bool) : State × Nat :=
  if !fw && s.sea.lc == 2 && (liveOwners s.sea.ownerValid (s.sea.ownerRevoked ||| 2 ^ k)).isEmpty then (s, 0x0E07)
  else if fuseOk = false then (fuseFail s, 0x0E06)
  else (onSea s (fun e => if fw then { e with fwRevoked := e.fwRevoked ||| 2 ^ k } else { e with ownerRevoked := e.ownerRevoked ||| 2 ^ k }), 0)

def revoke (fuseOk : Bool) (s : State) (ctx : Nat) (h : HCmd) : State × Nat :=
  let p1 := cmdP h 1
  let fw := bitAt p1 8
  let k := bits p1 3 0
  let s0 := dropNonce s (ctxOf s ctx).owner
  if s.sea.lc = 0 ∨ s.sea.lc = 4 then (s0, 0x0E04)
  else if (if fw then 4 else 8) ≤ k then (s0, 0x0907)
  else
    let a := authorise s ctx h 5 (leBytes 2 (p1 % 2 ^ 16)) (if fw then umliaAuth s else ownerAuth s)
    if a.2 ≠ 0 then a else revokeKey a.1 fw k fuseOk

def runRevoke (fuseOk : Bool) (s : State) (ctx : Nat) (h : HCmd) : State := doneWith ctx h (revoke fuseOk s ctx h)

def execRevoke (x : Fin 1024) (seq : Nat) (fuseOk : Bool) (s : State) : Host.Outcome State Fault Refusal :=
  .next (hostRow s x seq (isSeal 5) (runRevoke fuseOk) noMore)

/-! ## LC_CHANGE (R666–R668, R568, R690) -/

/-- The keys that may authorise a change of life-cycle state; none for a change that R666 does not permit. -/
def lcKeys (s : State) (target : Nat) : Option (List (List Byte × List Byte)) :=
  let live := !(liveOwners s.sea.ownerValid s.sea.ownerRevoked).isEmpty
  match s.sea.lc, target with
  | 0, 1 => some (umliaAuth s)
  | 1, 2 => if live then some (ownerAuth s) else none
  | 1, 3 => some (ownerAuth s ++ (if live then [] else umliaAuth s))
  | 2, 3 => some (ownerAuth s)
  | 2, 4 => some (ownerAuth s)
  | 3, 1 => some (umliaAuth s)
  | 3, 4 => some (umliaAuth s)
  | _, _ => none

/-- The return record (R690). -/
def returnRecord (s : State) (mask : Nat) : List Byte :=
  leBytes 8 0x5252584F ++ leBytes 8 s.serial.toNat ++ leBytes 8 (100 * s.now) ++ leBytes 1 s.sea.lc ++ leBytes 1 mask
    ++ leBytes 1 s.sea.refurb ++ leBytes 1 s.sea.fwSvn ++ leBytes 1 s.sea.culSvn ++ leBytes 1 0
    ++ leBytes 2 (if mask = 0 then 0 else 0x0A03) ++ leBytes 4 s.pwr.lastFault ++ List.replicate 28 0

/-- Step 3: the trier stores and the memory of every wheel in service are washed; an unreachable one is marked UNWASHED
where the target allows it. -/
def lcWash (s : State) (mark : Bool) : State :=
  (upto 8).foldl (fun s w =>
    if (wheelOf s w).svc = .inService then onWheel s w (fun x => { x with mem := memWash x.mem 0 (2 ^ 37) })
    else if mark then { onWheel s w (fun x => { x with mem := { x.mem with unwashed := true } }) with unwashedFlash := insertNat w s.unwashedFlash }
    else s) (onRst s (fun r => { r with trier := [] }))

/-- Steps 4 and 5: flash and fuses. -/
def lcCommit (s : State) (target : Nat) (fuseOk : Bool) : State :=
  let mask := s.unwashedFlash.foldl (fun m w => m + 2 ^ w) 0
  let gone := decide (target = 3 ∨ target = 4)
  let kept := s.cul.flash.filter (fun c => decide (c.1 < culBase) || (!gone && decide (c.1 < keptBase)) || decide (keptBase + 0x1000000 ≤ c.1))
  let s1 := { s with
    cul := { s.cul with flash := kept, regs := s.cul.regs.filter (fun r => r.1 != 0x040) }
    rst := { s.rst with starts := [], faultLog := [] } }
  let s2 := if target = 3 then flashWrite s1 keptBase (returnRecord s mask) else s1
  let res := s.sea.lc * 2 ^ 29 + target * 2 ^ 26 + (if gone && decide (mask ≠ 0) then 0x0A03 else 0)
  if fuseOk = false then fuseFail s2
  else onSea s2 (fun e =>
    { e with lc := target, lcResult := res, noSecret := e.noSecret || decide (target = 4)
             refurb := if e.lc = 3 ∧ target = 1 then e.refurb + 1 else e.refurb
             ownerRevoked := if e.lc = 3 ∧ target = 1 then 0xFF else e.ownerRevoked })

/-- Steps 3 to 6, once every context is FREE. A wash that cannot reach a wheel refuses a change to any state but RETURN and
SCRAPPED: steps 4 and 5 are skipped. -/
def lcFinish (s : State) (fuseOk : Bool) : State :=
  let t := s.sea.target
  let gone := decide (t = 3 ∨ t = 4)
  let whole := (upto 8).all (fun w => (wheelOf s w).svc == .inService)
  let s1 := lcWash s gone
  let s2 := if whole || gone then lcCommit s1 t fuseOk
    else onSea s1 (fun e => { e with lcResult := e.lc * 2 ^ 29 + t * 2 ^ 26 + 0x0A03 })
  moduleReset (onSea s2 (fun e => { e with busy := false, target := 0 }))

/-- A change in progress: step 2, until every context is FREE. -/
def lcMore (s : State) (fuseOk : Bool) : State :=
  let s1 := s.ctxs.foldl (fun s c => teardown (endTeardown s c.1) c.1 0 false) s
  if s1.ctxs.all (fun c => c.2.st == .free) then lcFinish s1 fuseOk else s1

/-- LC_CHANGE: authorised, it completes with 0x0000, and the change begins. -/
def runLcChange (fuseOk : Bool) (s : State) (ctx : Nat) (h : HCmd) : State :=
  let t := bits (cmdP h 1) 2 0
  match lcKeys s t with
  | none => done0 (dropNonce s (ctxOf s ctx).owner) ctx h 0x0E03
  | some keys =>
    let a := authorise s ctx h 3 (leBytes 1 t) keys
    if a.2 ≠ 0 then done0 a.1 ctx h a.2
    else if s.sea.lc = 3 ∧ t = 1 ∧ 3 ≤ s.sea.refurb then done0 a.1 ctx h 0x0E05
    else lcMore (onSea (done0 a.1 ctx h 0) (fun e => { e with busy := true, target := t })) fuseOk

def execLcChange (x : Fin 1024) (seq : Nat) (fuseOk : Bool) (s : State) : Host.Outcome State Fault Refusal :=
  .next (if s.sea.busy then lcMore s fuseOk else hostRow s x seq (isSeal 3) (runLcChange fuseOk) noMore)

/-! ## Expiry of a command's timer (R576, R579, R665) -/

/-- What a SEAL subcommand had done when its timer expired: nothing (0), or it has begun to program fuses and runs to its end,
with a good outcome (1) or a bad one (R665). -/
def sealPart (s : State) (ctx : Nat) (h : HCmd) (done : Nat) : State :=
  if done = 0 then s
  else match cmdP h 0 % 256 with
    | 2 => (advance (done == 1) s h).1
    | 4 => (enroll (done == 1) s ctx h).1
    | 5 => (revoke (done == 1) s ctx h).1
    | _ => s

/-- What a command did before its timer expired: `done` bytes of its transfer, or as far as `sealPart` says. -/
def partDone (s : State) (ctx : Nat) (h : HCmd) (done : Nat) : State :=
  match cmdOp h with
  | 0x08 => (caveWriteCmd s ctx h done).1
  | 0x09 => (caveReadCmd s ctx h done).1
  | 0x0F =>
    match flashSource s ctx h with
    | (_, .error _) => s
    | (s1, .ok bs) =>
      let k := min done bs.length / 4096
      let s2 := (flashSectors s1 (cmdP h 1) (bs.take (4096 * k)) k).1
      if min done bs.length = 4096 * k ∨ s.cul.noFlash then s2
      else
        let f := freeBytes s2 4096
        flashWrite f.1 (cmdP h 1 + 4096 * k) f.2
  | 0x11 => sealPart s ctx h done
  | _ => s

/-- COMMAND_TIMEOUT: the timer of a command other than SUBMIT. A command that the model carries out in one command of the
block expires, in place of its row, with as much of its effect as `done` says. -/
def commandTimeout (s : State) (ctx seq done : Nat) : State :=
  match findCmd s ctx seq with
  | none => s
  | some h =>
    if cmdOp h = 0x05 ∨ timersHeld s ctx = true then s
    else if h.started then startedTimeout (rstBump s 0) ctx h
    else if startable s ctx h = false ∨ [0x00, 0x01, 0x02, 0x04, 0x08, 0x09, 0x0F, 0x10, 0x11].contains (cmdOp h) = false then s
    else
      let s1 := startCmd s ctx h
      let code := cmdCheck s1 ctx h
      if code ≠ 0 then done0 s1 ctx h code else done0 (partDone (rstBump s1 0) ctx h done) ctx h 0x0B08

def execCommandTimeout (x : Fin 1024) (seq done : Nat) (s : State) : Host.Outcome State Fault Refusal :=
  .next (commandTimeout s x seq done)

/-! ## SPDM (R656–R662) -/

def spdmOf (s : State) (p : Nat) : Spdm := tget {} s.sea.spdm p
def onSpdm (s : State) (p : Nat) (f : Spdm → Spdm) : State := onSea s (fun e => { e with spdm := tset {} e.spdm p (f (spdmOf s p)) })

/-- The certificate chain of slot 0: length, root hash, certificates (R657). -/
def certChain (s : State) : List Byte :=
  let cs := Config.certificates s.sea.noSecret s.serial.toNat s.small s.sea.fwDigest s.sea.culDigest
  leBytes 2 (68 + cs.length) ++ leBytes 2 0 ++ leBytes 64 Config.rootHash.toNat ++ cs

/-- Measurement index 4 (R660). -/
def hwConfig (s : State) : List Byte :=
  [s.sea.lc % 8 + 128 * b2n s.recovery, s.sea.refurb, s.sea.fwSvn, s.sea.culSvn, s.sea.ownerValid, s.sea.ownerRevoked, s.sea.fwRevoked, 0,
   0, 0, 0, 0, 0, 0, 0, 0].map (fun x => BitVec.ofNat 8 x)

/-- A measurement block: index, DMTF value type with its raw bit, value. -/
def measBlock (ix ty : Nat) (v : List Byte) : List Byte :=
  leBytes 1 ix ++ leBytes 1 1 ++ leBytes 2 (v.length + 3) ++ leBytes 1 ty ++ leBytes 2 v.length ++ v

def measurement (s : State) (p ix : Nat) : List Byte :=
  match ix with
  | 1 => measBlock 1 0 (leBytes 64 Config.romDigest.toNat)
  | 2 => measBlock 2 1 s.sea.fwDigest
  | 3 => measBlock 3 3 s.sea.culDigest
  | 4 => measBlock 4 (128 + 2) (hwConfig s)
  | _ => measBlock 5 3 (sha512 (planTable s p))

/-- A fresh 32-byte value, and a signature with the Alias key over the messages of the connection. -/
def spdmNonce (s : State) : List Byte := freshNonce s
def spdmSign (s : State) (p : Nat) (msg : List Byte) : List Byte :=
  leBytes 132 (Config.aliasSign s.sea.noSecret s.sea.fwDigest ((spdmOf s p).transcript ++ msg) (s.free + 4)).toNat

def spdmHead (ver code p1 p2 : Nat) : List Byte := leBytes 1 ver ++ leBytes 1 code ++ leBytes 1 p1 ++ leBytes 1 p2

/-- What a request comes to: a response, with the new phase and selection, or an error code. -/
inductive SpdmRes where
  | ok (resp : List Byte) (phase : Nat) (selected : Bool)
  | err (code : Nat)
  deriving DecidableEq, Repr

def reqAt (q : List Byte) (o n : Nat) : Nat := leAt q o n

/-- GET_VERSION: 1.2 only. -/
def spdmVersion (q : List Byte) : SpdmRes :=
  if reqAt q 0 1 ≠ 0x10 then .err 0x41 else .ok (spdmHead 0x10 0x04 0 0 ++ leBytes 1 0 ++ leBytes 1 1 ++ leBytes 2 0x1200) 1 false

def spdmCapabilities : List Byte :=
  spdmHead 0x12 0x61 0 0 ++ leBytes 1 0 ++ leBytes 1 20 ++ leBytes 2 0 ++ leBytes 4 0x16 ++ leBytes 4 4096 ++ leBytes 4 4096

/-- ALGORITHMS: each selection that the requester offers. -/
def spdmAlgorithms (q : List Byte) : SpdmRes :=
  let meas := b2n (bitAt (reqAt q 6 1) 0)
  let asym := if bitAt (reqAt q 8 4) 8 then 0x100 else 0
  let hash := if bitAt (reqAt q 12 4) 2 then 4 else 0
  .ok (spdmHead 0x12 0x63 0 0 ++ leBytes 2 36 ++ leBytes 1 meas ++ leBytes 1 0 ++ leBytes 4 (8 * meas) ++ leBytes 4 asym ++ leBytes 4 hash
    ++ leBytes 16 0) 3 (asym != 0 && hash != 0)

def spdmCertificate (s : State) (q : List Byte) : Option (List Byte) :=
  let c := certChain s
  let o := reqAt q 4 2
  let n := min (min (reqAt q 6 2) 4088) (c.length - o)
  if reqAt q 2 1 % 16 ≠ 0 ∨ c.length ≤ o then none
  else some (spdmHead 0x12 0x02 0 0 ++ leBytes 2 n ++ leBytes 2 (c.length - o - n) ++ (c.drop o).take n)

def spdmChallenge (s : State) (p : Nat) (q : List Byte) : Option (List Byte) :=
  let ty := reqAt q 3 1
  if reqAt q 2 1 ≠ 0 ∨ q.length < 36 ∨ (ty ≠ 0 ∧ ty ≠ 1 ∧ ty ≠ 0xFF) then none
  else
    let all := (upto 5).flatMap (fun k => measurement s p (k + 1))
    let tcb := measurement s p 1 ++ measurement s p 2
    let sum := if ty = 0 then [] else sha512 (if ty = 1 then tcb else all)
    let r := spdmHead 0x12 0x03 0 1 ++ sha512 (certChain s) ++ spdmNonce s ++ sum ++ leBytes 2 0
    some (r ++ spdmSign s p (q ++ r))

def spdmMeasurements (s : State) (p : Nat) (q : List Byte) : Option (List Byte) :=
  let sig := bitAt (reqAt q 2 1) 0
  let op := reqAt q 3 1
  let ixs := if op = 0xFF then [1, 2, 3, 4, 5] else if op = 0 then [] else [op]
  if 5 < op ∧ op ≠ 0xFF ∨ (sig = true ∧ (q.length < 37 ∨ reqAt q 36 1 % 16 ≠ 0)) then none
  else
    let rec' := ixs.flatMap (fun k => measurement s p k)
    let r := spdmHead 0x12 0x60 (if op = 0 then 5 else 0) 0 ++ leBytes 1 ixs.length ++ leBytes 3 rec'.length ++ rec' ++ spdmNonce s ++ leBytes 2 0
    some (r ++ (if sig then spdmSign s p (q ++ r) else []))

def resOf (o : Option (List Byte)) (selected : Bool) : SpdmRes := match o with
  | some r => .ok r 3 selected
  | none => .err 0x01

/-- The codes of the supported requests. -/
def spdmCodes : List Nat := [0x84, 0xE1, 0xE3, 0x81, 0x82, 0x83, 0xE0, 0xFF]

/-- What a request of a supported code comes to. One that needs a selection that was not made is answered
UnexpectedRequest (R659): digests, certificates and signatures need the algorithms of both, measurements theirs. -/
def spdmServe (s : State) (p code : Nat) (q : List Byte) : SpdmRes :=
  let st := spdmOf s p
  let after := fun (ok : Bool) (r : SpdmRes) => if st.phase = 3 ∧ ok then r else .err 0x04
  if code = 0x84 then spdmVersion q
  else if reqAt q 0 1 ≠ 0x12 then .err 0x41
  else match code with
    | 0xE1 => if st.phase = 1 then .ok spdmCapabilities 2 false else .err 0x04
    | 0xE3 => if st.phase = 2 then spdmAlgorithms q else .err 0x04
    | 0x81 => after st.selected (.ok (spdmHead 0x12 0x01 0 1 ++ sha512 (certChain s)) 3 true)
    | 0x82 => after st.selected (resOf (spdmCertificate s q) true)
    | 0x83 => after (st.selected && (reqAt q 3 1 == 0 || st.meas)) (resOf (spdmChallenge s p q) true)
    | 0xE0 => after (st.meas && (!(bitAt (reqAt q 2 1) 0) || st.selected)) (resOf (spdmMeasurements s p q) st.selected)
    | _ => match st.ready with
      | some (t, r) => if reqAt q 3 1 = t then .ok r st.phase st.selected else .err 0x01
      | none => .err 0x04

/-- Send an answer; an ERROR other than Busy and ResponseNotReady sets SPDM_ERR (R671). -/
def spdmSend (s : State) (p : Nat) (r : List Byte) : State :=
  let s1 := onSea s (fun e => { e with regs := tset [] e.regs 0 (bump (tget [] e.regs 0) 2 1) })
  { s1 with out := s1.out ++ [.doe p r] }

def spdmError (s : State) (p ver code : Nat) : State :=
  let s1 := spdmSend s p (spdmHead ver 0x7F code 0)
  if code = 3 then s1 else sealErr s1 0 8 0

/-- A response that is not ready in time is kept for RESPOND_IF_READY, under a token. -/
def spdmLate (s : State) (p code : Nat) (r : List Byte) : State :=
  let a := leBytes 4 (Config.free s.free).toNat
  let s1 := onSpdm { s with free := s.free + 1 } p (fun t => { t with ready := some (leAt a 2 1, r) })
  spdmSend s1 p (spdmHead 0x12 0x7F 0x42 0 ++ a.take 1 ++ leBytes 1 code ++ (a.drop 2))

/-- Serve a request of a row's code on a port's mailbox. A request of an unsupported code, which has no row, is answered
UnsupportedRequest by any of them. -/
def spdmRequest (s : State) (p code : Nat) (q : List Byte) (late : Bool) : State :=
  let got := reqAt q 1 1
  let ver := if reqAt q 0 1 = 0x10 then 0x10 else 0x12
  if !(portOf s p).up || (decide (s.cul.step < 8) && !s.recovery && s.sea.lc != 4) || q.length < 4 || decide (4096 < q.length) then s
  else if spdmCodes.contains got && got != code then s
  else if s.dieDown.contains 0 then spdmError s p ver 0x05
  else if s.sea.busy then spdmError s p ver 0x03
  else if got ≠ code then spdmError s p ver 0x07
  else match spdmServe s p code q with
    | .err c => spdmError s p ver c
    | .ok r phase sel =>
      let base := if code = 0x84 then [] else (spdmOf s p).transcript
      let s1 := onSpdm { s with free := s.free + 5 } p (fun t =>
        { t with phase := phase, selected := sel, meas := decide (3 ≤ phase) && (if code = 0xE3 then bitAt (reqAt q 6 1) 0 else t.meas), transcript := base ++ q ++ r, ready := none })
      if late && code != 0xFF then spdmLate s1 p code r else spdmSend s1 p r

def execGetVersion (port : Fin 2) (req : List Byte) (late : Bool) (s : State) : Host.Outcome State Fault Refusal :=
  .next (spdmRequest s port 0x84 req late)
def execGetCapabilities (port : Fin 2) (req : List Byte) (late : Bool) (s : State) : Host.Outcome State Fault Refusal :=
  .next (spdmRequest s port 0xE1 req late)
def execNegotiateAlgorithms (port : Fin 2) (req : List Byte) (late : Bool) (s : State) : Host.Outcome State Fault Refusal :=
  .next (spdmRequest s port 0xE3 req late)
def execGetDigests (port : Fin 2) (req : List Byte) (late : Bool) (s : State) : Host.Outcome State Fault Refusal :=
  .next (spdmRequest s port 0x81 req late)
def execGetCertificate (port : Fin 2) (req : List Byte) (late : Bool) (s : State) : Host.Outcome State Fault Refusal :=
  .next (spdmRequest s port 0x82 req late)
def execChallenge (port : Fin 2) (req : List Byte) (late : Bool) (s : State) : Host.Outcome State Fault Refusal :=
  .next (spdmRequest s port 0x83 req late)
def execGetMeasurements (port : Fin 2) (req : List Byte) (late : Bool) (s : State) : Host.Outcome State Fault Refusal :=
  .next (spdmRequest s port 0xE0 req late)
def execRespondIfReady (port : Fin 2) (req : List Byte) (late : Bool) (s : State) : Host.Outcome State Fault Refusal :=
  .next (spdmRequest s port 0xFF req late)

/-- DOE_DISCOVERY: Discovery and CMA/SPDM (R658). -/
def doeDiscovery (s : State) (p index : Nat) : State :=
  if !(portOf s p).up || (decide (s.cul.step < 8) && !s.recovery && s.sea.lc != 4) then s
  else
    let r := if index = 0 then [1, 0, 0, 1] else if index = 1 then [1, 0, 1, 0] else [0xFF, 0xFF, 0, 0]
    { s with out := s.out ++ [.doe p (r.map (fun x => BitVec.ofNat 8 x))] }

def execDoeDiscovery (port : Fin 2) (index : Byte) (s : State) : Host.Outcome State Fault Refusal :=
  .next (doeDiscovery s port index.toNat)

end Sys2Proof.Machine
end

