-- ==== Sys2Proof/Machine/Regs.lean ====
section
/-!
DEFINITION. Sys2Proof/Machine/Regs.lean: reads of registers through a port, with the latched high word (R128), and writes to
registers with no behaviour of their own (R9, R10).
-/

namespace Sys2Proof.Machine

/-! ## Reads (R128) -/

def onPortLatch (s : State) (p : Nat) (f : List (Nat × Nat) → List (Nat × Nat)) : State := onPort s p (fun x => { x with latch := f x.latch })

/-- Reads of RC and advancing registers: LDL_SAMPLE removes the sample (R345), RST_TRIER_DATA advances OFFSET (R601). -/
def readEffect (s : State) (x : BarWin) (o : Nat) : State :=
  match x with
  | .ladleWheel w => if o = 0x48 then sampleRead s w else s
  | .rst => if o = 0x28 then trierRead s else s
  | _ => s

/-- A read through a port. A 64-bit read of a 64-bit register returns all 64 bits at once. A 32-bit read of its low word
latches the high word, which the next read of the high word returns; any other word is read as it stands, and a 64-bit read
of two words returns both (DESIGN CHOICE, log 72). -/
def lowWordRead (s : State) (p a : Nat) (wide : Bool) : State :=
  let (x, o) := windowOf a
  let answer := fun (s : State) (v : Nat) => { s with rdVal := BitVec.ofNat 64 v, rdCode := 0 }
  if !(bar0Open s p) || decide (a % 4 ≠ 0) || decide (0x1000000 ≤ a) then s
  else if !(winVisible s p x) then answer s 0
  else if wide then
    if decide (a % 8 ≠ 0) then s
    else if winWide x o then answer (readEffect s x o) (winReg s p x o)
    else answer s (winWord s p x o + winWord s p x (o + 4) * 2 ^ 32)
  else if winWide x (o / 8 * 8) then
    if o % 8 = 0 then
      let v := winReg s p x o
      answer (onPortLatch (readEffect s x o) p (fun l => (a, v / 2 ^ 32) :: l.filter (fun e => e.1 ≠ a))) (v % 2 ^ 32)
    else match (portOf s p).latch.find? (fun e => e.1 == a - 4) with
      | some e => answer (onPortLatch s p (fun l => l.filter (fun e => e.1 ≠ a - 4))) e.2
      | none => answer s (winWord s p x o)
  else answer s (winWord s p x o)

def execLowWordRead (port : Fin 2) (addr : Nat × Bool) (s : State) : Host.Outcome State Fault Refusal :=
  .next (lowWordRead s port addr.1 addr.2)

/-! ## Writes (R9–R11) -/

/-- Writing 1 clears a W1C bit. -/
def clearBits (r : Regs) (o word : Nat) : Regs := regSet r o (regGet r o - (regGet r o &&& word % 2 ^ 32))

/-- The W1C registers of a window: ERR_STATUS and STAT_OVF, and PRS_STAT_OVF2. -/
def isW1C (x : BarWin) (o : Nat) : Bool :=
  match x with
  | .press _ _ => o == 0x00C || o == 0x020 || o == 0x024
  | .ladleWheel _ => o == 0x020
  | .none => false
  | .msix => false
  | .pba => false
  | .ctx _ => false
  | .chan _ _ => false
  | .rstWheel _ => false
  | _ => o == 0x00C || o == 0x020

/-- Change the register table of a window's block. -/
def onWinRegs (s : State) (p : Nat) (x : BarWin) (f : Regs → Regs) : State :=
  match x with
  | .port => onPort s p (fun x => { x with regs := f x.regs })
  | .rst => onRst s (fun r => { r with regs := f r.regs })
  | .cul => { s with cul := { s.cul with regs := f s.cul.regs } }
  | .pwr => onPwr s (fun r => { r with regs := f r.regs })
  | .vat w v => onWheel s w (fun x => onVat x v (fun t => { t with regs := f t.regs }))
  | .press w p => onWheel s w (fun x => setPress x p { pressOf x p with regs := f (pressOf x p).regs })
  | .ladle w l => onWheel s w (fun x => setLadle x l { ladleOf x l with regs := f (ladleOf x l).regs })
  | .ladleWheel w => onWheel s w (fun x => { x with ldl := { x.ldl with regs := f x.ldl.regs } })
  | .grader w g => onWheel s w (fun x => setGrader x g { graderOf x g with regs := f (graderOf x g).regs })
  | .mld w => onWheel s w (fun x => onMld x (fun m => { m with regs := f m.regs }))
  | .whey w => onWhey s w (fun y => { y with regs := f y.regs })
  | .rnt w => onWheel s w (fun x => { x with rnt := { x.rnt with regs := f x.rnt.regs } })
  | .mem w => onWheel s w (fun x => onMem x (fun m => { m with regs := f m.regs }))
  | .crm d => onCrm s (fun c => { c with regs := tmod [] c.regs d f })
  | .clk d => onClk s d (fun c => { c with regs := f c.regs })
  | .sea d => { s with sea := { s.sea with regs := tmod [] s.sea.regs d f } }
  | _ => s

/-- The bits of a port register's word that are RW (R545). -/
def portMask (o : Nat) : Nat :=
  if o = 0x050 ∨ o = 0x054 then 0xFFFFFFFF
  else if o = 0x058 then 0x1F
  else if o = 0x05C then 0xFFFF07FF
  else if o = 0x060 then 0x800007FF
  else if 0x080 ≤ o ∧ o < 0x100 then (if o % 8 = 0 then 0xFF else 0x80000000)
  else 0

/-- Put a 32-bit word into a register table, into its half of a 64-bit register. -/
def putWord (x : BarWin) (r : Regs) (o word : Nat) : Regs :=
  let b := o / 8 * 8
  if winWide x b then
    (if o % 8 = 0 then regSet r b (regGet r b / 2 ^ 32 * 2 ^ 32 + word % 2 ^ 32) else regSet r b (word % 2 ^ 32 * 2 ^ 32 + regGet r b % 2 ^ 32))
  else regSet r o (word % 2 ^ 32)

/-- A write to the MSI-X table; clearing a vector's mask is MSIX_UNMASK. -/
def msixWrite (s : State) (p o word : Nat) : State :=
  let s1 := onPort s p (fun x => { x with msix := regSet x.msix o (if o % 16 = 12 then word / 2 * 2 else word) })
  if o % 16 ≠ 12 then s1
  else if bitAt word 0 then onPort s1 p (fun x => { x with unmasked := x.unmasked.filter (· ≠ o / 16) })
  else msixUnmask s1 p (o / 16)

/-- RST_TRIER_SEL keeps DIE, SLOT and OFFSET, whose bits [2:0] read as zero (R602). -/
def trierSel (s : State) (word : Nat) : State := onRst s (fun r => { r with sel := word &&& 0x8703FFF8 })

/-- A 32-bit write to a visible register. One with a behaviour of its own (a command of its own in the table), a read-only
one and an unlisted offset are left as they are. -/
def regWrite (s : State) (p : Nat) (x : BarWin) (o word : Nat) : State :=
  if isW1C x o then onWinRegs s p x (fun r => clearBits r o word)
  else match x, o with
  | .port, 0x05C => onPort s p (fun x => { x with regs := regSet x.regs 0x05C ((word &&& 0xFFFF07FF) ^^^ 0x10000) })
  | .port, o => if portMask o = 0 then s else onPort s p (fun x => { x with regs := putWord .port x.regs o (word &&& portMask o) })
  | .msix, o => msixWrite s p o word
  | .ctx c, 0x04 => onCtx s c (fun x => { x with irq := word &&& 0xFFFF07FF })
  | .rst, 0x018 => trierSel s word
  | .pwr, 0x018 => onPwr s (fun r => { r with railSel := word % 8 })
  | .whey w, 0x018 => onWhey s w (fun y => { y with hoopSel := word % 1024 })
  | .rnt w, 0x030 => onWinRegs s p (.rnt w) (fun r => putWord (.rnt w) r 0x030 word)
  | .rnt w, 0x034 => onWinRegs s p (.rnt w) (fun r => putWord (.rnt w) r 0x034 (word % 256))
  | .rnt w, 0x03C => onWinRegs s p (.rnt w) (fun r => regSet r 0x03C word)
  | .clk d, 0x018 => onClk s d (fun c => { c with regs := regSet c.regs 0x018 (word % 256) })
  | _, _ => s

/-- A write through a port at an offset of BAR0: ignored where the register is not visible. -/
def barWrite (s : State) (p a word : Nat) : State :=
  let (x, o) := windowOf a
  if !(bar0Open s p) || decide (a % 4 ≠ 0) || decide (0x1000000 ≤ a) || !(winVisible s p x) then s else regWrite s p x o word

/-- REGISTER_WRITE: 32 bits, or 64 bits at a multiple of 8, whose low word is written first. -/
def execRegisterWrite (port : Fin 2) (addr : Nat) (word : DWord) (width : Fin 2) (s : State) : Host.Outcome State Fault Refusal :=
  .next (if width = 0 then barWrite s port addr (word.toNat % 2 ^ 32)
    else if addr % 8 ≠ 0 then s
    else barWrite (barWrite s port addr (word.toNat % 2 ^ 32)) port (addr + 4) (word.toNat / 2 ^ 32))

end Sys2Proof.Machine
end

