-- ==== Sys2Proof/Machine/I3c.lean ====
section
/-!
DEFINITION. Sys2Proof/Machine/I3c.lean: the management bus (R637–R641, R643): common command codes, dynamic addressing,
Hot-Join, and private transfers over the management map.
-/

namespace Sys2Proof.Machine

def onCul (s : State) (f : Cul → Cul) : State := { s with cul := f s.cul }

/-- The endpoint takes part on the bus from step 6 of a start, and in recovery mode (R626, R633, R644). -/
def i3cAwake (s : State) : Bool := !s.pwr.off && (decide (6 ≤ s.cul.step) || s.recovery)

/-- A transfer's START: after a bus fault it shows that the bus works, and BUS_FAULT is reported (R643). -/
def i3cStart (s : State) : State :=
  if s.cul.busFault then culErr (onCul s (fun c => { c with busFault := false })) 8 0 0 else s

/-- A common command code sent to every target. -/
def cccAll (s : State) (f : State → State) : Host.Outcome State Fault Refusal := .next (if i3cAwake s then f (i3cStart s) else s)

/-- A common command code directed to the module's dynamic address; without one the module does not answer. -/
def cccTo (s : State) (f : State → State) : Host.Outcome State Fault Refusal :=
  cccAll s (fun s => if s.cul.da.isSome then f s else s)

/-- What the module sends: 0 the words of a private read, 1 its arbitration word, 2 PID, 3 BCR, 4 DCR, 5 status, 6 MWL,
7 MRL, 8 a Hot-Join request. -/
def i3cSend (s : State) (kind : Nat) (d : List Byte) : State := { s with out := s.out ++ [.i3c kind d] }

/-- PID, BCR and DCR (R637, R638). -/
def i3cPid (s : State) : Nat := 0x01A7 * 2 ^ 33 + 2 ^ 32 + s.serial.toNat % 2 ^ 32
def i3cBcr : Nat := 0x0E
def i3cDcr : Nat := 0x00
def arbitration (s : State) : Nat := i3cPid s * 2 ^ 16 + i3cBcr * 2 ^ 8 + i3cDcr

/-- ENTDAA: a module without an address sends its arbitration word, and takes the address when it wins. -/
def entdaa (s : State) (addr : Nat) (won : Bool) : State :=
  if s.cul.da.isSome then s
  else
    let s1 := i3cSend s 1 (beBytes 8 (arbitration s))
    if won then onCul s1 (fun c => { c with da := some addr, hotJoin := false }) else s1

def execEntdaa (addr : Fin 128) (won : Bool) (s : State) : Host.Outcome State Fault Refusal := cccAll s (fun s => entdaa s addr won)

/-- RSTDAA: the address is lost, and one Hot-Join is due at Bus Idle. -/
def execRstdaa (s : State) : Host.Outcome State Fault Refusal :=
  cccAll s (fun s => onCul s (fun c => { c with da := none, hotJoin := true }))

def execSetnewda (addr : Fin 128) (s : State) : Host.Outcome State Fault Refusal :=
  cccTo s (fun s => onCul s (fun c => { c with da := some addr.val }))

/-- ENEC: enabling Hot-Join events (bit 3) without an address makes one due. -/
def execEnec (events : BitVec 8) (s : State) : Host.Outcome State Fault Refusal :=
  cccAll s (fun s => onCul s (fun c =>
    { c with events := c.events ||| events.toNat, hotJoin := c.hotJoin || (bitAt events.toNat 3 && c.da.isNone) }))

def execDisec (events : BitVec 8) (s : State) : Host.Outcome State Fault Refusal :=
  cccAll s (fun s => onCul s (fun c => { c with events := c.events - (c.events &&& events.toNat) }))

def execGetpid (s : State) : Host.Outcome State Fault Refusal := cccTo s (fun s => i3cSend s 2 (beBytes 6 (i3cPid s)))
def execGetbcr (s : State) : Host.Outcome State Fault Refusal := cccTo s (fun s => i3cSend s 3 [BitVec.ofNat 8 i3cBcr])
def execGetdcr (s : State) : Host.Outcome State Fault Refusal := cccTo s (fun s => i3cSend s 4 [BitVec.ofNat 8 i3cDcr])

/-- GETSTATUS: the spec gives no contents; the two bytes are open. -/
def execGetstatus (s : State) : Host.Outcome State Fault Refusal :=
  cccTo s (fun s => { i3cSend s 5 (beBytes 2 ((Config.free s.free).toNat % 2 ^ 16)) with free := s.free + 1 })

/-- MWL and MRL range from 8 to 256; another value is not taken. -/
def lengthOk (n : Nat) : Bool := decide (8 ≤ n) && decide (n ≤ 256)

def execSetmwl (len : BitVec 16) (s : State) : Host.Outcome State Fault Refusal :=
  cccAll s (fun s => if lengthOk len.toNat then onCul s (fun c => { c with mwl := len.toNat }) else s)

def execGetmwl (s : State) : Host.Outcome State Fault Refusal := cccTo s (fun s => i3cSend s 6 (beBytes 2 s.cul.mwl))

def execSetmrl (len : BitVec 16) (s : State) : Host.Outcome State Fault Refusal :=
  cccAll s (fun s => if lengthOk len.toNat then onCul s (fun c => { c with mrl := len.toNat }) else s)

def execGetmrl (s : State) : Host.Outcome State Fault Refusal := cccTo s (fun s => i3cSend s 7 (beBytes 2 s.cul.mrl))

/-- RSTACT: the action is taken up; the spec gives it no further effect. -/
def execRstact (action : BitVec 8) (s : State) : Host.Outcome State Fault Refusal :=
  cccAll s (fun s => onCul s (fun c => { c with rstact := action.toNat }))

/-! ## Private transfers (R639, R640) -/

/-- The window of an offset of the management map. -/
def mgmtWin (a : Nat) : BarWin × Nat :=
  if a < 0x10000 then (.cul, a)
  else if a < 0x20000 then (.pwr, a - 0x10000)
  else if a < 0x30000 then (.rst, a - 0x20000)
  else if a < 0x30200 then (.crm ((a - 0x30000) / 256), a % 256)
  else (.none, 0)

/-- Read one word of the management map; a read of CUL_STATUS releases ALERT# (R640). -/
def mgmtRead (s : State) (a : Nat) : State × Nat :=
  let (x, o) := mgmtWin a
  if winWide x (o / 8 * 8) then
    if o % 8 = 0 then
      let v := winReg s 0 x o
      (onCul (readEffect s x o) (fun c => { c with latch := (a, v / 2 ^ 32) :: c.latch.filter (fun e => e.1 ≠ a) }), v % 2 ^ 32)
    else match s.cul.latch.find? (fun e => e.1 == a - 4) with
      | some e => (onCul s (fun c => { c with latch := c.latch.filter (fun e => e.1 ≠ a - 4) }), e.2)
      | none => (s, winWord s 0 x o)
  else (if a = 4 then onCul s (fun c => { c with alert := false }) else s, winWord s 0 x o)

/-- Read words from an address on; the address reached. -/
def mgmtReads : Nat → State → Nat → List Byte → State × List Byte × Nat
  | 0, s, a, bs => (s, bs, a)
  | n + 1, s, a, bs =>
    let (s1, v) := mgmtRead s a
    mgmtReads n s1 ((a + 4) % 2 ^ 24) (bs ++ leBytes 4 v)

/-- A private transfer that is ignored (R639). -/
def i3cBad (s : State) : State := culErr s 4 0 0

/-- A private read of n words, at most MRL bytes. -/
def privateRead (s : State) (n : Nat) : State :=
  let (s1, bs, a) := mgmtReads (min n (s.cul.mrl / 4)) s s.cul.addr []
  culBump (onCul (i3cSend s1 0 bs) (fun c => { c with addr := a })) 2 1

def execPrivateRead (n : Nat) (s : State) : Host.Outcome State Fault Refusal := cccTo s (fun s => privateRead s n)

/-- A management read of CUL_STATUS: one word from offset 4. -/
def execCulStatusRead (s : State) : Host.Outcome State Fault Refusal :=
  cccTo s (fun s => privateRead (onCul s (fun c => { c with addr := 4 })) 1)

def privateAddress (s : State) (a : Nat) : State :=
  if a % 4 ≠ 0 then i3cBad s else culBump (onCul s (fun c => { c with addr := a })) 2 1

def execPrivateWriteSetAddress (addr : BitVec 24) (s : State) : Host.Outcome State Fault Refusal := cccTo s (fun s => privateAddress s addr.toNat)

/-- A private write of a word: the registers that the map accepts writes to. -/
def privateWord (s : State) (a word : Nat) : State :=
  match a with
  | 0x000008 => culBump (nodeWrite s word) 2 1
  | 0x000018 => culCtrl (culBump s 2 1) word
  | 0x010018 => culBump (regWrite s 0 .pwr 0x018 word) 2 1
  | 0x01000C => culBump (regWrite s 0 .pwr 0x00C word) 2 1
  | 0x020018 => culBump (regWrite s 0 .rst 0x018 word) 2 1
  | 0x02001C => culBump (trierCtrl s word) 2 1
  | _ => i3cBad s

def execPrivateWriteWord (off : BitVec 24) (word : Word) (s : State) : Host.Outcome State Fault Refusal :=
  cccTo s (fun s => privateWord s off.toNat word.toNat)

/-! ## Hot-Join and bus faults (R638, R643) -/

/-- HOT_JOIN: a request that is due, of a module without an address, while Hot-Join events are enabled. -/
def hotJoinNow (s : State) : State :=
  if i3cAwake s && s.cul.hotJoin && s.cul.da.isNone && bitAt s.cul.events 3 && !s.cul.busFault then
    onCul (i3cSend s 8 []) (fun c => { c with hotJoin := false })
  else s

def execHotJoin (s : State) : Host.Outcome State Fault Refusal := .next (hotJoinNow s)

/-- I3C_BUS_FAULT: the endpoint releases its drivers and waits for a valid START. -/
def execI3cBusFault (s : State) : Host.Outcome State Fault Refusal :=
  .next (if s.pwr.off then s else onCul s (fun c => { c with busFault := true }))

end Sys2Proof.Machine
end

