-- ==== Sys2Proof/Machine/PredInstr.lean ====
section
/-!
DEFINITION. Sys2Proof/Machine/PredInstr.lean: the predicate instructions (R200), each the step of the running program
whose next instruction has these fields (R199). Their results are Machine/Predicate.lean's `predLane`.
-/

namespace Sys2Proof.Machine

open Sys2Proof

/-- PRED_NOP, opcode 0x00. -/
def execPredNop (w : Fin 8) (p : Fin 12) (d a b : Fin 16) (k : Bool) (imm : Word) (s : State) :
    Host.Outcome State Fault Refusal :=
  predCmd w p 0x00 d a b k imm.toNat s

/-- LDC, opcode 0x01. -/
def execLdc (w : Fin 8) (p : Fin 12) (d a b : Fin 16) (k : Bool) (imm : Word) (s : State) :
    Host.Outcome State Fault Refusal :=
  predCmd w p 0x01 d a b k imm.toNat s

/-- LDK, opcode 0x02. -/
def execLdk (w : Fin 8) (p : Fin 12) (d a b : Fin 16) (k : Bool) (imm : Word) (s : State) :
    Host.Outcome State Fault Refusal :=
  predCmd w p 0x02 d a b k imm.toNat s

/-- LDNULL, opcode 0x03. -/
def execLdnull (w : Fin 8) (p : Fin 12) (d a b : Fin 16) (k : Bool) (imm : Word) (s : State) :
    Host.Outcome State Fault Refusal :=
  predCmd w p 0x03 d a b k imm.toNat s

/-- MOV, opcode 0x04. -/
def execMov (w : Fin 8) (p : Fin 12) (d a b : Fin 16) (k : Bool) (imm : Word) (s : State) :
    Host.Outcome State Fault Refusal :=
  predCmd w p 0x04 d a b k imm.toNat s

/-- PRED_ADD, opcode 0x08. -/
def execPredAdd (w : Fin 8) (p : Fin 12) (d a b : Fin 16) (k : Bool) (imm : Word) (s : State) :
    Host.Outcome State Fault Refusal :=
  predCmd w p 0x08 d a b k imm.toNat s

/-- PRED_SUB, opcode 0x09. -/
def execPredSub (w : Fin 8) (p : Fin 12) (d a b : Fin 16) (k : Bool) (imm : Word) (s : State) :
    Host.Outcome State Fault Refusal :=
  predCmd w p 0x09 d a b k imm.toNat s

/-- PRED_MUL, opcode 0x0A. -/
def execPredMul (w : Fin 8) (p : Fin 12) (d a b : Fin 16) (k : Bool) (imm : Word) (s : State) :
    Host.Outcome State Fault Refusal :=
  predCmd w p 0x0A d a b k imm.toNat s

/-- BAND, opcode 0x0B. -/
def execBand (w : Fin 8) (p : Fin 12) (d a b : Fin 16) (k : Bool) (imm : Word) (s : State) :
    Host.Outcome State Fault Refusal :=
  predCmd w p 0x0B d a b k imm.toNat s

/-- BOR, opcode 0x0C. -/
def execBor (w : Fin 8) (p : Fin 12) (d a b : Fin 16) (k : Bool) (imm : Word) (s : State) :
    Host.Outcome State Fault Refusal :=
  predCmd w p 0x0C d a b k imm.toNat s

/-- BXOR, opcode 0x0D. -/
def execBxor (w : Fin 8) (p : Fin 12) (d a b : Fin 16) (k : Bool) (imm : Word) (s : State) :
    Host.Outcome State Fault Refusal :=
  predCmd w p 0x0D d a b k imm.toNat s

/-- PRED_SHR, opcode 0x0E. -/
def execPredShr (w : Fin 8) (p : Fin 12) (d a b : Fin 16) (k : Bool) (imm : Word) (s : State) :
    Host.Outcome State Fault Refusal :=
  predCmd w p 0x0E d a b k imm.toNat s

/-- PRED_SHL, opcode 0x0F. -/
def execPredShl (w : Fin 8) (p : Fin 12) (d a b : Fin 16) (k : Bool) (imm : Word) (s : State) :
    Host.Outcome State Fault Refusal :=
  predCmd w p 0x0F d a b k imm.toNat s

/-- FADD, opcode 0x10. -/
def execFadd (w : Fin 8) (p : Fin 12) (d a b : Fin 16) (k : Bool) (imm : Word) (s : State) :
    Host.Outcome State Fault Refusal :=
  predCmd w p 0x10 d a b k imm.toNat s

/-- FSUB, opcode 0x11. -/
def execFsub (w : Fin 8) (p : Fin 12) (d a b : Fin 16) (k : Bool) (imm : Word) (s : State) :
    Host.Outcome State Fault Refusal :=
  predCmd w p 0x11 d a b k imm.toNat s

/-- FMUL, opcode 0x12. -/
def execFmul (w : Fin 8) (p : Fin 12) (d a b : Fin 16) (k : Bool) (imm : Word) (s : State) :
    Host.Outcome State Fault Refusal :=
  predCmd w p 0x12 d a b k imm.toNat s

/-- ITOF, opcode 0x13. -/
def execItof (w : Fin 8) (p : Fin 12) (d a b : Fin 16) (k : Bool) (imm : Word) (s : State) :
    Host.Outcome State Fault Refusal :=
  predCmd w p 0x13 d a b k imm.toNat s

/-- FABS, opcode 0x14. -/
def execFabs (w : Fin 8) (p : Fin 12) (d a b : Fin 16) (k : Bool) (imm : Word) (s : State) :
    Host.Outcome State Fault Refusal :=
  predCmd w p 0x14 d a b k imm.toNat s

/-- EQ, opcode 0x18. -/
def execEq (w : Fin 8) (p : Fin 12) (d a b : Fin 16) (k : Bool) (imm : Word) (s : State) :
    Host.Outcome State Fault Refusal :=
  predCmd w p 0x18 d a b k imm.toNat s

/-- NE, opcode 0x19. -/
def execNe (w : Fin 8) (p : Fin 12) (d a b : Fin 16) (k : Bool) (imm : Word) (s : State) :
    Host.Outcome State Fault Refusal :=
  predCmd w p 0x19 d a b k imm.toNat s

/-- LT, opcode 0x1A. -/
def execLt (w : Fin 8) (p : Fin 12) (d a b : Fin 16) (k : Bool) (imm : Word) (s : State) :
    Host.Outcome State Fault Refusal :=
  predCmd w p 0x1A d a b k imm.toNat s

/-- LE, opcode 0x1B. -/
def execLe (w : Fin 8) (p : Fin 12) (d a b : Fin 16) (k : Bool) (imm : Word) (s : State) :
    Host.Outcome State Fault Refusal :=
  predCmd w p 0x1B d a b k imm.toNat s

/-- GT, opcode 0x1C. -/
def execGt (w : Fin 8) (p : Fin 12) (d a b : Fin 16) (k : Bool) (imm : Word) (s : State) :
    Host.Outcome State Fault Refusal :=
  predCmd w p 0x1C d a b k imm.toNat s

/-- GE, opcode 0x1D. -/
def execGe (w : Fin 8) (p : Fin 12) (d a b : Fin 16) (k : Bool) (imm : Word) (s : State) :
    Host.Outcome State Fault Refusal :=
  predCmd w p 0x1D d a b k imm.toNat s

/-- LTU, opcode 0x1E. -/
def execLtu (w : Fin 8) (p : Fin 12) (d a b : Fin 16) (k : Bool) (imm : Word) (s : State) :
    Host.Outcome State Fault Refusal :=
  predCmd w p 0x1E d a b k imm.toNat s

/-- LEU, opcode 0x1F. -/
def execLeu (w : Fin 8) (p : Fin 12) (d a b : Fin 16) (k : Bool) (imm : Word) (s : State) :
    Host.Outcome State Fault Refusal :=
  predCmd w p 0x1F d a b k imm.toNat s

/-- FEQ, opcode 0x20. -/
def execFeq (w : Fin 8) (p : Fin 12) (d a b : Fin 16) (k : Bool) (imm : Word) (s : State) :
    Host.Outcome State Fault Refusal :=
  predCmd w p 0x20 d a b k imm.toNat s

/-- FNE, opcode 0x21. -/
def execFne (w : Fin 8) (p : Fin 12) (d a b : Fin 16) (k : Bool) (imm : Word) (s : State) :
    Host.Outcome State Fault Refusal :=
  predCmd w p 0x21 d a b k imm.toNat s

/-- FLT, opcode 0x22. -/
def execFlt (w : Fin 8) (p : Fin 12) (d a b : Fin 16) (k : Bool) (imm : Word) (s : State) :
    Host.Outcome State Fault Refusal :=
  predCmd w p 0x22 d a b k imm.toNat s

/-- FLE, opcode 0x23. -/
def execFle (w : Fin 8) (p : Fin 12) (d a b : Fin 16) (k : Bool) (imm : Word) (s : State) :
    Host.Outcome State Fault Refusal :=
  predCmd w p 0x23 d a b k imm.toNat s

/-- FGT, opcode 0x24. -/
def execFgt (w : Fin 8) (p : Fin 12) (d a b : Fin 16) (k : Bool) (imm : Word) (s : State) :
    Host.Outcome State Fault Refusal :=
  predCmd w p 0x24 d a b k imm.toNat s

/-- FGE, opcode 0x25. -/
def execFge (w : Fin 8) (p : Fin 12) (d a b : Fin 16) (k : Bool) (imm : Word) (s : State) :
    Host.Outcome State Fault Refusal :=
  predCmd w p 0x25 d a b k imm.toNat s

/-- LAND, opcode 0x28. -/
def execLand (w : Fin 8) (p : Fin 12) (d a b : Fin 16) (k : Bool) (imm : Word) (s : State) :
    Host.Outcome State Fault Refusal :=
  predCmd w p 0x28 d a b k imm.toNat s

/-- LOR, opcode 0x29. -/
def execLor (w : Fin 8) (p : Fin 12) (d a b : Fin 16) (k : Bool) (imm : Word) (s : State) :
    Host.Outcome State Fault Refusal :=
  predCmd w p 0x29 d a b k imm.toNat s

/-- LNOT, opcode 0x2A. -/
def execLnot (w : Fin 8) (p : Fin 12) (d a b : Fin 16) (k : Bool) (imm : Word) (s : State) :
    Host.Outcome State Fault Refusal :=
  predCmd w p 0x2A d a b k imm.toNat s

/-- ISNULL, opcode 0x2B. -/
def execIsnull (w : Fin 8) (p : Fin 12) (d a b : Fin 16) (k : Bool) (imm : Word) (s : State) :
    Host.Outcome State Fault Refusal :=
  predCmd w p 0x2B d a b k imm.toNat s

/-- ISNOTNULL, opcode 0x2C. -/
def execIsnotnull (w : Fin 8) (p : Fin 12) (d a b : Fin 16) (k : Bool) (imm : Word) (s : State) :
    Host.Outcome State Fault Refusal :=
  predCmd w p 0x2C d a b k imm.toNat s

/-- ISTRUE, opcode 0x2D. -/
def execIstrue (w : Fin 8) (p : Fin 12) (d a b : Fin 16) (k : Bool) (imm : Word) (s : State) :
    Host.Outcome State Fault Refusal :=
  predCmd w p 0x2D d a b k imm.toNat s

/-- STREQ, opcode 0x30. -/
def execStreq (w : Fin 8) (p : Fin 12) (d a b : Fin 16) (k : Bool) (imm : Word) (s : State) :
    Host.Outcome State Fault Refusal :=
  predCmd w p 0x30 d a b k imm.toNat s

/-- STRPFX, opcode 0x31. -/
def execStrpfx (w : Fin 8) (p : Fin 12) (d a b : Fin 16) (k : Bool) (imm : Word) (s : State) :
    Host.Outcome State Fault Refusal :=
  predCmd w p 0x31 d a b k imm.toNat s

/-- BETWEEN, opcode 0x38. -/
def execBetween (w : Fin 8) (p : Fin 12) (d a b : Fin 16) (k : Bool) (imm : Word) (s : State) :
    Host.Outcome State Fault Refusal :=
  predCmd w p 0x38 d a b k imm.toNat s

/-- FBETWEEN, opcode 0x39. -/
def execFbetween (w : Fin 8) (p : Fin 12) (d a b : Fin 16) (k : Bool) (imm : Word) (s : State) :
    Host.Outcome State Fault Refusal :=
  predCmd w p 0x39 d a b k imm.toNat s

end Sys2Proof.Machine
end

