-- ==== Sys2Proof/Machine/VatInstr.lean ====
section
/-!
DEFINITION. Sys2Proof/Machine/VatInstr.lean: one meaning per vat instruction. Each names the word that its slot of the
bundle at PC must hold (R141 and the slot tables of chapter 5) and what the slot does.
-/

namespace Sys2Proof.Machine

/-- NOP in one slot. -/
def execNop (w : Fin 8) (v : Fin 32) (slot : Fin 4) (s : State) : Host.Outcome State Fault Refusal :=
  slotOn s w v slot 0 effNop

/-- END, control slot opcode 0x01. -/
def execEndOp (w : Fin 8) (v : Fin 32) (s : State) : Host.Outcome State Fault Refusal :=
  slotOn s w v 0 (slotWord 0x01 0 0 0 0 0 0) (effEnd)

/-- TRAP, control slot opcode 0x02. -/
def execTrap (w : Fin 8) (v : Fin 32) (fa : Fin 32) (s : State) : Host.Outcome State Fault Refusal :=
  slotOn s w v 0 (slotWord 0x02 0 fa 0 0 0 0) (effTrap fa)

/-- JMP, control slot opcode 0x03. -/
def execJmp (w : Fin 8) (v : Fin 32) (tgt : Fin 512) (s : State) : Host.Outcome State Fault Refusal :=
  slotOn s w v 0 (slotWord 0x03 0 0 0 0 0 tgt) (effJmp tgt)

/-- BNZ, control slot opcode 0x04. -/
def execBnz (w : Fin 8) (v : Fin 32) (fa : Fin 32) (tgt : Fin 512) (s : State) : Host.Outcome State Fault Refusal :=
  slotOn s w v 0 (slotWord 0x04 0 fa 0 0 0 tgt) (effBnz fa tgt)

/-- BZ, control slot opcode 0x05. -/
def execBz (w : Fin 8) (v : Fin 32) (fa : Fin 32) (tgt : Fin 512) (s : State) : Host.Outcome State Fault Refusal :=
  slotOn s w v 0 (slotWord 0x05 0 fa 0 0 0 tgt) (effBz fa tgt)

/-- LOOP, control slot opcode 0x06. -/
def execLoop (w : Fin 8) (v : Fin 32) (d : Fin 32) (tgt : Fin 512) (s : State) : Host.Outcome State Fault Refusal :=
  slotOn s w v 0 (slotWord 0x06 d 0 0 0 0 tgt) (effLoop d tgt)

/-- LI, control slot opcode 0x08. -/
def execLi (w : Fin 8) (v : Fin 32) (d : Fin 32) (imm : Word) (s : State) : Host.Outcome State Fault Refusal :=
  slotOn s w v 0 (slotWord 0x08 d 0 0 0 0 imm.toNat) (effLi d imm)

/-- ADDI, control slot opcode 0x0A. -/
def execAddi (w : Fin 8) (v : Fin 32) (d fa : Fin 32) (imm : Word) (s : State) : Host.Outcome State Fault Refusal :=
  slotOn s w v 0 (slotWord 0x0A d fa 0 0 0 imm.toNat) (effAddi d fa imm)

/-- ADD, control slot opcode 0x09. -/
def execAdd (w : Fin 8) (v : Fin 32) (d fa fb : Fin 32) (s : State) : Host.Outcome State Fault Refusal :=
  slotOn s w v 0 (slotWord 0x09 d fa fb 0 0 0) (effAdd d fa fb)

/-- SUB, control slot opcode 0x0B. -/
def execSub (w : Fin 8) (v : Fin 32) (d fa fb : Fin 32) (s : State) : Host.Outcome State Fault Refusal :=
  slotOn s w v 0 (slotWord 0x0B d fa fb 0 0 0) (effSub d fa fb)

/-- MUL, control slot opcode 0x0C. -/
def execMul (w : Fin 8) (v : Fin 32) (d fa fb : Fin 32) (s : State) : Host.Outcome State Fault Refusal :=
  slotOn s w v 0 (slotWord 0x0C d fa fb 0 0 0) (effMul d fa fb)

/-- AND, control slot opcode 0x0D. -/
def execAndS (w : Fin 8) (v : Fin 32) (d fa fb : Fin 32) (s : State) : Host.Outcome State Fault Refusal :=
  slotOn s w v 0 (slotWord 0x0D d fa fb 0 0 0) (effAnd d fa fb)

/-- OR, control slot opcode 0x0E. -/
def execOrS (w : Fin 8) (v : Fin 32) (d fa fb : Fin 32) (s : State) : Host.Outcome State Fault Refusal :=
  slotOn s w v 0 (slotWord 0x0E d fa fb 0 0 0) (effOr d fa fb)

/-- XOR, control slot opcode 0x0F. -/
def execXor (w : Fin 8) (v : Fin 32) (d fa fb : Fin 32) (s : State) : Host.Outcome State Fault Refusal :=
  slotOn s w v 0 (slotWord 0x0F d fa fb 0 0 0) (effXor d fa fb)

/-- SHL, control slot opcode 0x10. -/
def execShl (w : Fin 8) (v : Fin 32) (d fa fb : Fin 32) (s : State) : Host.Outcome State Fault Refusal :=
  slotOn s w v 0 (slotWord 0x10 d fa fb 0 0 0) (effShl d fa fb)

/-- SHR, control slot opcode 0x11. -/
def execShr (w : Fin 8) (v : Fin 32) (d fa fb : Fin 32) (s : State) : Host.Outcome State Fault Refusal :=
  slotOn s w v 0 (slotWord 0x11 d fa fb 0 0 0) (effShr d fa fb)

/-- SRA, control slot opcode 0x12. -/
def execSra (w : Fin 8) (v : Fin 32) (d fa fb : Fin 32) (s : State) : Host.Outcome State Fault Refusal :=
  slotOn s w v 0 (slotWord 0x12 d fa fb 0 0 0) (effSra d fa fb)

/-- MIN, control slot opcode 0x13. -/
def execMin (w : Fin 8) (v : Fin 32) (d fa fb : Fin 32) (s : State) : Host.Outcome State Fault Refusal :=
  slotOn s w v 0 (slotWord 0x13 d fa fb 0 0 0) (effMin d fa fb)

/-- MAX, control slot opcode 0x14. -/
def execMax (w : Fin 8) (v : Fin 32) (d fa fb : Fin 32) (s : State) : Host.Outcome State Fault Refusal :=
  slotOn s w v 0 (slotWord 0x14 d fa fb 0 0 0) (effMax d fa fb)

/-- SLT, control slot opcode 0x15. -/
def execSlt (w : Fin 8) (v : Fin 32) (d fa fb : Fin 32) (s : State) : Host.Outcome State Fault Refusal :=
  slotOn s w v 0 (slotWord 0x15 d fa fb 0 0 0) (effSlt d fa fb)

/-- SLTU, control slot opcode 0x16. -/
def execSltu (w : Fin 8) (v : Fin 32) (d fa fb : Fin 32) (s : State) : Host.Outcome State Fault Refusal :=
  slotOn s w v 0 (slotWord 0x16 d fa fb 0 0 0) (effSltu d fa fb)

/-- SEQ, control slot opcode 0x17. -/
def execSeq (w : Fin 8) (v : Fin 32) (d fa fb : Fin 32) (s : State) : Host.Outcome State Fault Refusal :=
  slotOn s w v 0 (slotWord 0x17 d fa fb 0 0 0) (effSeq d fa fb)

/-- PAND, control slot opcode 0x20. -/
def execPand (w : Fin 8) (v : Fin 32) (d fa fb : Fin 8) (s : State) : Host.Outcome State Fault Refusal :=
  slotOn s w v 0 (slotWord 0x20 d fa fb 0 0 0) (effPand d fa fb)

/-- POR, control slot opcode 0x21. -/
def execPor (w : Fin 8) (v : Fin 32) (d fa fb : Fin 8) (s : State) : Host.Outcome State Fault Refusal :=
  slotOn s w v 0 (slotWord 0x21 d fa fb 0 0 0) (effPor d fa fb)

/-- PXOR, control slot opcode 0x22. -/
def execPxor (w : Fin 8) (v : Fin 32) (d fa fb : Fin 8) (s : State) : Host.Outcome State Fault Refusal :=
  slotOn s w v 0 (slotWord 0x22 d fa fb 0 0 0) (effPxor d fa fb)

/-- PSET, control slot opcode 0x25. -/
def execPset (w : Fin 8) (v : Fin 32) (d : Fin 8) (fa fb : Fin 32) (s : State) : Host.Outcome State Fault Refusal :=
  slotOn s w v 0 (slotWord 0x25 d fa fb 0 0 0) (effPset d fa fb)

/-- PNOT, control slot opcode 0x23. -/
def execPnot (w : Fin 8) (v : Fin 32) (d fa : Fin 8) (s : State) : Host.Outcome State Fault Refusal :=
  slotOn s w v 0 (slotWord 0x23 d fa 0 0 0 0) (effPnot d fa)

/-- PFIRST, control slot opcode 0x24. -/
def execPfirst (w : Fin 8) (v : Fin 32) (d : Fin 8) (fa : Fin 32) (s : State) : Host.Outcome State Fault Refusal :=
  slotOn s w v 0 (slotWord 0x24 d fa 0 0 0 0) (effPfirst d fa)

/-- PCOUNT, control slot opcode 0x26. -/
def execPcount (w : Fin 8) (v : Fin 32) (d : Fin 32) (fa : Fin 8) (s : State) : Host.Outcome State Fault Refusal :=
  slotOn s w v 0 (slotWord 0x26 d fa 0 0 0 0) (effPcount d fa)

/-- MCFG, matrix slot opcode 0x01. -/
def execMcfg (w : Fin 8) (v : Fin 32) (c : Fin 2) (imm : Word) (s : State) : Host.Outcome State Fault Refusal :=
  slotOn s w v 1 (slotWord 0x01 c 0 0 0 0 imm.toNat) (effMcfg c imm)

/-- MCLR, matrix slot opcode 0x02. -/
def execMclr (w : Fin 8) (v : Fin 32) (c : Fin 2) (s : State) : Host.Outcome State Fault Refusal :=
  slotOn s w v 1 (slotWord 0x02 c 0 0 0 0 0) (effMclr c)

/-- MANC, matrix slot opcode 0x03. -/
def execManc (w : Fin 8) (v : Fin 32) (c : Fin 2) (ta tb : Fin 8) (si sj : Fin 32) (s : State) : Host.Outcome State Fault Refusal :=
  slotOn s w v 1 (slotWord 0x03 c ta tb si 0 sj) (effManc c ta tb si sj)

/-- MMA, matrix slot opcode 0x04. -/
def execMma (w : Fin 8) (v : Fin 32) (c : Fin 2) (ta tb : Fin 8) (si sj sk sn : Fin 32) (s : State) : Host.Outcome State Fault Refusal :=
  slotOn s w v 1 (slotWord 0x04 c ta tb si 0 (sj + 32 * sk.val + 1024 * sn.val)) (effMma c ta tb si sj sk sn)

/-- MCVT, matrix slot opcode 0x05. -/
def execMcvt (w : Fin 8) (v : Fin 32) (c : Fin 2) (ty : Byte) (inf : Bool) (s : State) : Host.Outcome State Fault Refusal :=
  slotOn s w v 1 (slotWord 0x05 c 0 0 0 0 (ty.toNat + 256 * b2n inf)) (effMcvt c ty inf)

/-- MADDP, matrix slot opcode 0x06. -/
def execMaddp (w : Fin 8) (v : Fin 32) (c : Fin 2) (ta : Fin 8) (si sj : Fin 32) (s : State) : Host.Outcome State Fault Refusal :=
  slotOn s w v 1 (slotWord 0x06 c ta 0 si 0 sj) (effMaddp c ta si sj)

/-- MSEG, matrix slot opcode 0x07. -/
def execMseg (w : Fin 8) (v : Fin 32) (c : Fin 2) (s : State) : Host.Outcome State Fault Refusal :=
  slotOn s w v 1 (slotWord 0x07 c 0 0 0 0 0) (effMseg c)

/-- VADD, vector slot opcode 0x01. -/
def execVadd (w : Fin 8) (v : Fin 32) (d fa fb : Fin 32) (pr : Fin 8) (s : State) : Host.Outcome State Fault Refusal :=
  slotOn s w v 2 (slotWord 0x01 d fa fb 0 pr 0) (effVadd d fa fb pr)

/-- VSUB, vector slot opcode 0x02. -/
def execVsub (w : Fin 8) (v : Fin 32) (d fa fb : Fin 32) (pr : Fin 8) (s : State) : Host.Outcome State Fault Refusal :=
  slotOn s w v 2 (slotWord 0x02 d fa fb 0 pr 0) (effVsub d fa fb pr)

/-- VMUL, vector slot opcode 0x03. -/
def execVmul (w : Fin 8) (v : Fin 32) (d fa fb : Fin 32) (pr : Fin 8) (s : State) : Host.Outcome State Fault Refusal :=
  slotOn s w v 2 (slotWord 0x03 d fa fb 0 pr 0) (effVmul d fa fb pr)

/-- VMIN, vector slot opcode 0x05. -/
def execVmin (w : Fin 8) (v : Fin 32) (d fa fb : Fin 32) (pr : Fin 8) (s : State) : Host.Outcome State Fault Refusal :=
  slotOn s w v 2 (slotWord 0x05 d fa fb 0 pr 0) (effVmin d fa fb pr)

/-- VMAX, vector slot opcode 0x06. -/
def execVmax (w : Fin 8) (v : Fin 32) (d fa fb : Fin 32) (pr : Fin 8) (s : State) : Host.Outcome State Fault Refusal :=
  slotOn s w v 2 (slotWord 0x06 d fa fb 0 pr 0) (effVmax d fa fb pr)

/-- VIADD, vector slot opcode 0x20. -/
def execViadd (w : Fin 8) (v : Fin 32) (d fa fb : Fin 32) (pr : Fin 8) (s : State) : Host.Outcome State Fault Refusal :=
  slotOn s w v 2 (slotWord 0x20 d fa fb 0 pr 0) (effViadd d fa fb pr)

/-- VISUB, vector slot opcode 0x21. -/
def execVisub (w : Fin 8) (v : Fin 32) (d fa fb : Fin 32) (pr : Fin 8) (s : State) : Host.Outcome State Fault Refusal :=
  slotOn s w v 2 (slotWord 0x21 d fa fb 0 pr 0) (effVisub d fa fb pr)

/-- VIMUL, vector slot opcode 0x22. -/
def execVimul (w : Fin 8) (v : Fin 32) (d fa fb : Fin 32) (pr : Fin 8) (s : State) : Host.Outcome State Fault Refusal :=
  slotOn s w v 2 (slotWord 0x22 d fa fb 0 pr 0) (effVimul d fa fb pr)

/-- VAND, vector slot opcode 0x23. -/
def execVand (w : Fin 8) (v : Fin 32) (d fa fb : Fin 32) (pr : Fin 8) (s : State) : Host.Outcome State Fault Refusal :=
  slotOn s w v 2 (slotWord 0x23 d fa fb 0 pr 0) (effVand d fa fb pr)

/-- VOR, vector slot opcode 0x24. -/
def execVor (w : Fin 8) (v : Fin 32) (d fa fb : Fin 32) (pr : Fin 8) (s : State) : Host.Outcome State Fault Refusal :=
  slotOn s w v 2 (slotWord 0x24 d fa fb 0 pr 0) (effVor d fa fb pr)

/-- VXOR, vector slot opcode 0x25. -/
def execVxor (w : Fin 8) (v : Fin 32) (d fa fb : Fin 32) (pr : Fin 8) (s : State) : Host.Outcome State Fault Refusal :=
  slotOn s w v 2 (slotWord 0x25 d fa fb 0 pr 0) (effVxor d fa fb pr)

/-- VIMIN, vector slot opcode 0x29. -/
def execVimin (w : Fin 8) (v : Fin 32) (d fa fb : Fin 32) (pr : Fin 8) (s : State) : Host.Outcome State Fault Refusal :=
  slotOn s w v 2 (slotWord 0x29 d fa fb 0 pr 0) (effVimin d fa fb pr)

/-- VIMAX, vector slot opcode 0x2A. -/
def execVimax (w : Fin 8) (v : Fin 32) (d fa fb : Fin 32) (pr : Fin 8) (s : State) : Host.Outcome State Fault Refusal :=
  slotOn s w v 2 (slotWord 0x2A d fa fb 0 pr 0) (effVimax d fa fb pr)

/-- VSEL, vector slot opcode 0x39. -/
def execVsel (w : Fin 8) (v : Fin 32) (d fa fb : Fin 32) (pr : Fin 8) (s : State) : Host.Outcome State Fault Refusal :=
  slotOn s w v 2 (slotWord 0x39 d fa fb 0 pr 0) (effVsel d fa fb pr)

/-- VCMPLT, vector slot opcode 0x18. -/
def execVcmplt (w : Fin 8) (v : Fin 32) (d : Fin 8) (fa fb : Fin 32) (pr : Fin 8) (s : State) : Host.Outcome State Fault Refusal :=
  slotOn s w v 2 (slotWord 0x18 d fa fb 0 pr 0) (effVcmplt d fa fb pr)

/-- VCMPLE, vector slot opcode 0x19. -/
def execVcmple (w : Fin 8) (v : Fin 32) (d : Fin 8) (fa fb : Fin 32) (pr : Fin 8) (s : State) : Host.Outcome State Fault Refusal :=
  slotOn s w v 2 (slotWord 0x19 d fa fb 0 pr 0) (effVcmple d fa fb pr)

/-- VCMPEQ, vector slot opcode 0x1A. -/
def execVcmpeq (w : Fin 8) (v : Fin 32) (d : Fin 8) (fa fb : Fin 32) (pr : Fin 8) (s : State) : Host.Outcome State Fault Refusal :=
  slotOn s w v 2 (slotWord 0x1A d fa fb 0 pr 0) (effVcmpeq d fa fb pr)

/-- VCMPUN, vector slot opcode 0x1B. -/
def execVcmpun (w : Fin 8) (v : Fin 32) (d : Fin 8) (fa fb : Fin 32) (pr : Fin 8) (s : State) : Host.Outcome State Fault Refusal :=
  slotOn s w v 2 (slotWord 0x1B d fa fb 0 pr 0) (effVcmpun d fa fb pr)

/-- VICMPLT, vector slot opcode 0x2B. -/
def execVicmplt (w : Fin 8) (v : Fin 32) (d : Fin 8) (fa fb : Fin 32) (pr : Fin 8) (s : State) : Host.Outcome State Fault Refusal :=
  slotOn s w v 2 (slotWord 0x2B d fa fb 0 pr 0) (effVicmplt d fa fb pr)

/-- VFMA, vector slot opcode 0x04. -/
def execVfma (w : Fin 8) (v : Fin 32) (d fa fb fc : Fin 32) (pr : Fin 8) (s : State) : Host.Outcome State Fault Refusal :=
  slotOn s w v 2 (slotWord 0x04 d fa fb fc pr 0) (effVfma d fa fb fc pr)

/-- VABS, vector slot opcode 0x07. -/
def execVabs (w : Fin 8) (v : Fin 32) (d fa : Fin 32) (pr : Fin 8) (s : State) : Host.Outcome State Fault Refusal :=
  slotOn s w v 2 (slotWord 0x07 d fa 0 0 pr 0) (effVabs d fa pr)

/-- VNEG, vector slot opcode 0x08. -/
def execVneg (w : Fin 8) (v : Fin 32) (d fa : Fin 32) (pr : Fin 8) (s : State) : Host.Outcome State Fault Refusal :=
  slotOn s w v 2 (slotWord 0x08 d fa 0 0 pr 0) (effVneg d fa pr)

/-- VEXP2, vector slot opcode 0x10. -/
def execVexp2 (w : Fin 8) (v : Fin 32) (d fa : Fin 32) (pr : Fin 8) (s : State) : Host.Outcome State Fault Refusal :=
  slotOn s w v 2 (slotWord 0x10 d fa 0 0 pr 0) (effVexp2 d fa pr)

/-- VLOG2, vector slot opcode 0x11. -/
def execVlog2 (w : Fin 8) (v : Fin 32) (d fa : Fin 32) (pr : Fin 8) (s : State) : Host.Outcome State Fault Refusal :=
  slotOn s w v 2 (slotWord 0x11 d fa 0 0 pr 0) (effVlog2 d fa pr)

/-- VRCP, vector slot opcode 0x12. -/
def execVrcp (w : Fin 8) (v : Fin 32) (d fa : Fin 32) (pr : Fin 8) (s : State) : Host.Outcome State Fault Refusal :=
  slotOn s w v 2 (slotWord 0x12 d fa 0 0 pr 0) (effVrcp d fa pr)

/-- VRSQ, vector slot opcode 0x13. -/
def execVrsq (w : Fin 8) (v : Fin 32) (d fa : Fin 32) (pr : Fin 8) (s : State) : Host.Outcome State Fault Refusal :=
  slotOn s w v 2 (slotWord 0x13 d fa 0 0 pr 0) (effVrsq d fa pr)

/-- VTANH, vector slot opcode 0x14. -/
def execVtanh (w : Fin 8) (v : Fin 32) (d fa : Fin 32) (pr : Fin 8) (s : State) : Host.Outcome State Fault Refusal :=
  slotOn s w v 2 (slotWord 0x14 d fa 0 0 pr 0) (effVtanh d fa pr)

/-- VERF, vector slot opcode 0x15. -/
def execVerf (w : Fin 8) (v : Fin 32) (d fa : Fin 32) (pr : Fin 8) (s : State) : Host.Outcome State Fault Refusal :=
  slotOn s w v 2 (slotWord 0x15 d fa 0 0 pr 0) (effVerf d fa pr)

/-- VRSUM, vector slot opcode 0x3A. -/
def execVrsum (w : Fin 8) (v : Fin 32) (d fa : Fin 32) (pr : Fin 8) (s : State) : Host.Outcome State Fault Refusal :=
  slotOn s w v 2 (slotWord 0x3A d fa 0 0 pr 0) (effVrsum d fa pr)

/-- VRMAX, vector slot opcode 0x3B. -/
def execVrmax (w : Fin 8) (v : Fin 32) (d fa : Fin 32) (pr : Fin 8) (s : State) : Host.Outcome State Fault Refusal :=
  slotOn s w v 2 (slotWord 0x3B d fa 0 0 pr 0) (effVrmax d fa pr)

/-- VBCAST, vector slot opcode 0x38. -/
def execVbcast (w : Fin 8) (v : Fin 32) (d fa : Fin 32) (pr : Fin 8) (s : State) : Host.Outcome State Fault Refusal :=
  slotOn s w v 2 (slotWord 0x38 d fa 0 0 pr 0) (effVbcast d fa pr)

/-- VSHL, vector slot opcode 0x26. -/
def execVshl (w : Fin 8) (v : Fin 32) (d fa : Fin 32) (imm : Fin 32) (pr : Fin 8) (s : State) : Host.Outcome State Fault Refusal :=
  slotOn s w v 2 (slotWord 0x26 d fa 0 0 pr imm) (effVshl d fa imm pr)

/-- VSHR, vector slot opcode 0x27. -/
def execVshr (w : Fin 8) (v : Fin 32) (d fa : Fin 32) (imm : Fin 32) (pr : Fin 8) (s : State) : Host.Outcome State Fault Refusal :=
  slotOn s w v 2 (slotWord 0x27 d fa 0 0 pr imm) (effVshr d fa imm pr)

/-- VSRA, vector slot opcode 0x28. -/
def execVsra (w : Fin 8) (v : Fin 32) (d fa : Fin 32) (imm : Fin 32) (pr : Fin 8) (s : State) : Host.Outcome State Fault Refusal :=
  slotOn s w v 2 (slotWord 0x28 d fa 0 0 pr imm) (effVsra d fa imm pr)

/-- VCVT, vector slot opcode 0x30. -/
def execVcvt (w : Fin 8) (v : Fin 32) (d fa : Fin 32) (src dst : Byte) (inf : Bool) (pr : Fin 8) (s : State) : Host.Outcome State Fault Refusal :=
  slotOn s w v 2 (slotWord 0x30 d fa 0 0 pr (src.toNat + 256 * dst.toNat + 65536 * b2n inf)) (effVcvt d fa src dst inf pr)

/-- VMXQ, vector slot opcode 0x31. -/
def execVmxq (w : Fin 8) (v : Fin 32) (d fa : Fin 32) (ty : Byte) (pr : Fin 8) (s : State) : Host.Outcome State Fault Refusal :=
  slotOn s w v 2 (slotWord 0x31 d fa 0 0 pr ty.toNat) (effVmxq d fa ty pr)

/-- VMXD, vector slot opcode 0x32. -/
def execVmxd (w : Fin 8) (v : Fin 32) (d fa : Fin 32) (ty : Byte) (pr : Fin 8) (s : State) : Host.Outcome State Fault Refusal :=
  slotOn s w v 2 (slotWord 0x32 d fa 0 0 pr ty.toNat) (effVmxd d fa ty pr)

/-- VLANE, vector slot opcode 0x3C. -/
def execVlane (w : Fin 8) (v : Fin 32) (d : Fin 32) (pr : Fin 8) (s : State) : Host.Outcome State Fault Refusal :=
  slotOn s w v 2 (slotWord 0x3C d 0 0 0 pr 0) (effVlane d pr)

/-- VLD, move slot opcode 0x01. -/
def execVld (w : Fin 8) (v : Fin 32) (d : Fin 32) (fa : Fin 16) (imm : Word) (s : State) : Host.Outcome State Fault Refusal :=
  slotOn s w v 3 (slotWord 0x01 d fa 0 0 0 imm.toNat) (effVld d fa imm)

/-- VST, move slot opcode 0x02. -/
def execVst (w : Fin 8) (v : Fin 32) (fa : Fin 16) (fb : Fin 32) (imm : Word) (pr : Fin 8) (s : State) : Host.Outcome State Fault Refusal :=
  slotOn s w v 3 (slotWord 0x02 0 fa fb 0 pr imm.toNat) (effVst fa fb imm pr)

/-- VLDXB, move slot opcode 0x03. -/
def execVldxb (w : Fin 8) (v : Fin 32) (d : Fin 32) (fa : Fin 16) (fc : Fin 32) (imm : Word) (s : State) : Host.Outcome State Fault Refusal :=
  slotOn s w v 3 (slotWord 0x03 d fa 0 fc 0 imm.toNat) (effVldxb d fa fc imm)

/-- VLDXE, move slot opcode 0x04. -/
def execVldxe (w : Fin 8) (v : Fin 32) (d : Fin 32) (fa fb : Fin 16) (imm : Word) (s : State) : Host.Outcome State Fault Refusal :=
  slotOn s w v 3 (slotWord 0x04 d fa fb 0 0 imm.toNat) (effVldxe d fa fb imm)

/-- VXLD, move slot opcode 0x05. -/
def execVxld (w : Fin 8) (v : Fin 32) (d fa : Fin 32) (s : State) : Host.Outcome State Fault Refusal :=
  slotOn s w v 3 (slotWord 0x05 d fa 0 0 0 0) (effVxld d fa)

/-- STOV, move slot opcode 0x06. -/
def execStov (w : Fin 8) (v : Fin 32) (d fa : Fin 32) (lane : Fin 64) (s : State) : Host.Outcome State Fault Refusal :=
  slotOn s w v 3 (slotWord 0x06 d fa 0 0 0 lane) (effStov d fa lane)

/-- VTOS, move slot opcode 0x07. -/
def execVtos (w : Fin 8) (v : Fin 32) (d fa : Fin 32) (lane : Fin 64) (s : State) : Host.Outcome State Fault Refusal :=
  slotOn s w v 3 (slotWord 0x07 d fa 0 0 0 lane) (effVtos d fa lane)

/-- AADD, move slot opcode 0x08. -/
def execAadd (w : Fin 8) (v : Fin 32) (d fa : Fin 16) (imm : Word) (s : State) : Host.Outcome State Fault Refusal :=
  slotOn s w v 3 (slotWord 0x08 d fa 0 0 0 imm.toNat) (effAadd d fa imm)

/-- AADDS, move slot opcode 0x09. -/
def execAadds (w : Fin 8) (v : Fin 32) (d fa : Fin 16) (fb : Fin 32) (s : State) : Host.Outcome State Fault Refusal :=
  slotOn s w v 3 (slotWord 0x09 d fa fb 0 0 0) (effAadds d fa fb)

/-- AMOV, move slot opcode 0x0A. -/
def execAmov (w : Fin 8) (v : Fin 32) (d : Fin 16) (fa fb : Fin 32) (s : State) : Host.Outcome State Fault Refusal :=
  slotOn s w v 3 (slotWord 0x0A d fa fb 0 0 0) (effAmov d fa fb)

/-- ATOS, move slot opcode 0x0B. -/
def execAtos (w : Fin 8) (v : Fin 32) (d : Fin 32) (fa : Fin 16) (s : State) : Host.Outcome State Fault Refusal :=
  slotOn s w v 3 (slotWord 0x0B d fa 0 0 0 0) (effAtos d fa)

/-- MSTO, move slot opcode 0x10. -/
def execMsto (w : Fin 8) (v : Fin 32) (t : Fin 8) (si sj : Fin 32) (s : State) : Host.Outcome State Fault Refusal :=
  slotOn s w v 3 (slotWord 0x10 t 0 0 si 0 sj) (effMsto t si sj)

/-- MSTP, move slot opcode 0x11. -/
def execMstp (w : Fin 8) (v : Fin 32) (t : Fin 8) (c : Fin 2) (si sj : Fin 32) (s : State) : Host.Outcome State Fault Refusal :=
  slotOn s w v 3 (slotWord 0x11 t c 0 si 0 sj) (effMstp t c si sj)

/-- HTAKE, move slot opcode 0x18. -/
def execHtake (w : Fin 8) (v : Fin 32) (d : Fin 16) (fb : Fin 32) (q : Fin 4) (s : State) : Host.Outcome State Fault Refusal :=
  slotOn s w v 3 (slotWord 0x18 d 0 fb 0 0 q) (effHtake d fb q)

/-- HREL, move slot opcode 0x19. -/
def execHrel (w : Fin 8) (v : Fin 32) (q : Fin 4) (s : State) : Host.Outcome State Fault Refusal :=
  slotOn s w v 3 (slotWord 0x19 0 0 0 0 0 q) (effHrel q)

/-- HGET, move slot opcode 0x1A. -/
def execHget (w : Fin 8) (v : Fin 32) (d : Fin 16) (q : Fin 4) (s : State) : Host.Outcome State Fault Refusal :=
  slotOn s w v 3 (slotWord 0x1A d 0 0 0 0 q) (effHget d q)

/-- HPUT, move slot opcode 0x1B. -/
def execHput (w : Fin 8) (v : Fin 32) (fb : Fin 32) (q : Fin 4) (s : State) : Host.Outcome State Fault Refusal :=
  slotOn s w v 3 (slotWord 0x1B 0 0 fb 0 0 q) (effHput fb q)

/-- RSEND, move slot opcode 0x20. -/
def execRsend (w : Fin 8) (v : Fin 32) (fa : Fin 16) (fb : Fin 32) (fc : Fin 16) (s : State) : Host.Outcome State Fault Refusal :=
  slotOn s w v 3 (slotWord 0x20 0 fa fb fc 0 0) (effRsend fa fb fc)

end Sys2Proof.Machine
end

