-- ==== Sys2Proof/Machine/Dispatch.lean ====
section
/-!
DEFINITION. Sys2Proof/Machine/Dispatch.lean: the meaning of each command, one arm per constructor.
-/

namespace Sys2Proof.Machine

/-- The effect of one command on everything but the queue. -/
def exec (i : Instr) (s : State) : Host.Outcome State Fault Refusal :=
  match i with
  | .powerOn answers lanes lane dev ms => Sys2Proof.Machine.execPowerOn answers lanes lane dev ms s
  | .perstDeassert port => Sys2Proof.Machine.execPerstDeassert port s
  | .configurationRequest port wr ats pri => Sys2Proof.Machine.execConfigurationRequest port wr ats pri s
  | .flr port => Sys2Proof.Machine.execFlr port s
  | .d3hotEntry port => Sys2Proof.Machine.execD3hotEntry port s
  | .portLoss port => Sys2Proof.Machine.execPortLoss port s
  | .adoptExpiry x => Sys2Proof.Machine.execAdoptExpiry x s
  | .apertureWrite port x slot off data => Sys2Proof.Machine.execApertureWrite port x slot off data s
  | .commandRecord port x slot => Sys2Proof.Machine.execCommandRecord port x slot s
  | .openContext port x => Sys2Proof.Machine.execOpenContext port x s
  | .adopt port x => Sys2Proof.Machine.execAdopt port x s
  | .ctxCtrlClose port x => Sys2Proof.Machine.execCtxCtrlClose port x s
  | .featAcceptWrite port half word => Sys2Proof.Machine.execFeatAcceptWrite port half word s
  | .ringHeadWrite port x word => Sys2Proof.Machine.execRingHeadWrite port x word s
  | .msixTimerExpiry x => Sys2Proof.Machine.execMsixTimerExpiry x s
  | .bar4Read port off n => Sys2Proof.Machine.execBar4Read port off n s
  | .bar4Write port off data => Sys2Proof.Machine.execBar4Write port off data s
  | .registerWrite port addr word width => Sys2Proof.Machine.execRegisterWrite port addr word width s
  | .hostNop x seq => Sys2Proof.Machine.execHostNop x seq s
  | .fence x seq => Sys2Proof.Machine.execFence x seq s
  | .load x seq => Sys2Proof.Machine.execLoad x seq s
  | .unload x seq => Sys2Proof.Machine.execUnload x seq s
  | .resume x seq => Sys2Proof.Machine.execResume x seq s
  | .submit x seq => Sys2Proof.Machine.execSubmit x seq s
  | .cancel x seq => Sys2Proof.Machine.execCancel x seq s
  | .reopen x seq => Sys2Proof.Machine.execReopen x seq s
  | .caveWrite x seq => Sys2Proof.Machine.execCaveWrite x seq s
  | .caveRead x seq => Sys2Proof.Machine.execCaveRead x seq s
  | .arm x seq => Sys2Proof.Machine.execArm x seq s
  | .drip x seq => Sys2Proof.Machine.execDrip x seq s
  | .setPtroot x seq => Sys2Proof.Machine.execSetPtroot x seq s
  | .inval x seq => Sys2Proof.Machine.execInval x seq s
  | .close x seq => Sys2Proof.Machine.execClose x seq s
  | .flashWrite x seq bad => Sys2Proof.Machine.execFlashWrite x seq bad s
  | .flashVerify x seq => Sys2Proof.Machine.execFlashVerify x seq s
  | .nonce x seq => Sys2Proof.Machine.execNonce x seq s
  | .advance x seq fuseOk => Sys2Proof.Machine.execAdvance x seq fuseOk s
  | .lcChange x seq fuseOk => Sys2Proof.Machine.execLcChange x seq fuseOk s
  | .enroll x seq fuseOk => Sys2Proof.Machine.execEnroll x seq fuseOk s
  | .revoke x seq fuseOk => Sys2Proof.Machine.execRevoke x seq fuseOk s
  | .planTable x seq => Sys2Proof.Machine.execPlanTable x seq s
  | .submitTimeout x seq late => Sys2Proof.Machine.execSubmitTimeout x seq late s
  | .commandTimeout x seq done => Sys2Proof.Machine.execCommandTimeout x seq done s
  | .drainDeadline w => Sys2Proof.Machine.execDrainDeadline w s
  | .istoreRewriteDone w v => Sys2Proof.Machine.execIstoreRewriteDone w v s
  | .replay w => Sys2Proof.Machine.execReplay w s
  | .resetOverrun w => Sys2Proof.Machine.execResetOverrun w s
  | .wheelWatchdogExpiry w => Sys2Proof.Machine.execWheelWatchdogExpiry w s
  | .wheelReset w => Sys2Proof.Machine.execWheelReset w s
  | .wheelResetComplete w lane dev => Sys2Proof.Machine.execWheelResetComplete w lane dev s
  | .controlCoreWatchdog die => Sys2Proof.Machine.execControlCoreWatchdog die s
  | .dieReset die => Sys2Proof.Machine.execDieReset die s
  | .trierCtrlWrite word => Sys2Proof.Machine.execTrierCtrlWrite word s
  | .trierDataRead => Sys2Proof.Machine.execTrierDataRead s
  | .culCtrlWrite word => Sys2Proof.Machine.execCulCtrlWrite word s
  | .culNodeWrite word => Sys2Proof.Machine.execCulNodeWrite word s
  | .culStatusRead => Sys2Proof.Machine.execCulStatusRead s
  | .entdaa addr won => Sys2Proof.Machine.execEntdaa addr won s
  | .rstdaa => Sys2Proof.Machine.execRstdaa s
  | .setnewda addr => Sys2Proof.Machine.execSetnewda addr s
  | .enec events => Sys2Proof.Machine.execEnec events s
  | .disec events => Sys2Proof.Machine.execDisec events s
  | .getpid => Sys2Proof.Machine.execGetpid s
  | .getbcr => Sys2Proof.Machine.execGetbcr s
  | .getdcr => Sys2Proof.Machine.execGetdcr s
  | .getstatus => Sys2Proof.Machine.execGetstatus s
  | .setmwl len => Sys2Proof.Machine.execSetmwl len s
  | .getmwl => Sys2Proof.Machine.execGetmwl s
  | .setmrl len => Sys2Proof.Machine.execSetmrl len s
  | .getmrl => Sys2Proof.Machine.execGetmrl s
  | .rstact action => Sys2Proof.Machine.execRstact action s
  | .privateWriteSetAddress addr => Sys2Proof.Machine.execPrivateWriteSetAddress addr s
  | .privateWriteWord off word => Sys2Proof.Machine.execPrivateWriteWord off word s
  | .privateRead n => Sys2Proof.Machine.execPrivateRead n s
  | .hotJoin => Sys2Proof.Machine.execHotJoin s
  | .i3cBusFault => Sys2Proof.Machine.execI3cBusFault s
  | .getVersion port req late => Sys2Proof.Machine.execGetVersion port req late s
  | .getCapabilities port req late => Sys2Proof.Machine.execGetCapabilities port req late s
  | .negotiateAlgorithms port req late => Sys2Proof.Machine.execNegotiateAlgorithms port req late s
  | .getDigests port req late => Sys2Proof.Machine.execGetDigests port req late s
  | .getCertificate port req late => Sys2Proof.Machine.execGetCertificate port req late s
  | .challenge port req late => Sys2Proof.Machine.execChallenge port req late s
  | .getMeasurements port req late => Sys2Proof.Machine.execGetMeasurements port req late s
  | .respondIfReady port req late => Sys2Proof.Machine.execRespondIfReady port req late s
  | .doeDiscovery port index => Sys2Proof.Machine.execDoeDiscovery port index s
  | .powerSample vin iin die0 die1 mem reg inlet outlet flow rail mv da => Sys2Proof.Machine.execPowerSample vin iin die0 die1 mem reg inlet outlet flow rail mv da s
  | .powerInterval => Sys2Proof.Machine.execPowerInterval s
  | .powerAlarm => Sys2Proof.Machine.execPowerAlarm s
  | .thermalLimitRecord => Sys2Proof.Machine.execThermalLimitRecord s
  | .overTemperatureShutdown => Sys2Proof.Machine.execOverTemperatureShutdown s
  | .railFault rail => Sys2Proof.Machine.execRailFault rail s
  | .inputDip => Sys2Proof.Machine.execInputDip s
  | .inputSurge => Sys2Proof.Machine.execInputSurge s
  | .undervoltage => Sys2Proof.Machine.execUndervoltage s
  | .overvoltage => Sys2Proof.Machine.execOvervoltage s
  | .coolantFlowLow => Sys2Proof.Machine.execCoolantFlowLow s
  | .coolantInletHot => Sys2Proof.Machine.execCoolantInletHot s
  | .sensorFault => Sys2Proof.Machine.execSensorFault s
  | .islandHoldLong die dom => Sys2Proof.Machine.execIslandHoldLong die dom s
  | .crossingPresenceRestore die dom => Sys2Proof.Machine.execCrossingPresenceRestore die dom s
  | .memoryAccess w off wr data crc => Sys2Proof.Machine.execMemoryAccess w off wr data crc s
  | .refresh w => Sys2Proof.Machine.execRefresh w s
  | .temperatureRead w hot => Sys2Proof.Machine.execTemperatureRead w hot s
  | .retune w => Sys2Proof.Machine.execRetune w s
  | .scrubSector w => Sys2Proof.Machine.execScrubSector w s
  | .dispatch w => Sys2Proof.Machine.execDispatch w s
  | .tokenArrival w x opid slot iter => Sys2Proof.Machine.execTokenArrival w x opid slot iter s
  | .operandStoreResume w => Sys2Proof.Machine.execOperandStoreResume w s
  | .engineCompletion w cls idx => Sys2Proof.Machine.execEngineCompletion w cls idx s
  | .layerClosureReport w x iter layer => Sys2Proof.Machine.execLayerClosureReport w x iter layer s
  | .layerRelease w x iter layer => Sys2Proof.Machine.execLayerRelease w x iter layer s
  | .flowSelWrite port w word => Sys2Proof.Machine.execFlowSelWrite port w word s
  | .traceCtrlWrite port w word => Sys2Proof.Machine.execTraceCtrlWrite port w word s
  | .handlePut w h => Sys2Proof.Machine.execHandlePut w h s
  | .handleDelivered w h => Sys2Proof.Machine.execHandleDelivered w h s
  | .bufferRelease w h => Sys2Proof.Machine.execBufferRelease w h s
  | .freeBufferDelivered w h => Sys2Proof.Machine.execFreeBufferDelivered w h s
  | .vatOperationStart w v => Sys2Proof.Machine.execVatOperationStart w v s
  | .vatOperationComplete w v => Sys2Proof.Machine.execVatOperationComplete w v s
  | .yieldWaitExpiry w v => Sys2Proof.Machine.execYieldWaitExpiry w v s
  | .preemption w v => Sys2Proof.Machine.execPreemption w v s
  | .saveDone w v => Sys2Proof.Machine.execSaveDone w v s
  | .restore w v => Sys2Proof.Machine.execRestore w v s
  | .ringTransferArrival w v => Sys2Proof.Machine.execRingTransferArrival w v s
  | .ringCredit w v off => Sys2Proof.Machine.execRingCredit w v off s
  | .ringFault w v => Sys2Proof.Machine.execRingFault w v s
  | .nop w v slot => Sys2Proof.Machine.execNop w v slot s
  | .endOp w v => Sys2Proof.Machine.execEndOp w v s
  | .trap w v fa => Sys2Proof.Machine.execTrap w v fa s
  | .jmp w v tgt => Sys2Proof.Machine.execJmp w v tgt s
  | .bnz w v fa tgt => Sys2Proof.Machine.execBnz w v fa tgt s
  | .bz w v fa tgt => Sys2Proof.Machine.execBz w v fa tgt s
  | .loop w v d tgt => Sys2Proof.Machine.execLoop w v d tgt s
  | .li w v d imm => Sys2Proof.Machine.execLi w v d imm s
  | .add w v d fa fb => Sys2Proof.Machine.execAdd w v d fa fb s
  | .addi w v d fa imm => Sys2Proof.Machine.execAddi w v d fa imm s
  | .sub w v d fa fb => Sys2Proof.Machine.execSub w v d fa fb s
  | .mul w v d fa fb => Sys2Proof.Machine.execMul w v d fa fb s
  | .andS w v d fa fb => Sys2Proof.Machine.execAndS w v d fa fb s
  | .orS w v d fa fb => Sys2Proof.Machine.execOrS w v d fa fb s
  | .xor w v d fa fb => Sys2Proof.Machine.execXor w v d fa fb s
  | .shl w v d fa fb => Sys2Proof.Machine.execShl w v d fa fb s
  | .shr w v d fa fb => Sys2Proof.Machine.execShr w v d fa fb s
  | .sra w v d fa fb => Sys2Proof.Machine.execSra w v d fa fb s
  | .min w v d fa fb => Sys2Proof.Machine.execMin w v d fa fb s
  | .max w v d fa fb => Sys2Proof.Machine.execMax w v d fa fb s
  | .slt w v d fa fb => Sys2Proof.Machine.execSlt w v d fa fb s
  | .sltu w v d fa fb => Sys2Proof.Machine.execSltu w v d fa fb s
  | .seq w v d fa fb => Sys2Proof.Machine.execSeq w v d fa fb s
  | .pand w v d fa fb => Sys2Proof.Machine.execPand w v d fa fb s
  | .por w v d fa fb => Sys2Proof.Machine.execPor w v d fa fb s
  | .pxor w v d fa fb => Sys2Proof.Machine.execPxor w v d fa fb s
  | .pnot w v d fa => Sys2Proof.Machine.execPnot w v d fa s
  | .pfirst w v d fa => Sys2Proof.Machine.execPfirst w v d fa s
  | .pset w v d fa fb => Sys2Proof.Machine.execPset w v d fa fb s
  | .pcount w v d fa => Sys2Proof.Machine.execPcount w v d fa s
  | .mcfg w v c imm => Sys2Proof.Machine.execMcfg w v c imm s
  | .mclr w v c => Sys2Proof.Machine.execMclr w v c s
  | .manc w v c ta tb si sj => Sys2Proof.Machine.execManc w v c ta tb si sj s
  | .mma w v c ta tb si sj sk sn => Sys2Proof.Machine.execMma w v c ta tb si sj sk sn s
  | .mcvt w v c ty inf => Sys2Proof.Machine.execMcvt w v c ty inf s
  | .maddp w v c ta si sj => Sys2Proof.Machine.execMaddp w v c ta si sj s
  | .mseg w v c => Sys2Proof.Machine.execMseg w v c s
  | .vadd w v d fa fb pr => Sys2Proof.Machine.execVadd w v d fa fb pr s
  | .vsub w v d fa fb pr => Sys2Proof.Machine.execVsub w v d fa fb pr s
  | .vmul w v d fa fb pr => Sys2Proof.Machine.execVmul w v d fa fb pr s
  | .vfma w v d fa fb fc pr => Sys2Proof.Machine.execVfma w v d fa fb fc pr s
  | .vmin w v d fa fb pr => Sys2Proof.Machine.execVmin w v d fa fb pr s
  | .vmax w v d fa fb pr => Sys2Proof.Machine.execVmax w v d fa fb pr s
  | .vabs w v d fa pr => Sys2Proof.Machine.execVabs w v d fa pr s
  | .vneg w v d fa pr => Sys2Proof.Machine.execVneg w v d fa pr s
  | .vexp2 w v d fa pr => Sys2Proof.Machine.execVexp2 w v d fa pr s
  | .vlog2 w v d fa pr => Sys2Proof.Machine.execVlog2 w v d fa pr s
  | .vrcp w v d fa pr => Sys2Proof.Machine.execVrcp w v d fa pr s
  | .vrsq w v d fa pr => Sys2Proof.Machine.execVrsq w v d fa pr s
  | .vtanh w v d fa pr => Sys2Proof.Machine.execVtanh w v d fa pr s
  | .verf w v d fa pr => Sys2Proof.Machine.execVerf w v d fa pr s
  | .vcmplt w v d fa fb pr => Sys2Proof.Machine.execVcmplt w v d fa fb pr s
  | .vcmple w v d fa fb pr => Sys2Proof.Machine.execVcmple w v d fa fb pr s
  | .vcmpeq w v d fa fb pr => Sys2Proof.Machine.execVcmpeq w v d fa fb pr s
  | .vcmpun w v d fa fb pr => Sys2Proof.Machine.execVcmpun w v d fa fb pr s
  | .viadd w v d fa fb pr => Sys2Proof.Machine.execViadd w v d fa fb pr s
  | .visub w v d fa fb pr => Sys2Proof.Machine.execVisub w v d fa fb pr s
  | .vimul w v d fa fb pr => Sys2Proof.Machine.execVimul w v d fa fb pr s
  | .vand w v d fa fb pr => Sys2Proof.Machine.execVand w v d fa fb pr s
  | .vor w v d fa fb pr => Sys2Proof.Machine.execVor w v d fa fb pr s
  | .vxor w v d fa fb pr => Sys2Proof.Machine.execVxor w v d fa fb pr s
  | .vshl w v d fa imm pr => Sys2Proof.Machine.execVshl w v d fa imm pr s
  | .vshr w v d fa imm pr => Sys2Proof.Machine.execVshr w v d fa imm pr s
  | .vsra w v d fa imm pr => Sys2Proof.Machine.execVsra w v d fa imm pr s
  | .vimin w v d fa fb pr => Sys2Proof.Machine.execVimin w v d fa fb pr s
  | .vimax w v d fa fb pr => Sys2Proof.Machine.execVimax w v d fa fb pr s
  | .vicmplt w v d fa fb pr => Sys2Proof.Machine.execVicmplt w v d fa fb pr s
  | .vcvt w v d fa src dst inf pr => Sys2Proof.Machine.execVcvt w v d fa src dst inf pr s
  | .vmxq w v d fa ty pr => Sys2Proof.Machine.execVmxq w v d fa ty pr s
  | .vmxd w v d fa ty pr => Sys2Proof.Machine.execVmxd w v d fa ty pr s
  | .vbcast w v d fa pr => Sys2Proof.Machine.execVbcast w v d fa pr s
  | .vsel w v d fa fb pr => Sys2Proof.Machine.execVsel w v d fa fb pr s
  | .vrsum w v d fa pr => Sys2Proof.Machine.execVrsum w v d fa pr s
  | .vrmax w v d fa pr => Sys2Proof.Machine.execVrmax w v d fa pr s
  | .vlane w v d pr => Sys2Proof.Machine.execVlane w v d pr s
  | .vld w v d fa imm => Sys2Proof.Machine.execVld w v d fa imm s
  | .vst w v fa fb imm pr => Sys2Proof.Machine.execVst w v fa fb imm pr s
  | .vldxb w v d fa fc imm => Sys2Proof.Machine.execVldxb w v d fa fc imm s
  | .vldxe w v d fa fb imm => Sys2Proof.Machine.execVldxe w v d fa fb imm s
  | .vxld w v d fa => Sys2Proof.Machine.execVxld w v d fa s
  | .stov w v d fa lane => Sys2Proof.Machine.execStov w v d fa lane s
  | .vtos w v d fa lane => Sys2Proof.Machine.execVtos w v d fa lane s
  | .aadd w v d fa imm => Sys2Proof.Machine.execAadd w v d fa imm s
  | .aadds w v d fa fb => Sys2Proof.Machine.execAadds w v d fa fb s
  | .amov w v d fa fb => Sys2Proof.Machine.execAmov w v d fa fb s
  | .atos w v d fa => Sys2Proof.Machine.execAtos w v d fa s
  | .msto w v t si sj => Sys2Proof.Machine.execMsto w v t si sj s
  | .mstp w v t c si sj => Sys2Proof.Machine.execMstp w v t c si sj s
  | .htake w v d fb q => Sys2Proof.Machine.execHtake w v d fb q s
  | .hrel w v q => Sys2Proof.Machine.execHrel w v q s
  | .hget w v d q => Sys2Proof.Machine.execHget w v d q s
  | .hput w v fb q => Sys2Proof.Machine.execHput w v fb q s
  | .rsend w v fa fb fc => Sys2Proof.Machine.execRsend w v fa fb fc s
  | .curd w p hold => Sys2Proof.Machine.execCurd w p hold s
  | .predNop w p d a b k imm => Sys2Proof.Machine.execPredNop w p d a b k imm s
  | .ldc w p d a b k imm => Sys2Proof.Machine.execLdc w p d a b k imm s
  | .ldk w p d a b k imm => Sys2Proof.Machine.execLdk w p d a b k imm s
  | .ldnull w p d a b k imm => Sys2Proof.Machine.execLdnull w p d a b k imm s
  | .mov w p d a b k imm => Sys2Proof.Machine.execMov w p d a b k imm s
  | .predAdd w p d a b k imm => Sys2Proof.Machine.execPredAdd w p d a b k imm s
  | .predSub w p d a b k imm => Sys2Proof.Machine.execPredSub w p d a b k imm s
  | .predMul w p d a b k imm => Sys2Proof.Machine.execPredMul w p d a b k imm s
  | .band w p d a b k imm => Sys2Proof.Machine.execBand w p d a b k imm s
  | .bor w p d a b k imm => Sys2Proof.Machine.execBor w p d a b k imm s
  | .bxor w p d a b k imm => Sys2Proof.Machine.execBxor w p d a b k imm s
  | .predShr w p d a b k imm => Sys2Proof.Machine.execPredShr w p d a b k imm s
  | .predShl w p d a b k imm => Sys2Proof.Machine.execPredShl w p d a b k imm s
  | .fadd w p d a b k imm => Sys2Proof.Machine.execFadd w p d a b k imm s
  | .fsub w p d a b k imm => Sys2Proof.Machine.execFsub w p d a b k imm s
  | .fmul w p d a b k imm => Sys2Proof.Machine.execFmul w p d a b k imm s
  | .itof w p d a b k imm => Sys2Proof.Machine.execItof w p d a b k imm s
  | .fabs w p d a b k imm => Sys2Proof.Machine.execFabs w p d a b k imm s
  | .eq w p d a b k imm => Sys2Proof.Machine.execEq w p d a b k imm s
  | .ne w p d a b k imm => Sys2Proof.Machine.execNe w p d a b k imm s
  | .lt w p d a b k imm => Sys2Proof.Machine.execLt w p d a b k imm s
  | .le w p d a b k imm => Sys2Proof.Machine.execLe w p d a b k imm s
  | .gt w p d a b k imm => Sys2Proof.Machine.execGt w p d a b k imm s
  | .ge w p d a b k imm => Sys2Proof.Machine.execGe w p d a b k imm s
  | .ltu w p d a b k imm => Sys2Proof.Machine.execLtu w p d a b k imm s
  | .leu w p d a b k imm => Sys2Proof.Machine.execLeu w p d a b k imm s
  | .feq w p d a b k imm => Sys2Proof.Machine.execFeq w p d a b k imm s
  | .fne w p d a b k imm => Sys2Proof.Machine.execFne w p d a b k imm s
  | .flt w p d a b k imm => Sys2Proof.Machine.execFlt w p d a b k imm s
  | .fle w p d a b k imm => Sys2Proof.Machine.execFle w p d a b k imm s
  | .fgt w p d a b k imm => Sys2Proof.Machine.execFgt w p d a b k imm s
  | .fge w p d a b k imm => Sys2Proof.Machine.execFge w p d a b k imm s
  | .land w p d a b k imm => Sys2Proof.Machine.execLand w p d a b k imm s
  | .lor w p d a b k imm => Sys2Proof.Machine.execLor w p d a b k imm s
  | .lnot w p d a b k imm => Sys2Proof.Machine.execLnot w p d a b k imm s
  | .isnull w p d a b k imm => Sys2Proof.Machine.execIsnull w p d a b k imm s
  | .isnotnull w p d a b k imm => Sys2Proof.Machine.execIsnotnull w p d a b k imm s
  | .istrue w p d a b k imm => Sys2Proof.Machine.execIstrue w p d a b k imm s
  | .streq w p d a b k imm => Sys2Proof.Machine.execStreq w p d a b k imm s
  | .strpfx w p d a b k imm => Sys2Proof.Machine.execStrpfx w p d a b k imm s
  | .between w p d a b k imm => Sys2Proof.Machine.execBetween w p d a b k imm s
  | .fbetween w p d a b k imm => Sys2Proof.Machine.execFbetween w p d a b k imm s
  | .pressCancel w p => Sys2Proof.Machine.execPressCancel w p s
  | .feature w p => Sys2Proof.Machine.execFeature w p s
  | .build w p => Sys2Proof.Machine.execBuild w p s
  | .probe w p => Sys2Proof.Machine.execProbe w p s
  | .partition w p => Sys2Proof.Machine.execPartition w p s
  | .agg w p => Sys2Proof.Machine.execAgg w p s
  | .aggEmit w p => Sys2Proof.Machine.execAggEmit w p s
  | .hll w p => Sys2Proof.Machine.execHll w p s
  | .pool w l => Sys2Proof.Machine.execPool w l s
  | .update w l => Sys2Proof.Machine.execUpdate w l s
  | .norms w l => Sys2Proof.Machine.execNorms w l s
  | .replace w l => Sys2Proof.Machine.execReplace w l s
  | .rowRetryWaitExpiry w l => Sys2Proof.Machine.execRowRetryWaitExpiry w l s
  | .copyInvalidation w l => Sys2Proof.Machine.execCopyInvalidation w l s
  | .ladleCancel w l => Sys2Proof.Machine.execLadleCancel w l s
  | .migrationPeriod die base size => Sys2Proof.Machine.execMigrationPeriod die base size s
  | .ldlSampleRead w => Sys2Proof.Machine.execLdlSampleRead w s
  | .sort w g => Sys2Proof.Machine.execSort w g s
  | .select w g => Sys2Proof.Machine.execSelect w g s
  | .merge w g => Sys2Proof.Machine.execMerge w g s
  | .graderCancel w g => Sys2Proof.Machine.execGraderCancel w g s
  | .streamArm w c => Sys2Proof.Machine.execStreamArm w c s
  | .streamDataReturn w c => Sys2Proof.Machine.execStreamDataReturn w c s
  | .pageWalkComplete w c => Sys2Proof.Machine.execPageWalkComplete w c s
  | .chCtrlResume port w c ctx => Sys2Proof.Machine.execChCtrlResume port w c ctx s
  | .chCtrlAbort port w c ctx => Sys2Proof.Machine.execChCtrlAbort port w c ctx s
  | .atsTranslationCompletion w c ok addr log2 rd wr => Sys2Proof.Machine.execAtsTranslationCompletion w c ok addr log2 rd wr s
  | .prgResponse w c code => Sys2Proof.Machine.execPrgResponse w c code s
  | .atsInvalidateRequest port base size tag => Sys2Proof.Machine.execAtsInvalidateRequest port base size tag s
  | .streamCancel w c => Sys2Proof.Machine.execStreamCancel w c s
  | .streamComplete w c => Sys2Proof.Machine.execStreamComplete w c s
  | .dripOperation w ok hpa => Sys2Proof.Machine.execDripOperation w ok hpa s
  | .dripCreditMessage w => Sys2Proof.Machine.execDripCreditMessage w s
  | .dripPutMessage w => Sys2Proof.Machine.execDripPutMessage w s
  | .mouldSearch w share ctx key => Sys2Proof.Machine.execMouldSearch w share ctx key s
  | .mouldUpdate w => Sys2Proof.Machine.execMouldUpdate w s
  | .mouldSweep w => Sys2Proof.Machine.execMouldSweep w s
  | .mouldScrub w => Sys2Proof.Machine.execMouldScrub w s
  | .linkRetry e ok fault => Sys2Proof.Machine.execLinkRetry e ok fault s
  | .linkDown e => Sys2Proof.Machine.execLinkDown e s
  | .neighborRefresh e => Sys2Proof.Machine.execNeighborRefresh e s
  | .arpRequest e target sender => Sys2Proof.Machine.execArpRequest e target sender s
  | .neighborSolicitation e target sender => Sys2Proof.Machine.execNeighborSolicitation e target sender s
  | .echoRequest e v6 target data => Sys2Proof.Machine.execEchoRequest e v6 target data s
  | .pause e => Sys2Proof.Machine.execPause e s
  | .foreignFrame e => Sys2Proof.Machine.execForeignFrame e s
  | .sync e off two time => Sys2Proof.Machine.execSync e off two time s
  | .syncTimeout e => Sys2Proof.Machine.execSyncTimeout e s
  | .holdoverExpiry e => Sys2Proof.Machine.execHoldoverExpiry e s
  | .announceReceiptTimeout e => Sys2Proof.Machine.execAnnounceReceiptTimeout e s
  | .transmitWindow e x k => Sys2Proof.Machine.execTransmitWindow e x k s
  | .slack e => Sys2Proof.Machine.execSlack e s
  | .retransmitTimeout e x flow => Sys2Proof.Machine.execRetransmitTimeout e x flow s
  | .data e hdr data good => Sys2Proof.Machine.execData e hdr data good s
  | .ack e hdr data good => Sys2Proof.Machine.execAck e hdr data good s
  | .nack e hdr data good => Sys2Proof.Machine.execNack e hdr data good s
  | .notice e hdr data good => Sys2Proof.Machine.execNotice e hdr data good s
  | .noticeAck e hdr data good => Sys2Proof.Machine.execNoticeAck e hdr data good s
  | .status e hdr data good => Sys2Proof.Machine.execStatus e hdr data good s
  | .ctrl e hdr data good => Sys2Proof.Machine.execCtrl e hdr data good s
  | .ctrlAck e hdr data good => Sys2Proof.Machine.execCtrlAck e hdr data good s
  | .windowDeadline e w x flow node => Sys2Proof.Machine.execWindowDeadline e w x flow node s
  | .ackCreditTimer e w x flow node => Sys2Proof.Machine.execAckCreditTimer e w x flow node s
  | .noticeRepeat e x node num => Sys2Proof.Machine.execNoticeRepeat e x node num s
  | .ctrlRepeat e node num data => Sys2Proof.Machine.execCtrlRepeat e node num data s
  | .lateTransfer e w x flow node => Sys2Proof.Machine.execLateTransfer e w x flow node s
  | .announce e => Sys2Proof.Machine.execAnnounce e s
  | .followUp e off => Sys2Proof.Machine.execFollowUp e off s
  | .delayResp e off => Sys2Proof.Machine.execDelayResp e off s
  | .arpReply e a mac => Sys2Proof.Machine.execArpReply e a mac s
  | .neighborAdvertisement e a mac => Sys2Proof.Machine.execNeighborAdvertisement e a mac s
  | .completionTimeout port strm a b => Sys2Proof.Machine.execCompletionTimeout port strm a b s
  | .perstAssert port => Sys2Proof.Machine.execPerstAssert port s
  | .pcieLinkUp port => Sys2Proof.Machine.execPcieLinkUp port s
  | .supplyDroop die dom need => Sys2Proof.Machine.execSupplyDroop die dom need s
  | .droopRecovery die dom need => Sys2Proof.Machine.execDroopRecovery die dom need s
  | .alertPinFault => Sys2Proof.Machine.execAlertPinFault s
  | .shutdownHoldRelease => Sys2Proof.Machine.execShutdownHoldRelease s
  | .auxiliaryInputLoss => Sys2Proof.Machine.execAuxiliaryInputLoss s
  | .msixUnmask port v => Sys2Proof.Machine.execMsixUnmask port v s
  | .lowWordRead port addr => Sys2Proof.Machine.execLowWordRead port addr s

end Sys2Proof.Machine
end

