-- ==== Sys2Proof/Machine/Settle.lean ====
section
/-!
DEFINITION. Sys2Proof/Machine/Settle.lean: what the firmware does while no command arrives: commands in progress complete
once what they wait for has come to rest, teardowns end, held records are written, and replays that have ended are counted
(R434, R461, R527, R531, R540, R590, R667).
-/

namespace Sys2Proof.Machine

/-- A command in progress goes on. -/
def goOn (s : State) (ctx : Nat) (h : HCmd) : State :=
  match cmdOp h with
  | 0x01 => moreFence s ctx h
  | 0x03 => moreUnload s ctx h
  | 0x05 => moreSubmit s ctx h
  | 0x06 => moreCancel s ctx h
  | 0x0A => moreWhey s ctx h
  | 0x0B => moreWhey s ctx h
  | 0x0C => moreSweep s ctx h
  | 0x0D => moreSweep s ctx h
  | 0x0E => moreClose s ctx h
  | _ => s

/-- What waits in a context: its records, its commands in progress, its layer releases, its teardown. -/
def settleCtx (s : State) (ctx : Nat) : State :=
  let s1 := clearRowless (flushRing s ctx) ctx
  let s2 := ((ctxOf s1 ctx).cmds.filter (·.started)).foldl (fun s h => goOn s ctx h) s1
  endTeardown (retryReleases s2 ctx) ctx

/-- Everything that can come to an end by itself; a life-cycle change in progress goes on. -/
def settle (s : State) : State :=
  let s1 := (s.ctxs.map (·.1)).foldl settleCtx (endReplays s)
  if s1.sea.busy then lcMore s1 true else s1

end Sys2Proof.Machine
end

