-- ==== Sys2Proof/Safety.lean ====
section
/-!
DEFINITION. Sys2Proof/Safety.lean: the words the statements use: what it is for a command to complete, where a unit stands
before it, and what stays as it was.
-/

namespace Sys2Proof.Safety

open Sys2Proof Sys2Proof.Machine

/-- The command is carried out: `exec` answers a next state, and the next state has the property. -/
def Completes (c : Instr) (s : State) (P : State → Prop) : Prop := ∃ t, exec c s = .next t ∧ P t

/-! ## Vats -/

def vatAt (s : State) (w v : Nat) : Vat := vatOf (wheelOf s w) v

/-- Vat registers without the program counter. -/
def noPc (r : VatProg) : VatProg := { r with pc := 0 }

/-- The registers of a vat without its program counter. -/
def regsAt (s : State) (w v : Nat) : VatProg := noPc (vatAt s w v).prog

/-- The registers that a slot of the bundle reads: those of the bundle's issue clock (R150). -/
def slotSrc (s : State) (w v : Nat) : VatProg :=
  match (vatAt s w v).issue with
  | some i => i.snap
  | none => (vatAt s w v).prog

/-- Where the program goes on after the bundle: the target kept while the bundle is in issue, else the program counter. -/
def goesTo (s : State) (w v : Nat) : Nat :=
  match (vatAt s w v).issue with
  | some i => i.next
  | none => (vatAt s w v).prog.pc

/-- Slot `k` of the bundle at the program counter of vat `v` holds the instruction with this word, and it can take effect:
the vat issues, the bundle passes the check of R142, R143 and R170, and the slot has not taken effect yet. -/
def SlotOpen (s : State) (w v k word : Nat) : Prop :=
  canIssue (vatAt s w v) = true ∧ bundleSlot (tget 0 (vatAt s w v).istore (vatAt s w v).prog.pc) k = word ∧
  match (vatAt s w v).issue with
  | some i => i.done.contains k = false
  | none => issueCheck (wheelOf s w) v = .go

/-- The bundle in issue has no END or TRAP that took effect before. -/
def PlainBundle (s : State) (w v : Nat) : Prop := ∀ i, (vatAt s w v).issue = some i → i.ending = false ∧ i.trap = none

/-- This slot is the last of its bundle: the other three have taken effect, and none of them waits. -/
def LastSlot (s : State) (w v : Nat) : Prop :=
  (vatAt s w v).wait = none ∧ ∃ i, (vatAt s w v).issue = some i ∧ i.done.length = 3

/-- Nothing of the module but vat `v` of wheel `w` differs. -/
def OnlyVat (s t : State) (w v : Nat) : Prop := t = setWheel s w (setVat (wheelOf s w) v (vatAt t w v))

/-- Nothing of the vat but its registers and its place in the program differs: the same operation, instruction store, save
slots, slices, ring transfer and waits. -/
def SameVat (a b : Vat) : Prop :=
  b = { a with prog := b.prog, issue := b.issue, fin := b.fin, regs := b.regs }

/-- The effect of a slot that writes vat registers only: the registers are those of before with `f` applied, and nothing
else of the module differs. -/
def SlotWrites (s t : State) (w v : Nat) (f : VatProg → VatProg) : Prop :=
  regsAt t w v = f (regsAt s w v) ∧ SameVat (vatAt s w v) (vatAt t w v) ∧ OnlyVat s t w v

/-- A slot command that writes S[d]: with its word in the bundle it completes, S[d] is `z`, and no other register and
nothing else of the module differs. -/
def WritesS (s : State) (w v k : Nat) (c : Instr) (word d : Nat) (z : Word) : Prop :=
  SlotOpen s w v k word → Completes c s (fun t => SlotWrites s t w v (fun r => sSet r d z))

/-- A slot command that writes P[d], in the same way; P0 cannot be written (R144). -/
def WritesP (s : State) (w v k : Nat) (c : Instr) (word d : Nat) (z : DWord) : Prop :=
  SlotOpen s w v k word → Completes c s (fun t => SlotWrites s t w v (fun r => pSet r d z))

/-- A slot command that writes A[d], in the same way. -/
def WritesA (s : State) (w v k : Nat) (c : Instr) (word d : Nat) (z : DWord) : Prop :=
  SlotOpen s w v k word → Completes c s (fun t => SlotWrites s t w v (fun r => aSet r d z))

/-- A control-slot command that may move the program: no register but those `f` writes differs, and while the bundle has
no END or TRAP the program goes on at `tgt`. -/
def Branches (s : State) (w v : Nat) (c : Instr) (word : Nat) (f : VatProg → VatProg) (tgt : Nat) : Prop :=
  SlotOpen s w v 0 word → PlainBundle s w v →
    Completes c s (fun t => SlotWrites s t w v f ∧ goesTo t w v = tgt)

/-- The target a bundle in issue has, or the next bundle (R137). -/
def fallsTo (s : State) (w v : Nat) : Nat :=
  match (vatAt s w v).issue with
  | some i => i.next
  | none => (vatAt s w v).prog.pc + 1

/-- Vector register `d` of the vat holds lane by lane what `g` gives; every other register, everything else of the vat and
everything else of the module is as it was. -/
def LanesWritten (s t : State) (w v d : Nat) (g : Nat → Word) : Prop :=
  (∀ i, i < 64 → vLane (regsAt t w v) d i = g i) ∧
  (∀ n i, i < 64 → n ≠ d → vLane (regsAt t w v) n i = vLane (regsAt s w v) n i) ∧
  regsAt t w v = { regsAt s w v with v := (regsAt t w v).v } ∧
  SameVat (vatAt s w v) (vatAt t w v) ∧ OnlyVat s t w v

/-- A vector-slot command that computes lane i by `g`, where P[pr] is true; the other lanes keep what V[d] held in the issue
clock (Vector slot). -/
def Lanes (s : State) (w v : Nat) (c : Instr) (word d pr : Nat) (g : Nat → Word) : Prop :=
  SlotOpen s w v 2 word → Completes c s (fun t => LanesWritten s t w v d
    (fun i => if (pGet (slotSrc s w v) pr).getLsbD i then g i else vLane (slotSrc s w v) d i))

/-- A compare: lane i of P[d] is true exactly where P[pr] is and the relation holds (R161); P0 is no destination. -/
def Compares (s : State) (w v : Nat) (c : Instr) (word d pr : Nat) (g : Nat → Bool) : Prop :=
  SlotOpen s w v 2 word → d ≠ 0 → Completes c s (fun t =>
    (∀ i, i < 64 → (pGet (regsAt t w v) d).getLsbD i = ((pGet (slotSrc s w v) pr).getLsbD i && g i)) ∧
    SlotWrites s t w v (fun r => pSet r d (pGet (regsAt t w v) d)))

/-- What a slot acts on, as its meaning takes it: the wheel, the vat, the registers of the issue clock and the part of an
MMA already applied. -/
def slotCtx (s : State) (w v : Nat) : VCtx :=
  ⟨wheelOf s w, v, slotSrc s w v, 0, match (vatAt s w v).issue with
    | some i => i.mma
    | none => 0⟩

/-- A slot that reads the bank and writes registers: they are those of before with `f` applied, every byte of the wheel's
Cave reads as before, and no other wheel and no hoop differs. -/
def SlotReads (s t : State) (w v : Nat) (f : VatProg → VatProg) : Prop :=
  regsAt t w v = f (regsAt s w v) ∧ (wheelOf t w).cave = (wheelOf s w).cave ∧ (wheelOf t w).hoops = (wheelOf s w).hoops ∧
  ∀ u, u ≠ w → wheelOf t u = wheelOf s u

/-! ## Presses, ladles and graders -/

/-- Nothing of the module but press `p` of wheel `w` differs. -/
def OnlyPress (s t : State) (w p : Nat) : Prop := t = setWheel s w (setPress (wheelOf s w) p (pressOf (wheelOf t w) p))

/-- The running predicate program of a press has come to the instruction with this word: `k` is its work. -/
def PredAt (s : State) (w p word : Nat) (k : PWork) : Prop :=
  (pressOf (wheelOf s w) p).work = some k ∧ k.group < k.limit ∧ predWord k.prog k.ip = word ∧
  (pressOf (wheelOf s w) p).pend = none ∧ (pressOf (wheelOf s w) p).fin = none

/-- The work of a press after an instruction that leaves the row registers `q`: the next instruction, or after the last one
the next group with the selection of this one added (R205). -/
def predNext (desc : List Byte) (k : PWork) (q : List (Nat × Lane)) : PWork :=
  if k.ip + 1 = predNinstr k.prog then
    { k with q := [], ip := 0, group := k.group + 1
             sel := k.sel ++ (upto (min 64 (curdRows desc - 64 * k.group))).map (fun l => laneTrue (qGet q (predResult k.prog) l)) }
  else { k with q := q, ip := k.ip + 1 }

/-- A predicate instruction on the 64 lanes of a group: lane l of row register `d` becomes `g l`, every other row register
keeps its lanes, and nothing but the press's work differs. -/
def PredWrites (s : State) (w p : Nat) (c : Instr) (op d a b : Nat) (k : Bool) (imm : Nat) (g : PWork → Nat → Lane) : Prop :=
  ∀ wk, PredAt s w p (predEncode op d a b k imm) wk → Completes c s (fun t => ∃ q : List (Nat × Lane),
    (∀ l, l < 64 → qGet q d l = g wk l) ∧ (∀ r l, l < 64 → r ≠ d → qGet q r l = qGet wk.q r l) ∧
    pressOf (wheelOf t w) p =
      { pressOf (wheelOf s w) p with work := some (predNext (pressOf (wheelOf s w) p).desc wk q) } ∧
    OnlyPress s t w p)

/-- The streams an engine puts: in each hoop, after the puts that were there, the buffers of the streams whose port the hoop
is bound to, in order, with their lengths. -/
def PutsFrom (x : Wheel) (t : State) (w : Nat) (u : UnitId) (outP : List (Nat × Nat)) (outs : List OutStream) : Prop :=
  ∀ h, (hoopOf (wheelOf t w) h).puts.map (fun q => (q.1, q.2.len)) =
    (hoopOf x h).puts.map (fun q => (q.1, q.2.len)) ++
      outs.flatMap (fun o => if portHoop outP o.port = some h then o.bufs.map (fun b => (u, b.length)) else [])

/-- The same, against a whole state. -/
def PutsStreams (s t : State) (w : Nat) (u : UnitId) (outP : List (Nat × Nat)) (outs : List OutStream) : Prop :=
  PutsFrom (wheelOf s w) t w u outP outs

/-- With these output streams formed, every buffer an engine needs can be had now. -/
def canDeliver (x : Wheel) (u : UnitId) (kOut : Nat) (f : Eng → Eng) : Prop :=
  outsReady (engOf (outAdvance (onEng x u f) u kOut) u) = true

/-- An operator of this kind runs on press `p` with its whole input there: no end yet, nothing to deliver, no cancellation, and
`i` what the input decodes to, with no failure in it. -/
def OpReady (s : State) (w p kind : Nat) (op : OpRef) (i : OpIn) : Prop :=
  let e := pressOf (wheelOf s w) p
  e.op = some op ∧ e.sub = 1 ∧ e.fin = none ∧ (e.st = .run ∨ e.st = .inWait) ∧ e.pend = none ∧ e.outs = [] ∧ e.cancel = none ∧
  e.store ≠ 2 ∧ opKind e.desc = kind ∧ (∀ q ∈ opNeeds e, portDone e q.1 q.2 = true) ∧ opInput e = .ok (some i) ∧ i.stop = none

/-- The work of an operator as the command takes it up: with the first of its groups INIT and the row order come first
(`opBegin`), and the groups go to the end of the input. -/
def OpStarts (x : Wheel) (u : UnitId) (i : OpIn) (y : Wheel) (w : PWork) : Prop :=
  let e := engOf x u
  (if e.work.isNone then opBegin x i e.desc else (x, none)) = (y, none) ∧
  w = { e.work.getD {} with limit := cdiv i.rows 64, more := false } ∧ w.fail = none

/-- At most one group of an operator is left, and neither a credit nor a row of it fails: `y` is the wheel after it and `w'`
the work, with no full pair buffer left to put. -/
def OpLast (x : Wheel) (u : UnitId) (ctx : Nat) (i : OpIn) (w : PWork) (y : Wheel) (w' : PWork) : Prop :=
  let n := cdiv i.rows 64
  let z := onEng x u (fun e => { e with work := some w, col := 0 })
  (w.group = n ∧ y = z ∧ w' = w) ∨
  (w.group + 1 = n ∧ ∃ x1 x2, (if 0 < w.group then outObtain z u (opLens i (engOf z u).desc w) else .ok (z, true)) = .ok (x1, true) ∧
    opGroup x1 u ctx i w = (x2, w', none) ∧ (engOf x2 u).cancel = none ∧
    (let x3 := onEng x2 u (fun e => { e with st := .run, work := some w' })
     y = if (engOf x3 u).outs.isEmpty then x3 else outAdvance x3 u 4) ∧ (engOf y u).outs = [])

/-- An operator of this kind with at most one group left, whose result `r` is a success and whose output can be delivered, ends:
its streams are put, its end is `r`'s, and the property holds of the wheel `y` after its groups. -/
def OpEnds (s : State) (w p kind : Nat) (c : Instr) (op : OpRef) (i : OpIn) (P : Wheel → OpRes → State → Prop) : Prop :=
  let u := pressUnit p
  let x := storeClean (wheelOf s w) u
  ∀ x0 k y k', OpReady s w p kind op i → OpStarts x u i x0 k → OpLast x0 u op.ctx i k y k' →
    let r := opResult y u op.ctx i k'
    r.done.code = 0 → r.outs.find? (fun o => !o.2.eager && outTooLong r.x (engOf r.x u) o.2) = none →
    canDeliver r.x u 4 (fun e => { e with outs := r.outs.map (·.2) }) →
    Completes c s (fun t => (pressOf (wheelOf t w) p).fin = some r.done ∧ (pressOf (wheelOf t w) p).outs = [] ∧
      (∀ j, j ≠ w → wheelOf t j = wheelOf s j) ∧ P y r t)

/-- An engine has its operation and its whole input, and nothing of its output is formed yet. -/
def EngFed (e : Eng) (op : OpRef) (needs : List (Nat × Nat)) : Prop :=
  e.op = some op ∧ e.fin = none ∧ (e.st = .run ∨ e.st = .inWait) ∧ e.pend = none ∧ e.held = [] ∧ e.outs = [] ∧ e.store = 0 ∧
  ∀ q ∈ needs, portDone e q.1 q.2 = true

/-- The pool of the stream's hoop has a free buffer for each of its buffers. -/
def RoomFor (x : Wheel) (e : Eng) (o : OutStream) : Prop :=
  ∃ h, portHoop e.outP o.port = some h ∧ o.bufs.length ≤ (hoopOf x h).free.length

/-- An engine that ended with an operation's failure, or drains its input before it ends with it. -/
def FailsWith (e : Eng) (f : Ended) : Prop := e.fin = some f ∨ (e.st = .drain ∧ e.pend = some f)

/-- A ladle's operation of a mode with its whole input: no byte lost and no handle with ERR. -/
def LadleFed (s : State) (w l mode : Nat) (op : OpRef) : Prop :=
  let e := ladleOf (wheelOf s w) l
  EngFed e op (ladleNeeds e) ∧ lhMode e.desc = mode ∧
  ∀ p ∈ ladleIns e.desc, (tget {} e.acc p : InPort).lost = false ∧ (tget {} e.acc p : InPort).err = false

/-- The bytes a ladle took on a port. -/
def ladleBytes (s : State) (w l p : Nat) : List Byte := (tget {} (ladleOf (wheelOf s w) l).acc p : InPort).bytes

/-- The bag block of a ladle's operation and the unit keys of its entries. -/
def LadleBags (s : State) (w l : Nat) (b : BagBlk) (keys : List (Option Nat)) : Prop :=
  let e := ladleOf (wheelOf s w) l
  bagBlock (ladleBytes s w l (lhIn e.desc)) (lhMean e.desc) = some b ∧ entryKeys (lTab e) b = .ok keys

/-- The stream a ladle puts: these bytes cut in buffers; an empty stream is one empty buffer. -/
def ladleStream (x : Wheel) (e : Eng) (bs : List Byte) : OutStream :=
  let o := outStream x e (lhOut e.desc) bs
  { o with bufs := if o.bufs.isEmpty then [[]] else o.bufs, eager := true }

/-! ## Streams -/

/-- Nothing of the module but channel `c` of wheel `w` differs. -/
def OnlyChan (s t : State) (w c : Nat) : Prop := t = onChan s w c (fun _ => chOf t w c)

/-- A stream that failed: ENDING with a code, no source or index handle held. -/
def StreamFailed (t : State) (w c code : Nat) : Prop :=
  (chOf t w c).st = .ending ∧ (chOf t w c).code = code ∧ (chOf t w c).taken = [] ∧ (chOf t w c).ixTaken = []

/-! ## Rennet and the Mould -/

def rnt (s : State) (w : Nat) : Rennet := (wheelOf s w).rnt

/-- A token for this slot can be stored: its operation and slot exist, its flow is open, its pass is not a resumed one, the
slot is not filled, and a new instance has room (R415, R420). -/
def TokenFits (r : Rennet) (o : OpRec) (ctx opid slot iter : Nat) : Prop :=
  findOp r ctx opid = some o ∧ slotKind o slot = 0 ∧ (flowOf r o.flow).st = .openF ∧
  (∀ p, findPass r ctx iter = some p → p.resumed = none) ∧ slot ∉ (openInst r o iter).filled ∧
  (findInst r ctx opid iter = none → instRoom r o = true)

/-- The instance holds the operand: the one that was there, or a new one. -/
def OperandStored (a b : Rennet) (o : OpRec) (ctx opid slot iter : Nat) : Prop :=
  findInst b ctx opid iter = some { openInst a o iter with filled := insertNat slot (openInst a o iter).filled }

/-- An operation in service on this wheel, of a flow. -/
def InService (r : Rennet) (op : OpRef) (i : Inst) (o : OpRec) : Prop :=
  findInst r op.ctx op.opid op.iter = some i ∧ findOp r op.ctx op.opid = some o

/-- The completion of an instance as Rennet counts it: with code 0 its layer counts one more; with the code of a failure its
open flow is FAILED with that code (R431, R433). -/
def Counted (a b : Rennet) (op : OpRef) (o : OpRec) (code : Nat) : Prop :=
  (code = 0 → (findPass b op.ctx op.iter).map (·.counts) =
    (findPass a op.ctx op.iter).map (fun p => tmod 0 p.counts o.layer (· + 1))) ∧
  (code ≠ 0 → code ≠ 0x0701 → (flowOf a o.flow).st = .openF → (flowOf b o.flow).st = .failed ∧
    (flowOf b o.flow).failCode = code ∧ (flowOf b o.flow).failOpid = op.opid)

/-- The entries a search can see are free of errors: no parity failure, no poison, and each verification copy good and equal
to its compare array. -/
def CleanEntries (m : Mould) (share ctx : Nat) : Prop :=
  ∀ p ∈ m.entries, inRanges (searchRanges m share ctx) p.1 = true →
    p.2.parityBad = false ∧ p.2.poison = false ∧ p.2.copyBad = 0 ∧ p.2.ckey = p.2.key ∧ p.2.cmask = p.2.mask

/-- Entry `i` wins the search: it matches, and every other entry that matches has fewer ones in its mask, or as many and a
higher index (R272, R273). -/
def Wins (m : Mould) (share ctx : Nat) (key : BitVec 128) (i : Nat) (e : MEntry) : Prop :=
  (i, e) ∈ m.entries ∧ inRanges (searchRanges m share ctx) i = true ∧ entryMatches key e = true ∧
  ∀ p ∈ m.entries, inRanges (searchRanges m share ctx) p.1 = true → entryMatches key p.2 = true →
    onesOf p.2.mask < onesOf e.mask ∨ (onesOf p.2.mask = onesOf e.mask ∧ i ≤ p.1)

/-! ## Host commands -/

/-- Command `h` of this opcode, SEQ `seq` of context `x`, is next: it is accepted and not started, it may start now, no record
without a row is ahead of it, and it passes the checks that every command undergoes (R526, R527). -/
def CmdReady (s : State) (x seq op : Nat) (h : HCmd) : Prop :=
  (∀ k ∈ (ctxOf s x).cmds, rowless k = true → startable s x k = false) ∧ findCmd s x seq = some h ∧ cmdOp h = op ∧
  h.started = false ∧ h.taken = false ∧ startable s x h = true ∧ cmdCheck (startCmd s x h) x h = 0

/-- The command has completed: the context holds it no more. -/
def CmdGone (t : State) (x seq : Nat) : Prop := findCmd t x seq = none

/-- The command's record can be written at once: its record is wanted, no record is held before it, the ring is open and has
room, and no message is due for it. -/
def RingReady (s : State) (x : Nat) (h : HCmd) : Prop :=
  let c := ctxOf s x
  cmdNocpl h = false ∧ c.held = [] ∧ ringOpen s x = true ∧ (c.tail + 2 ^ 32 - c.head) % 2 ^ 32 < 2 ^ c.log2 ∧
  bitAt c.irq 31 = false

/-- The command completed, and its COMMAND record with this code and DETAIL0 stands in the ring at the place of the next
record, with the phase of that pass over the ring; the ring's tail advanced by one (R531–R533). -/
def RecordWritten (s t : State) (x seq code d0 : Nat) : Prop :=
  let c := ctxOf s x
  let a := c.base + 32 * (c.tail % 2 ^ c.log2)
  CmdGone t x seq ∧ (ctxOf t x).held = [] ∧ (ctxOf t x).tail = (c.tail + 1) % 2 ^ 32 ∧
  ∀ i, i < 32 → rdByte 0 (hostOf t c.owner).cells (a + i) =
    (cplBytes x ((c.tail / 2 ^ c.log2 + 1) % 2) { kind := 0, code := code, seq := seq, d0 := d0 }).getD i 0

/-- The bytes of a write to a Cave: those in the range are the data, every other byte reads as before. -/
def CaveWritten (x y : Wheel) (a : Nat) (bs : List Byte) : Prop :=
  (∀ i, i < bs.length → rdByte 0 y.cave (a + i) = bs.getD i 0) ∧
  ∀ p, p < a ∨ a + bs.length ≤ p → rdByte 0 y.cave p = rdByte 0 x.cave p

/-- The same for the memory of a port's host. -/
def HostWritten (s t : State) (p a : Nat) (bs : List Byte) : Prop :=
  (∀ i, i < bs.length → rdByte 0 (hostOf t p).cells (a + i) = bs.getD i 0) ∧
  ∀ q, q < a ∨ a + bs.length ≤ q → rdByte 0 (hostOf t p).cells q = rdByte 0 (hostOf s p).cells q

/-- A context that is being torn down, or is free. -/
def Closing (t : State) (x : Nat) : Prop := (ctxOf t x).st = .closing ∨ (ctxOf t x).st = .free

/-- Nothing of the module but port `p` differs. -/
def OnlyPort (s t : State) (p : Nat) : Prop := t = setPort s p (portOf t p)

/-! ## The management bus, the Seal's mailbox, and the Creamery -/

/-- Nothing of the module but the culture block (flash, management bus, its registers) differs, and no output was added. -/
def OnlyCul (s t : State) : Prop := t = { s with cul := t.cul }

/-- The module takes part on the management bus: the standby supply is on, the start reached step 6 or recovery mode, and no bus
fault stands (R626, R633, R643). -/
def BusOpen (s : State) : Prop := i3cAwake s = true ∧ s.cul.busFault = false

/-- It answers directed commands and private transfers: it has a dynamic address too. -/
def Addressed (s : State) : Prop := BusOpen s ∧ s.cul.da.isSome = true

/-- The command completes, sends this answer on the management bus, and changes nothing else. -/
def Answers (c : Instr) (s : State) (kind : Nat) (d : List Byte) : Prop :=
  Completes c s (fun t => t = { s with out := s.out ++ [.i3c kind d] })

/-- A request can be served through a port's mailbox: its link is up, the start reached step 8, recovery mode or the end of
life, die 0 works, no life-cycle change is in progress, and the request is 4 to 4,096 bytes with this code. -/
def MailReady (s : State) (p code : Nat) (q : List Byte) : Prop :=
  (portOf s p).up = true ∧ (8 ≤ s.cul.step ∨ s.recovery = true ∨ s.sea.lc = 4) ∧ 0 ∉ s.dieDown ∧ s.sea.busy = false ∧
  4 ≤ q.length ∧ q.length ≤ 4096 ∧ reqAt q 1 1 = code

/-- The response was sent on the port, and the transcript of the connection is `base` with the request and the response. -/
def Responds (s t : State) (p : Nat) (base q r : List Byte) (phase : Nat) (selected : Bool) : Prop :=
  t.out = s.out ++ [.doe p r] ∧ (spdmOf t p).transcript = base ++ q ++ r ∧ (spdmOf t p).phase = phase ∧
  (spdmOf t p).selected = selected ∧ (∀ k, k ≠ p → spdmOf t k = spdmOf s k) ∧ t.wheels = s.wheels ∧ t.ctxs = s.ctxs ∧
  t.sea.lc = s.sea.lc

/-- Nothing of the module but the Creamery differs, and no frame or packet left. -/
def OnlyCrm (s t : State) : Prop := t = { s with crm := t.crm }

/-- A received packet passes the checks (R476, R480): the port and the fabric work, the frame is intact, and the header is
that of a packet of this type for this module with this payload. -/
def PktGood (s : State) (e : Nat) (p : Pkt) (type n : Nat) : Prop :=
  e < ePorts s ∧ (ePort s e).link = true ∧ crmUp s e = true ∧ s.node ≠ 0xFFF ∧ p.ver = 1 ∧ p.bad = false ∧ p.type = type ∧
  type < 8 ∧ p.plen = n ∧ p.dst = s.node ∧ (type = 5 ∨ p.code = 0)

/-- What left the module after this: these packets and frames, in order. -/
def Sent (s t : State) (os : List Out) : Prop := t.out = s.out ++ os

/-- Nothing of the module but the power controller differs. -/
def OnlyPwr (s t : State) : Prop := t = { s with pwr := t.pwr }

/-- The error bit of a power condition is set (R687). -/
def PwrErrSet (t : State) (bit : Nat) : Prop := bitAt (regGet t.pwr.regs 0x00C) bit = true

/-- A clean shutdown with this code: the module is off, the links are down, the standby controller holds the fault, ALERT# is
low, GDDR7 and the trier stores are lost, and flash and fuses are kept (R569, R583, R679, R680). -/
def CleanShutdown (s t : State) (code rail : Nat) (hold : Bool) : Prop :=
  t.pwr = { off := true, hold := hold, lastFault := 2 ^ 31 + rail * 2 ^ 16 + code } ∧ t.wheels = [] ∧ t.ctxs = [] ∧
  t.rst.trier = [] ∧ t.cul.flash = s.cul.flash ∧ t.cul.alert = true ∧ t.cul.step = 1 ∧ t.cul.da = none ∧ t.node = 0xFFF ∧
  (∀ p, (portOf t p).up = false ∧ (portOf t p).perst = (portOf s p).perst) ∧ t.sea.lc = s.sea.lc ∧
  t.sea.fwSvn = s.sea.fwSvn ∧ t.sea.culSvn = s.sea.culSvn ∧ t.sea.ownerKeys = s.sea.ownerKeys ∧ t.hosts = s.hosts

/-- A power condition is recorded: its bit, and its code while no earlier error stands (R686, R688). -/
def PwrRecorded (s t : State) (bit code : Nat) : Prop :=
  PwrErrSet t bit ∧ regGet t.pwr.regs 0x010 = (if regGet s.pwr.regs 0x00C = 0 then code else regGet s.pwr.regs 0x010)

/-- ALERT# is low, and the In-Band Interrupt with this code was sent where IBIs are enabled and the bus works (R640). -/
def IbiRaised (s t : State) (code : Nat) : Prop :=
  t.cul = { s.cul with alert := true } ∧
  t.out = s.out ++ (if s.cul.da.isSome = true ∧ bitAt s.cul.events 0 = true ∧ s.cul.busFault = false then [.ibi code 0xFF] else [])

/-- Nothing of the module but the clocks of die `d` differs, and the other die's are as they were. -/
def OnlyClk (s t : State) (d : Nat) : Prop := t = { s with clks := t.clks } ∧ ∀ k, k ≠ d → clkOf t k = clkOf s k

/-- Statistics counter `k` of the die of port `e` counted one more (R509, R511). -/
def CrmCounts (s t : State) (e k : Nat) : Prop :=
  regGet (tget [] t.crm.regs (eDie s e)) (0x040 + 8 * k) = (regGet (tget [] s.crm.regs (eDie s e)) (0x040 + 8 * k) + 1) % 2 ^ 64

/-- An error bit of the die of port `e` is set. -/
def CrmErrBit (t : State) (e bit : Nat) : Prop := bitAt (regGet (tget [] t.crm.regs (eDie t e)) 0x00C) bit = true

/-- The link address that a port's cache holds for a next hop. -/
def hopMac (s : State) (e a : Nat) : Option Nat := ((ePort s e).neigh.find? (fun n => n.1 == a)).map (·.2)

/-- A port that has link and holds no frame back. -/
def Quiet (s : State) (e : Nat) : Prop := (ePort s e).link = true ∧ (ePort s e).wait = []

/-- A packet leaves on a port to the address of the receiver's port `peer`, with the link address of its next hop; where the
cache does not hold that, the port asks for it and the frame waits (R473, R478). -/
def Leaves (s t : State) (e peer sport : Nat) (p : Pkt) (data : List Byte) : Prop :=
  let f := frameOf s e peer sport p data
  let hop := nextHop s e f.dstIp
  match hopMac s e hop with
  | some m => t.out = s.out ++ [.packet { f with mac := m }] ∧ (ePort t e).wait = []
  | none => t.out = s.out ++ [.frame e 1 (ctrlPcp s) (addrBytes s hop)] ∧ (ePort t e).wait = [(hop, f)]

/-- The answer to a received packet: type, SEQ and PTAG of the packet answered, to its source. -/
def answerPkt (s : State) (type : Nat) (p : Pkt) (code : Nat) : Pkt :=
  { type := type, src := s.node, dst := p.src, ctx := p.ctx, seq := p.seq, ptag := p.ptag, code := code }

/-- A transmit flow whose packets this answer concerns: known, of the answering node, its context open. -/
def TxPeer (s : State) (p : Pkt) (t : TxFlow) : Prop := findTx s p.ctx p.flow = some t ∧ t.peer = p.src ∧ t.stale = false

/-- Nothing of the module but the Creamery and what leaves it differs. -/
def OnlyCrmOut (s t : State) : Prop := t = { s with crm := t.crm, out := t.out }

/-! ## The whole module -/

/-- The changes of life-cycle state that R666 permits. -/
def permittedChanges : List (Nat × Nat) := [(0, 1), (1, 2), (1, 3), (2, 3), (2, 4), (3, 1), (3, 4)]

/-- The fuses are in a state that the spec gives them: a life-cycle state of R649, counters from 0 to 64 (R654), at most three
refurbishments and key slots within their fuses (R650), the secret destroyed exactly in SCRAPPED (R667), and a change in
progress is one that R666 permits. -/
def SealInv (s : State) : Prop :=
  s.sea.lc ≤ 4 ∧ s.sea.refurb ≤ 3 ∧ s.sea.fwSvn ≤ 64 ∧ s.sea.culSvn ≤ 64 ∧ s.sea.ownerValid < 256 ∧ s.sea.ownerRevoked < 256 ∧
  s.sea.fwRevoked < 16 ∧ s.sea.noSecret = decide (s.sea.lc = 4) ∧
  (s.sea.busy = true → (s.sea.lc, s.sea.target) ∈ permittedChanges ∧ (s.sea.lc = 3 → s.sea.target = 1 → s.sea.refurb < 3))

end Sys2Proof.Safety
end

