-- ==== Sys2Proof/Certificates/Slice0/Obligations.lean ====
section
/-!
DEFINITION. Sys2Proof/Certificates/Slice0/Obligations.lean: what is to be proved of the module, family by family, from the
numbered rules of the spec.
-/

open Sys2Proof Sys2Proof.Machine Sys2Proof.Safety

/-- Control slot, R144, R150: the scalar and predicate instructions write S[D] or P[D] and nothing else. P0 as a source reads
as all lanes true. -/
def Obligations.ControlSlotResults : Prop :=
  (∀ (s : State) (w : Fin 8) (v d a b : Fin 32) (imm : Word),
      let x := sGet (slotSrc s w v) a
      let y := sGet (slotSrc s w v) b
      let put := fun (c : Instr) (op : Nat) (z : Word) => WritesS s w v 0 c (slotWord op d a b 0 0 0) d z
      put (.add w v d a b) 0x09 (BitVec.ofNat 32 (x.toNat + y.toNat)) ∧
      put (.sub w v d a b) 0x0B (BitVec.ofInt 32 ((x.toNat : Int) - y.toNat)) ∧
      put (.mul w v d a b) 0x0C (BitVec.ofNat 32 (x.toNat * y.toNat)) ∧
      put (.andS w v d a b) 0x0D (x &&& y) ∧
      put (.orS w v d a b) 0x0E (x ||| y) ∧
      put (.xor w v d a b) 0x0F (x ^^^ y) ∧
      put (.shl w v d a b) 0x10 (BitVec.ofNat 32 (x.toNat * 2 ^ (y.toNat % 32))) ∧
      put (.shr w v d a b) 0x11 (BitVec.ofNat 32 (x.toNat / 2 ^ (y.toNat % 32))) ∧
      put (.sra w v d a b) 0x12 (BitVec.ofInt 32 (x.toInt / 2 ^ (y.toNat % 32))) ∧
      put (.min w v d a b) 0x13 (if x.toInt ≤ y.toInt then x else y) ∧
      put (.max w v d a b) 0x14 (if x.toInt ≤ y.toInt then y else x) ∧
      put (.slt w v d a b) 0x15 (if x.toInt < y.toInt then 1 else 0) ∧
      put (.sltu w v d a b) 0x16 (if x.toNat < y.toNat then 1 else 0) ∧
      put (.seq w v d a b) 0x17 (if x = y then 1 else 0) ∧
      WritesS s w v 0 (.li w v d imm) (slotWord 0x08 d 0 0 0 0 imm.toNat) d imm ∧
      WritesS s w v 0 (.addi w v d a imm) (slotWord 0x0A d a 0 0 0 imm.toNat) d (BitVec.ofNat 32 (x.toNat + imm.toNat))) ∧
  (∀ (s : State) (w : Fin 8) (v : Fin 32) (d a b : Fin 8) (m n : Fin 32), d ≠ 0 →
      let p := pGet (slotSrc s w v) a
      let q := pGet (slotSrc s w v) b
      let x := sGet (slotSrc s w v) m
      let y := sGet (slotSrc s w v) n
      let lanes := fun (c : Instr) (word : Nat) (g : Nat → Bool) => SlotOpen s w v 0 word → Completes c s (fun t =>
        (∀ i, i < 64 → (pGet (regsAt t w v) d).getLsbD i = g i) ∧
        SlotWrites s t w v (fun r => pSet r d (pGet (regsAt t w v) d)))
      lanes (.pand w v d a b) (slotWord 0x20 d a b 0 0 0) (fun i => p.getLsbD i && q.getLsbD i) ∧
      lanes (.por w v d a b) (slotWord 0x21 d a b 0 0 0) (fun i => p.getLsbD i || q.getLsbD i) ∧
      lanes (.pxor w v d a b) (slotWord 0x22 d a b 0 0 0) (fun i => p.getLsbD i != q.getLsbD i) ∧
      lanes (.pnot w v d a) (slotWord 0x23 d a 0 0 0 0) (fun i => !(p.getLsbD i)) ∧
      lanes (.pfirst w v d m) (slotWord 0x24 d m 0 0 0 0) (fun i => decide (i < x.toNat)) ∧
      lanes (.pset w v d m n) (slotWord 0x25 d m n 0 0 0) (fun i => if i < 32 then x.getLsbD i else y.getLsbD (i - 32)) ∧
      WritesS s w v 0 (.pcount w v m a) (slotWord 0x26 m a 0 0 0 0) m
        (BitVec.ofNat 32 ((List.range 64).countP (fun i => p.getLsbD i))))

/-- R153, R169: the branches, LOOP and NOP; END and TRAP as the last slot of the bundle and before it. `fallsTo` is the bundle
that follows when no branch is taken. -/
def Obligations.ControlSlotFlow : Prop :=
  (∀ (s : State) (w : Fin 8) (v a d : Fin 32) (tgt : Fin 512) (k : Fin 4),
      let x := sGet (slotSrc s w v) a
      let z := sGet (slotSrc s w v) d
      Branches s w v (.jmp w v tgt) (slotWord 0x03 0 0 0 0 0 tgt) id tgt ∧
      Branches s w v (.bnz w v a tgt) (slotWord 0x04 0 a 0 0 0 tgt) id (if x ≠ 0 then tgt else fallsTo s w v) ∧
      Branches s w v (.bz w v a tgt) (slotWord 0x05 0 a 0 0 0 tgt) id (if x = 0 then tgt else fallsTo s w v) ∧
      Branches s w v (.loop w v d tgt) (slotWord 0x06 d 0 0 0 0 tgt) (fun r => sSet r d (z - 1))
        (if z = 1 then fallsTo s w v else tgt) ∧
      (SlotOpen s w v k 0 → PlainBundle s w v →
        Completes (.nop w v k) s (fun t => SlotWrites s t w v id ∧ goesTo t w v = fallsTo s w v))) ∧
  (∀ (s : State) (w : Fin 8) (v a : Fin 32), PlainBundle s w v →
      (LastSlot s w v →
        (SlotOpen s w v 0 (slotWord 0x01 0 0 0 0 0 0) → Completes (.endOp w v) s (fun t =>
          (vatAt t w v).fin = some ⟨0, (vatAt s w v).prog.pc, 0⟩ ∧ (vatAt t w v).issue = none ∧
          (vatAt t w v).prog = (vatAt s w v).prog ∧ OnlyVat s t w v)) ∧
        (SlotOpen s w v 0 (slotWord 0x02 0 a 0 0 0 0) → Completes (.trap w v a) s (fun t =>
          (vatAt t w v).fin = some ⟨0x0149, (vatAt s w v).prog.pc, (sGet (slotSrc s w v) a).toNat⟩ ∧
          (vatAt t w v).issue = none ∧ (vatAt t w v).prog = (vatAt s w v).prog ∧ OnlyVat s t w v))) ∧
      ((∀ i, (vatAt s w v).issue = some i → i.done.length < 3) →
        (SlotOpen s w v 0 (slotWord 0x01 0 0 0 0 0 0) → Completes (.endOp w v) s (fun t =>
          (∃ i, (vatAt t w v).issue = some i ∧ i.ending = true ∧ i.done.contains 0 = true ∧ i.snap = slotSrc s w v) ∧
          SlotWrites s t w v id ∧ (vatAt t w v).fin = (vatAt s w v).fin)) ∧
        (SlotOpen s w v 0 (slotWord 0x02 0 a 0 0 0 0) → Completes (.trap w v a) s (fun t =>
          (∃ i, (vatAt t w v).issue = some i ∧ i.trap = some (sGet (slotSrc s w v) a).toNat ∧ i.done.contains 0 = true ∧
            i.snap = slotSrc s w v) ∧
          SlotWrites s t w v id ∧ (vatAt t w v).fin = (vatAt s w v).fin))))

/-- Vector slot: integer instructions treat lanes as 32-bit two's complement values and wrap. -/
def Obligations.IntegerLanes : Prop :=
  ∀ (s : State) (w : Fin 8) (v d a b m n : Fin 32) (pr : Fin 8),
    let x := fun i => vLane (slotSrc s w v) a i
    let y := fun i => vLane (slotSrc s w v) b i
    let put := fun (c : Instr) (op : Nat) (g : Nat → Word) => Lanes s w v c (slotWord op d a b 0 pr 0) d pr g
    let shift := fun (c : Instr) (op : Nat) (g : Nat → Word) => Lanes s w v c (slotWord op d a 0 0 pr n) d pr g
    put (.viadd w v d a b pr) 0x20 (fun i => BitVec.ofNat 32 ((x i).toNat + (y i).toNat)) ∧
    put (.visub w v d a b pr) 0x21 (fun i => BitVec.ofInt 32 ((x i).toInt - (y i).toInt)) ∧
    put (.vimul w v d a b pr) 0x22 (fun i => BitVec.ofNat 32 ((x i).toNat * (y i).toNat)) ∧
    put (.vand w v d a b pr) 0x23 (fun i => x i &&& y i) ∧
    put (.vor w v d a b pr) 0x24 (fun i => x i ||| y i) ∧
    put (.vxor w v d a b pr) 0x25 (fun i => x i ^^^ y i) ∧
    shift (.vshl w v d a n pr) 0x26 (fun i => BitVec.ofNat 32 ((x i).toNat * 2 ^ n.val)) ∧
    shift (.vshr w v d a n pr) 0x27 (fun i => BitVec.ofNat 32 ((x i).toNat / 2 ^ n.val)) ∧
    shift (.vsra w v d a n pr) 0x28 (fun i => BitVec.ofInt 32 ((x i).toInt / 2 ^ n.val)) ∧
    put (.vimin w v d a b pr) 0x29 (fun i => if (x i).toInt ≤ (y i).toInt then x i else y i) ∧
    put (.vimax w v d a b pr) 0x2A (fun i => if (x i).toInt ≤ (y i).toInt then y i else x i) ∧
    Lanes s w v (.vbcast w v d m pr) (slotWord 0x38 d m 0 0 pr 0) d pr (fun _ => sGet (slotSrc s w v) m) ∧
    Lanes s w v (.vlane w v d pr) (slotWord 0x3C d 0 0 0 pr 0) d pr (fun i => BitVec.ofNat 32 i) ∧
    (SlotOpen s w v 2 (slotWord 0x39 d a b 0 pr 0) → Completes (.vsel w v d a b pr) s (fun t =>
      LanesWritten s t w v d (fun i => if (pGet (slotSrc s w v) pr).getLsbD i then x i else y i)))

/-- R61, R161, R62–R66: the floating-point lane instructions. `numOf fp32` is the value of an FP32 code. -/
def Obligations.FloatLanes : Prop :=
  ∀ (s : State) (w : Fin 8) (v d a b e : Fin 32) (pr : Fin 8),
    let x := fun i => vLane (slotSrc s w v) a i
    let y := fun i => vLane (slotSrc s w v) b i
    let z := fun i => vLane (slotSrc s w v) e i
    let num := fun (u : Word) => numOf fp32 u.toNat
    let near := fun (q : FNum) => BitVec.ofNat 32 (roundTo fp32 false q)
    let put := fun (c : Instr) (op : Nat) (g : Nat → Word) => Lanes s w v c (slotWord op d a b 0 pr 0) d pr g
    let one := fun (c : Instr) (op : Nat) (g : Nat → Word) => Lanes s w v c (slotWord op d a 0 0 pr 0) d pr g
    put (.vadd w v d a b pr) 0x01 (fun i => near (numAdd (num (x i)) (num (y i)))) ∧
    put (.vsub w v d a b pr) 0x02 (fun i => near (numAdd (num (x i)) (numNeg (num (y i))))) ∧
    put (.vmul w v d a b pr) 0x03 (fun i => near (numMul (num (x i)) (num (y i)))) ∧
    Lanes s w v (.vfma w v d a b e pr) (slotWord 0x04 d a b e pr 0) d pr
      (fun i => BitVec.ofNat 32 (fFma fp32 (x i).toNat (y i).toNat (z i).toNat)) ∧
    put (.vmin w v d a b pr) 0x05 (fun i =>
      if numIsNan (num (x i)) || numIsNan (num (y i)) then 0x7FC00000
      else if numLt (num (x i)) (num (y i)) then x i
      else if numLt (num (y i)) (num (x i)) then y i
      else if (x i).msb then x i else y i) ∧
    put (.vmax w v d a b pr) 0x06 (fun i =>
      if numIsNan (num (x i)) || numIsNan (num (y i)) then 0x7FC00000
      else if numLt (num (x i)) (num (y i)) then y i
      else if numLt (num (y i)) (num (x i)) then x i
      else if (x i).msb then y i else x i) ∧
    one (.vabs w v d a pr) 0x07 (fun i => BitVec.ofNat 32 ((x i).toNat % 2 ^ 31)) ∧
    one (.vneg w v d a pr) 0x08 (fun i => x i ^^^ 0x80000000) ∧
    one (.vexp2 w v d a pr) 0x10 (fun i => BitVec.ofNat 32 (specialFn .exp2 (x i).toNat)) ∧
    one (.vlog2 w v d a pr) 0x11 (fun i => BitVec.ofNat 32 (specialFn .log2 (x i).toNat)) ∧
    one (.vrcp w v d a pr) 0x12 (fun i => BitVec.ofNat 32 (specialFn .recip (x i).toNat)) ∧
    one (.vrsq w v d a pr) 0x13 (fun i => BitVec.ofNat 32 (specialFn .rsqrt (x i).toNat)) ∧
    one (.vtanh w v d a pr) 0x14 (fun i => BitVec.ofNat 32 (specialFn .tanh (x i).toNat)) ∧
    one (.verf w v d a pr) 0x15 (fun i => BitVec.ofNat 32 (specialFn .erf (x i).toNat))

/-- R161, whole: VMIN and VMAX, the four FP32 compares and VICMPLT. -/
def Obligations.CompareInstructions : Prop :=
  ∀ (s : State) (w : Fin 8) (v a b g : Fin 32) (d pr : Fin 8),
    let x := fun i => vLane (slotSrc s w v) a i
    let y := fun i => vLane (slotSrc s w v) b i
    let num := fun (u : Word) => numOf fp32 u.toNat
    let nan := fun i => numIsNan (num (x i)) || numIsNan (num (y i))
    let zeros := fun i => numIsZero (num (x i)) && numIsZero (num (y i))
    let cmp := fun (c : Instr) (op : Nat) (h : Nat → Bool) => Compares s w v c (slotWord op d a b 0 pr 0) d pr h
    cmp (.vcmplt w v d a b pr) 0x18 (fun i => !(nan i) && !(zeros i) && numLt (num (x i)) (num (y i))) ∧
    cmp (.vcmple w v d a b pr) 0x19 (fun i => !(nan i) && (zeros i || numLt (num (x i)) (num (y i)) || numEq (num (x i)) (num (y i)))) ∧
    cmp (.vcmpeq w v d a b pr) 0x1A (fun i => !(nan i) && (zeros i || numEq (num (x i)) (num (y i)))) ∧
    cmp (.vcmpun w v d a b pr) 0x1B nan ∧
    cmp (.vicmplt w v d a b pr) 0x2B (fun i => decide ((x i).toInt < (y i).toInt)) ∧
    Lanes s w v (.vmin w v g a b pr) (slotWord 0x05 g a b 0 pr 0) g pr (fun i =>
      if nan i then 0x7FC00000
      else if numLt (num (x i)) (num (y i)) then x i
      else if numLt (num (y i)) (num (x i)) then y i
      else if (x i).msb then x i else y i) ∧
    Lanes s w v (.vmax w v g a b pr) (slotWord 0x06 g a b 0 pr 0) g pr (fun i =>
      if nan i then 0x7FC00000
      else if numLt (num (x i)) (num (y i)) then y i
      else if numLt (num (y i)) (num (x i)) then x i
      else if (x i).msb then y i else x i)

/-- R162–R164. `packGet` and `packAll` are the packing of R39; `treeReduce` is the tree of R164. -/
def Obligations.Conversions : Prop :=
  ∀ (s : State) (w : Fin 8) (v d a : Fin 32) (pr : Fin 8) (src dst ty : Byte) (inf : Bool),
    let r := slotSrc s w v
    let on := fun i => (pGet r pr).getLsbD i
    (vcvtTypeOk src.toNat = true → vcvtTypeOk dst.toNat = true →
      SlotOpen s w v 2 (slotWord 0x30 d a 0 0 pr (src.toNat + 256 * dst.toNat + 65536 * b2n inf)) →
      Completes (.vcvt w v d a src dst inf pr) s (fun t => LanesWritten s t w v d (nth 0 (vOfBits (packAll (tyBits dst.toNat)
        ((upto 64).map (fun i => if on i then
          vcvtElem src.toNat dst.toNat inf (packGet (vBits (vGet r a)) (tyBits src.toNat) i) else 0))))))) ∧
    (∀ f, tyMX ty.toNat = true → tyFmt ty.toNat = some f →
      (SlotOpen s w v 2 (slotWord 0x31 d a 0 0 pr ty.toNat) → Completes (.vmxq w v d a ty pr) s (fun t =>
        let src := (upto 64).map (fun i => if on i then numOf fp32 (vLane r a i).toNat else .fin false 0 0)
        let b0 := mxEncode f (src.take 32)
        let b1 := mxEncode f (src.drop 32)
        LanesWritten s t w v d (fun i => if i = 63 then BitVec.ofNat 32 (b0.1 + 256 * b1.1)
          else nth 0 (vOfBits (packAll f.width (b0.2 ++ b1.2))) i))) ∧
      Lanes s w v (.vmxd w v d a ty pr) (slotWord 0x32 d a 0 0 pr ty.toNat) d pr (fun i =>
        BitVec.ofNat 32 (roundTo fp32 false (mxDecode f ((vLane r a 63).toNat / 2 ^ (if i < 32 then 0 else 8) % 256)
          (packGet (vBits (vGet r a)) f.width i))))) ∧
    (SlotOpen s w v 2 (slotWord 0x3A d a 0 0 pr 0) → Completes (.vrsum w v d a pr) s (fun t =>
      LanesWritten s t w v d (fun i => if i = 0 then
        treeReduce lAdd ((upto 64).map (fun i => if on i then vLane r a i else 0x80000000)) else 0))) ∧
    (SlotOpen s w v 2 (slotWord 0x3B d a 0 0 pr 0) → Completes (.vrmax w v d a pr) s (fun t =>
      LanesWritten s t w v d (fun i => if i = 0 then
        treeReduce lMax ((upto 64).map (fun i => if on i then vLane r a i else 0xFF800000)) else 0)))

/-- R154, R158, R159. `convertOut` is the conversion of R57 and R59 step 5, `outputNum` the value of an output. -/
def Obligations.TileControl : Prop :=
  ∀ (s : State) (w : Fin 8) (v : Fin 32) (c : Fin 2) (imm : Word) (ty : Byte) (inf : Bool),
    let tile := tileGet (slotSrc s w v) c
    (cfgCheck imm = 0 → SlotOpen s w v 1 (slotWord 0x01 c 0 0 0 0 imm.toNat) →
      Completes (.mcfg w v c imm) s (fun t => SlotWrites s t w v (fun r => tileSet r c { cfg := imm }))) ∧
    (tileKind tile ≠ none → SlotOpen s w v 1 (slotWord 0x02 c 0 0 0 0 0) →
      Completes (.mclr w v c) s (fun t => ∃ u : Tile, SlotWrites s t w v (fun r => tileSet r c u) ∧ u.cfg = tile.cfg ∧
        (∀ i, tileOut u i = {}) ∧ u.count = 0 ∧ u.nextk = 0 ∧ u.short = false)) ∧
    (tileKind tile = some .bf16 → tileParity tile = false → SlotOpen s w v 1 (slotWord 0x07 c 0 0 0 0 0) →
      Completes (.mseg w v c) s (fun t => ∃ u : Tile, SlotWrites s t w v (fun r => tileSet r c u) ∧ u.cfg = tile.cfg ∧
        u.nextk = tile.nextk ∧ u.short = tile.short ∧
        ∀ i, i < 4096 → (tileOut u i).w = (if (tileOut tile i).w.getLsbD 64 then bfCloseSeg (tileOut tile i).w
          else (tileOut tile i).w))) ∧
    (∀ k, tileKind tile = some k → ty.toNat ∈ [0x01, 0x02, 0x03, 0x04, 0x05, 0x12] → tileParity tile = false →
      SlotOpen s w v 1 (slotWord 0x05 c 0 0 0 0 (ty.toNat + 256 * b2n inf)) →
      let bytes := (upto 4096).flatMap (fun i => leBytes (tyBits ty.toNat / 8) (convertOut ty.toNat inf (outputNum tile k i)))
      let g : Staging := ⟨ty.toNat, tileShape tile, c, inf, bytes⟩
      Completes (.mcvt w v c ty inf) s (fun t => SlotWrites s t w v (fun r => { r with staging := some g })))

/-- R155, R156, R160. `slotCtx` is what the slot acts on; the runs and partials are read through it. -/
def Obligations.MatrixOperations : Prop :=
  ∀ (s : State) (w : Fin 8) (v : Fin 32) (c : Fin 2) (ta tb : Fin 8) (si sj sk sn : Fin 32),
    let q := slotCtx s w v
    let tile := tileGet (slotSrc s w v) c
    let i0 := (sGet (slotSrc s w v) si).toNat
    let j0 := (sGet (slotSrc s w v) sj).toNat
    let k0 := (sGet (slotSrc s w v) sk).toNat + q.mma
    let cnt := (sGet (slotSrc s w v) sn).toNat - q.mma
    (∀ da db ls, tileKind tile = some .exact → matDesc q ta = .ok da → matDesc q tb = .ok db →
      da.ty = tileTA tile → db.ty = tileTB tile → operandsOk da db tile i0 j0 = true → prePass q tile da db i0 j0 = .ok ls →
      SlotOpen s w v 1 (slotWord 0x03 c ta tb si 0 sj) →
      Completes (.manc w v c ta tb si sj) s (fun t => ∃ u : Tile, SlotReads s t w v (fun r => tileSet r c u) ∧
        u.cfg = tile.cfg ∧ u.manc = some ⟨ta, tb, i0, j0⟩ ∧ u.count = 0 ∧
        ∀ i, i < ls.length → tileOut u i = { anchor := ls[i]? })) ∧
    (∀ da db, tileKind tile = some .integer → matDesc q ta = .ok da → matDesc q tb = .ok db →
      da.ty = tileTA tile → db.ty = tileTB tile → operandsOk da db tile i0 j0 = true →
      SlotOpen s w v 1 (slotWord 0x03 c ta tb si 0 sj) →
      Completes (.manc w v c ta tb si sj) s (fun t => ∃ u : Tile, SlotReads s t w v (fun r => tileSet r c u) ∧
        u.cfg = tile.cfg ∧ u.manc = some ⟨ta, tb, i0, j0⟩ ∧ u.count = 0 ∧ ∀ i, tileOut u i = {} ∧ tileAnchor u i = some 0)) ∧
    (∀ k da db as bs u, tileKind tile = some k → matDesc q ta = .ok da → matDesc q tb = .ok db →
      da.ty = tileTA tile → db.ty = tileTB tile → operandsOk da db tile i0 j0 = true → k0 + cnt ≤ dSize da 0 →
      (k = .exact → anchorsPresent tile = true) → (k = .bf16 → k0 = tile.nextk ∧ tile.short = false) →
      tile.count + cnt ≤ 16777216 → 0 < cnt → tileParity tile = false →
      collect (fun r => readRun q da k0 cnt (i0 + r)) (upto (tileRows tile)) = .ok as →
      collect (fun r => readRun q db k0 cnt (j0 + r)) (upto (tileCols tile)) = .ok bs →
      mmaTile tile k k0 cnt as bs = .ok u →
      SlotOpen s w v 1 (slotWord 0x04 c ta tb si 0 (sj + 32 * sk.val + 1024 * sn.val)) →
      Completes (.mma w v c ta tb si sj sk sn) s (fun t => SlotReads s t w v (fun r => tileSet r c u) ∧
        u.cfg = tile.cfg ∧ u.count = tile.count + cnt ∧ u.nextk = (if k = .bf16 then k0 + cnt else tile.nextk))) ∧
    (∀ k d ps, tileKind tile = some k → k ≠ .bf16 → matDesc q ta = .ok d → d.ty = 0x20 → tileParity tile = false →
      j0 + tileCols tile ≤ dSize d 0 → i0 + tileRows tile ≤ dSize d 1 →
      collect (fun (p : Nat × Nat × Nat) => readPartial q d (i0 + p.2.1) (j0 + p.2.2)) (outputCells tile) = .ok ps →
      (∀ p ∈ ps.zipIdx, (addPartial tile p.2 p.1).2 = 0) →
      SlotOpen s w v 1 (slotWord 0x06 c ta 0 si 0 sj) →
      Completes (.maddp w v c ta si sj) s (fun t => SlotReads s t w v (fun r =>
        tileSet r c { tile with outs := outsOf (ps.zipIdx.map (fun p => (addPartial tile p.2 p.1).1)) })))

/-- R165, R152 and the move slot's table. `seenRead` is the bank with the bytes that came through the ring-in or the wheel
port and are not visible yet left out. A load changes no byte of the Cave; the moves change nothing but their register. -/
def Obligations.LoadsAndMoves : Prop :=
  ∀ (s : State) (w : Fin 8) (v d n m : Fin 32) (a b : Fin 16) (e : Fin 16) (imm : Word) (lane : Fin 64),
    let r := slotSrc s w v
    let x := wheelOf s w
    let off := (aGet r a + imm.signExtend 64).toNat
    let bank := fun o k => seenRead x (bankAddr v o) k
    let fits := fun o k => o % 32 = 0 ∧ o + k ≤ visibleEnd x.saveSlots ∧ caveUncorr x (bankAddr v o) k = false
    let load := fun (c : Instr) (word : Nat) (xs : List Word) => SlotOpen s w v 3 word →
      Completes c s (fun t => SlotReads s t w v (fun q => vSet q d xs))
    (fits off 256 → load (.vld w v d a imm) (slotWord 0x01 d a 0 0 0 imm.toNat) (lanesOf (bank off 256))) ∧
    (fits off 256 → permuteOk (sGet r n).toNat = true →
      load (.vldxb w v d a n imm) (slotWord 0x03 d a 0 n 0 imm.toNat)
        (exchangePermute (sGet r n).toNat (lanesOf (bank off 256)))) ∧
    (fits off 256 → fits (aGet r b).toNat 64 → leNat ((bank (aGet r b).toNat 64).drop 44) = 0 →
      load (.vldxe w v d a b imm) (slotWord 0x04 d a b 0 0 imm.toNat)
        (exchangeExplicit (leNat (bank (aGet r b).toNat 64)) (lanesOf (bank off 256)))) ∧
    (∀ g, r.staging = some g → (sGet r n).toNat < 64 → SlotOpen s w v 3 (slotWord 0x05 d n 0 0 0 0) →
      Completes (.vxld w v d n) s (fun t =>
        LanesWritten s t w v d (nth 0 (lanesOf (takePad 0 256 (g.bytes.drop (256 * (sGet r n).toNat))))))) ∧
    (SlotOpen s w v 3 (slotWord 0x06 d n 0 0 0 lane) →
      Completes (.stov w v d n lane) s (fun t => SlotWrites s t w v (fun q => vSetLane q d lane (sGet r n)))) ∧
    WritesS s w v 3 (.vtos w v d n lane) (slotWord 0x07 d n 0 0 0 lane) d (vLane r n lane) ∧
    WritesA s w v 3 (.aadd w v e a imm) (slotWord 0x08 e a 0 0 0 imm.toNat) e (BitVec.ofInt 64 ((aGet r a).toInt + imm.toInt)) ∧
    WritesA s w v 3 (.aadds w v e a n) (slotWord 0x09 e a n 0 0 0) e (BitVec.ofInt 64 ((aGet r a).toInt + (sGet r n).toInt)) ∧
    WritesA s w v 3 (.amov w v e n m) (slotWord 0x0A e n m 0 0 0) e
      (BitVec.ofNat 64 ((sGet r m).toNat * 2 ^ 32 + (sGet r n).toNat)) ∧
    WritesS s w v 3 (.atos w v d a) (slotWord 0x0B d a 0 0 0 0) d (BitVec.ofNat 32 (aGet r a).toNat)

/-- R165, R166. `writeOutputs` writes the outputs one by one in row-major order under the descriptor's WMODE. -/
def Obligations.Stores : Prop :=
  ∀ (s : State) (w : Fin 8) (v n si sj : Fin 32) (a : Fin 16) (imm : Word) (pr tt : Fin 8) (c : Fin 2),
    let r := slotSrc s w v
    let x := wheelOf s w
    let off := (aGet r a + imm.signExtend 64).toNat
    let q := slotCtx s w v
    let i0 := (sGet r si).toNat
    let j0 := (sGet r sj).toNat
    (off % 32 = 0 → off + 256 ≤ visibleEnd x.saveSlots → SlotOpen s w v 3 (slotWord 0x02 0 a n 0 pr imm.toNat) →
      Completes (.vst w v a n imm pr) s (fun t => regsAt t w v = regsAt s w v ∧
        (∀ k, k < 256 → rdByte 0 (wheelOf t w).cave (bankAddr v off + k) =
          if (pGet r pr).getLsbD (k / 4) then BitVec.ofNat 8 ((vLane r n (k / 4)).toNat / 2 ^ (8 * (k % 4)))
          else rdByte 0 x.cave (bankAddr v off + k)) ∧
        (∀ p, p < bankAddr v off ∨ bankAddr v off + 256 ≤ p → rdByte 0 (wheelOf t w).cave p = rdByte 0 x.cave p) ∧
        (wheelOf t w).hoops = x.hoops ∧ ∀ u, u ≠ w.val → wheelOf t u = wheelOf s u)) ∧
    (∀ d g y, matDesc q tt = .ok d → r.staging = some g → d.ty = g.ty → storeFits d g.shape i0 j0 = true →
      writeOutputs d (descIx q d) i0 j0 (fun i => leAt g.bytes (tyBits g.ty / 8 * i) (tyBits g.ty / 8)) q (shapeCells g.shape) = .ok y →
      SlotOpen s w v 3 (slotWord 0x10 tt 0 0 si 0 sj) →
      Completes (.msto w v tt si sj) s (fun t => regsAt t w v = regsAt s w v ∧ (wheelOf t w).cave = y.x.cave ∧
        (wheelOf t w).hoops = x.hoops ∧ ∀ u, u ≠ w.val → wheelOf t u = wheelOf s u)) ∧
    (∀ d k y, matDesc q tt = .ok d → tileKind (tileGet r c) = some k → k ≠ .bf16 → d.ty = 0x20 →
      tileParity (tileGet r c) = false → storeFits d (tileShape (tileGet r c)) i0 j0 = true →
      writeOutputs d (descIx q d) i0 j0 (outputPartial (tileGet r c)) q (outputCells (tileGet r c)) = .ok y →
      SlotOpen s w v 3 (slotWord 0x11 tt c 0 si 0 sj) →
      Completes (.mstp w v tt c si sj) s (fun t => regsAt t w v = regsAt s w v ∧ (wheelOf t w).cave = y.x.cave ∧
        (wheelOf t w).hoops = x.hoops ∧ ∀ u, u ≠ w.val → wheelOf t u = wheelOf s u))

/-- R168, R167: the hoop instructions and RSEND; HTAKE on an empty hoop and HGET without a free buffer wait. -/
def Obligations.HoopPorts : Prop :=
  ∀ (s : State) (w : Fin 8) (v n : Fin 32) (d a b : Fin 16) (p : Fin 4),
    let r := slotSrc s w v
    let x := wheelOf s w
    let keeps := fun (t : State) => (wheelOf t w).cave = x.cave ∧ ∀ u, u ≠ w.val → wheelOf t u = wheelOf s u
    (∀ h hd rest, (inPort r p).hoop = some h → (inPort r p).taken.length < 4 → (hoopOf x h).q = hd :: rest →
      hd.addr / bankBytes = v → hd.addr % bankBytes + bufBytes (hoopOf x h) ≤ visibleEnd x.saveSlots →
      SlotOpen s w v 3 (slotWord 0x18 d 0 n 0 0 p) → Completes (.htake w v d n p) s (fun t =>
        (hoopOf (wheelOf t w) h).q = rest ∧ aGet (regsAt t w v) d = BitVec.ofNat 64 (hd.addr % bankBytes) ∧
        sGet (regsAt t w v) n = BitVec.ofNat 32 hd.len ∧
        (inPort (regsAt t w v) p).taken = (inPort (regsAt s w v) p).taken ++ [hd] ∧ keeps t)) ∧
    (∀ h, (inPort r p).hoop = some h → (inPort r p).taken.length < 4 → (hoopOf x h).q = [] →
      SlotOpen s w v 3 (slotWord 0x18 d 0 n 0 0 p) → Completes (.htake w v d n p) s (fun t =>
        (vatAt t w v).st = .handleWait ∧ (vatAt t w v).wait = some ⟨true, p, d, n⟩ ∧ regsAt t w v = regsAt s w v ∧ keeps t)) ∧
    (∀ h hd rest, (inPort r p).hoop = some h → (inPort r p).taken = hd :: rest → inPort (regsAt s w v) p = inPort r p →
      SlotOpen s w v 3 (slotWord 0x19 0 0 0 0 0 p) → Completes (.hrel w v p) s (fun t =>
        (hoopOf (wheelOf t w) h).rels = (hoopOf x h).rels ++ [bufIndex (hoopOf x h) hd.addr] ∧
        (inPort (regsAt t w v) p).taken = rest ∧ keeps t)) ∧
    (∀ h i rest, (outPort r p).hoop = some h → (outPort r p).got.length < 4 → (hoopOf x h).free = i :: rest →
      bufAddr (hoopOf x h) i / bankBytes = v →
      bufAddr (hoopOf x h) i % bankBytes + bufBytes (hoopOf x h) ≤ visibleEnd x.saveSlots →
      SlotOpen s w v 3 (slotWord 0x1A d 0 0 0 0 p) → Completes (.hget w v d p) s (fun t =>
        (hoopOf (wheelOf t w) h).free = rest ∧
        aGet (regsAt t w v) d = BitVec.ofNat 64 (bufAddr (hoopOf x h) i % bankBytes) ∧
        (outPort (regsAt t w v) p).got = (outPort (regsAt s w v) p).got ++ [i] ∧ keeps t)) ∧
    (∀ h, (outPort r p).hoop = some h → (outPort r p).got.length < 4 → (hoopOf x h).free = [] →
      SlotOpen s w v 3 (slotWord 0x1A d 0 0 0 0 p) → Completes (.hget w v d p) s (fun t =>
        (vatAt t w v).wait = some ⟨false, p, d, 0⟩ ∧ regsAt t w v = regsAt s w v ∧ keeps t)) ∧
    (∀ h i rest, (outPort r p).hoop = some h → (outPort r p).got = i :: rest → outPort (regsAt s w v) p = outPort r p →
      (sGet r n).toNat ≤ bufBytes (hoopOf x h) →
      SlotOpen s w v 3 (slotWord 0x1B 0 0 n 0 0 p) → Completes (.hput w v n p) s (fun t =>
        (hoopOf (wheelOf t w) h).puts = (hoopOf x h).puts ++
          [(⟨1, v⟩, ⟨false, false, h, (sGet r n).toNat, bufAddr (hoopOf x h) i⟩)] ∧
        (outPort (regsAt t w v) p).got = rest ∧ keeps t)) ∧
    (let src := (aGet r a).toNat
     let dst := (aGet r b).toNat
     let len := (sGet r n).toNat
     src % 32 = 0 → dst % 32 = 0 → len % 32 = 0 → 32 ≤ len → len ≤ 2621440 → src + len ≤ visibleEnd x.saveSlots →
      dst + len ≤ visibleEnd x.saveSlots → (vatAt s w v).ring = none → SlotOpen s w v 3 (slotWord 0x20 0 a n b 0 0) →
      Completes (.rsend w v a n b) s (fun t => (vatAt t w v).ring = some ⟨src, dst, len, (vatAt s w v).op, r.pc⟩ ∧
        regsAt t w v = regsAt s w v ∧ (wheelOf t w).hoops = x.hoops ∧ keeps t))

/-- R137, R153. `startProg` reads the body; `startCheck` is the first failing check of R137. -/
def Obligations.VatStartAndComplete : Prop :=
  ∀ (s : State) (w : Fin 8) (v : Fin 32) (op : OpRef),
    let x := wheelOf s w
    let a := vatAt s w v
    let prog := (startProg x v op.ctx a.record).1
    let ts := (startProg x v op.ctx a.record).2
    (a.op = some op → a.started = false → a.st = .idle → sliceFailed x v a.record = false → descUncorr x ts = false →
      Completes (.vatOperationStart w v) s (fun t => (vatAt t w v).st = .run ∧ (vatAt t w v).started = true ∧
        (vatAt t w v).prog = prog ∧ (vatAt t w v).op = some op ∧ (wheelOf t w).cave = x.cave ∧
        (vatAt t w v).fin = (if startCheck x ts prog.c0.cfg prog.c1.cfg = 0 then none
          else some ⟨startCheck x ts prog.c0.cfg prog.c1.cfg, prog.pc, 0⟩) ∧
        (∀ p ∈ prog.inP, ∀ h, p.2.hoop = some h → (hoopOf (wheelOf t w) h).cons = some ⟨1, v⟩) ∧
        (∀ p ∈ prog.outP, ∀ h, p.2.hoop = some h → (hoopOf (wheelOf t w) h).prod = some ⟨1, v⟩))) ∧
    (∀ f, a.op = some op → a.fin = some f → a.closed = false → a.ring = none → putsOpen x ⟨1, v⟩ = false →
      a.st ≠ .fenced → a.st ≠ .outOfService →
      Completes (.vatOperationComplete w v) s (fun t => (vatAt t w v).closed = true ∧ (vatAt t w v).fin = some f ∧
        (vatAt t w v).prog = a.prog ∧ (wheelOf t w).cave = x.cave ∧
        (∀ h, (savedHolds a false h = false → (hoopOf (wheelOf t w) h).prod ≠ some ⟨1, v⟩) ∧
          (savedHolds a true h = false → (hoopOf (wheelOf t w) h).cons ≠ some ⟨1, v⟩)) ∧
        (∀ h, (hoopOf (wheelOf t w) h).q = (hoopOf x h).q ∧
          (hoopOf (wheelOf t w) h).rels = (hoopOf x h).rels ++ a.prog.inP.flatMap (fun p =>
            if p.2.hoop = some h then p.2.taken.map (fun hd => bufIndex (hoopOf x h) hd.addr) else []) ∧
          (hoopOf (wheelOf t w) h).free = (hoopOf x h).free ++ a.prog.outP.flatMap (fun p =>
            if p.2.hoop = some h then p.2.got else [])) ∧
        (if f.code = 0 then ∃ n, (vatAt t w v).regs = bump a.regs 6 n else bitAt (regGet (vatAt t w v).regs 0x00C) 0 = true)))

/-- R118–R124, R172, R428. `saveArea` is the save area with its CRC-32C; `restoreRepeat` the pre-pass and the MCVT that a
restore repeats. -/
def Obligations.VatSaveAndRestore : Prop :=
  (∀ (s : State) (w : Fin 8) (v : Fin 32) (op : OpRef) (k : Nat),
      let x := wheelOf s w
      let a := vatAt s w v
      let at' := bankAddr v (slotOffset x.saveSlots k)
      let area := saveArea a.prog op (mmaDone a.issue)
      let saved := fun (t : State) (y : Bool) =>
        (vatAt t w v).st = .save ∧ (vatAt t w v).saving = some (k, y) ∧
        (k, ⟨op, a.prog, a.issue, a.wait, y, a.irrev, a.record, none⟩) ∈ (vatAt t w v).saved ∧
        (∀ i, i < area.length → rdByte 0 (wheelOf t w).cave (at' + i) = area.getD i 0) ∧
        (∀ p, p < at' ∨ at' + area.length ≤ p → rdByte 0 (wheelOf t w).cave p = rdByte 0 x.cave p) ∧
        (wheelOf t w).hoops = x.hoops ∧ ∀ u, u ≠ w.val → wheelOf t u = wheelOf s u
      (a.op = some op → freeSlot x v = some k → atBoundary a = true → a.st = .handleWait →
        (∀ h, waitHoop a = some h → (hoopOf x h).q = []) → (waitHoop a).isSome → readyFor x v ≠ [] →
        Completes (.yieldWaitExpiry w v) s (fun t => saved t true)) ∧
      (a.op = some op → freeSlot x v = some k → atBoundary a = true → (∃ e ∈ x.rnt.intr, e.1 = ⟨1, v.val⟩) →
        Completes (.preemption w v) s (fun t => saved t false ∧ t.free = s.free))) ∧
  (∀ (s : State) (w : Fin 8) (v : Fin 32) (op : OpRef) (k : Nat) (yl : Bool) (i : Inst) (sv : SavedOp),
      let x := wheelOf s w
      let a := vatAt s w v
      let at' := bankAddr v (slotOffset x.saveSlots k)
      let y := onVat (caveCorrect (caveShow x (bankAddr v 0) bankBytes) at' saveSlotBytes) v (fun t => restored t k sv)
      (a.op = some op → a.saving = some (k, yl) → a.st = .save → saveCancelled a k = none → findInst x.rnt op.ctx op.opid op.iter = some i →
        (∀ j ∈ x.rnt.insts, sameInst j op.ctx op.opid op.iter = false → j.ready = none) →
        Completes (.saveDone w v) s (fun t =>
          findInst (wheelOf t w).rnt op.ctx op.opid op.iter = some { i with st := .saved v yl } ∧
          (vatAt t w v).op = none ∧ (vatAt t w v).st = .idle ∧ (vatAt t w v).prog = {} ∧
          (vatAt t w v).saved = a.saved)) ∧
      (a.op = some op → a.restoring = some k → a.st = .restore → a.saved.find? (fun q => q.1 == k) = some (k, sv) →
        (areaOk x v k = true → sv.wait = none → sv.fault = none → ∀ z, restoreRepeat y v = .ok z →
          Completes (.restore w v) s (fun t =>
            let p := (vatAt t w v).prog
            { p with c0 := sv.prog.c0, c1 := sv.prog.c1, staging := sv.prog.staging } = sv.prog ∧
            (∀ c i, c < 2 → i < 4096 → (tileOut (tileGet p c) i).w = (tileOut (tileGet sv.prog c) i).w ∧
              (tileOut (tileGet p c) i).flags = (tileOut (tileGet sv.prog c) i).flags) ∧
            (∀ c, (tileGet sv.prog c).manc = none → tileGet p c = tileGet sv.prog c) ∧
            (sv.prog.staging = none → p.staging = none) ∧
            (vatAt t w v).st = .run ∧ (vatAt t w v).record = sv.record ∧
            (vatAt t w v).fin = none ∧ (∀ q ∈ (vatAt t w v).saved, q.1 ≠ k) ∧ (wheelOf t w).cave = x.cave)) ∧
        (areaOk x v k = false → Completes (.restore w v) s (fun t =>
          (vatAt t w v).fin = some ⟨(if caveUncorr x (bankAddr v (slotOffset x.saveSlots k)) saveSlotBytes then 0x0101 else 0x0104),
            sv.prog.pc, 0⟩ ∧ (∀ q ∈ (vatAt t w v).saved, q.1 ≠ k)))))

/-- R114–R116. The next vat of v is (v + 1) mod 32; its bank lies at `bankAddr`. -/
def Obligations.Ring : Prop :=
  ∀ (s : State) (w : Fin 8) (v : Fin 32) (r : RingOut) (off : Fin 2621440) (q : Slice),
    let x := wheelOf s w
    let n := (v.val + 1) % 32
    let src := bankAddr v r.src
    let dst := bankAddr n r.dst
    let away := fun (a : Vat) => a.st = .fenced ∨ a.st = .outOfService
    ((vatAt s w v).ring = some r → ringCredit x n r.dst r.len = true → ¬ away (vatAt s w n) → caveUncorr x src r.len = false →
      Completes (.ringTransferArrival w v) s (fun t =>
        (∀ i, i < r.len → rdByte 0 (wheelOf t w).cave (dst + i) = (caveRead x src r.len).getD i 0) ∧
        (∀ p, p < dst ∨ dst + r.len ≤ p → rdByte 0 (wheelOf t w).cave p = rdByte 0 x.cave p) ∧
        (vatAt t w v).ring = none ∧ (vatAt t w n).slices = (vatAt s w n).slices ++ [⟨r.dst, r.len, false, none, false⟩])) ∧
    ((vatAt s w v).slices.find? (fun p => p.dst == off.val) = some q → sliceDone x v q = true →
      Completes (.ringCredit w v off) s (fun t => (vatAt t w v).slices = (vatAt s w v).slices.erase q ∧
        (wheelOf t w).cave = x.cave ∧ (wheelOf t w).hoops = x.hoops)) ∧
    ((vatAt s w v).ring = some r → away (vatAt s w n) → ¬ away (vatAt s w v) → savedSlot (vatAt s w v) r.op = none →
      sameRun r.op (vatAt s w v).op = true →
      Completes (.ringFault w v) s (fun t => (vatAt t w v).ring = none ∧
        (vatAt t w v).fin = some ⟨0x0105, r.pc, 0⟩ ∧ (wheelOf t w).cave = x.cave)) ∧
    (∀ k, (vatAt s w v).ring = some r → away (vatAt s w n) → ¬ away (vatAt s w v) → savedSlot (vatAt s w v) r.op = some k →
      Completes (.ringFault w v) s (fun t => (vatAt t w v).ring = none ∧ (vatAt t w v).fin = (vatAt s w v).fin ∧
        (∀ q ∈ (vatAt t w v).saved, q.1 = k → q.2.fault = some ⟨0x0105, r.pc, 0⟩) ∧ (wheelOf t w).cave = x.cave)) ∧
    ((vatAt s w v).ring = some r → away (vatAt s w v) →
      Completes (.ringFault w v) s (fun t => (vatAt t w v).ring = none ∧
        (vatAt t w n).slices = (vatAt s w n).slices ++ [⟨r.dst, r.len, true, none, false⟩] ∧ (wheelOf t w).cave = x.cave))

/-- R381–R383, R394: the four hoop events. -/
def Obligations.HoopEvents : Prop :=
  ∀ (s : State) (w : Fin 8) (h : Fin 1024) (v i k : Nat) (u : UnitId) (hd : Handle) (rest : List (UnitId × Handle))
      (is : List Nat) (hs : List Handle) (wt : VWait),
    let x := wheelOf s w
    let y := hoopOf x h
    let keeps := fun (t : State) => (wheelOf t w).cave = x.cave ∧ ∀ j, j ≠ w.val → wheelOf t j = wheelOf s j
    (y.puts = (u, hd) :: rest → Completes (.handlePut w h) s (fun t =>
      hoopOf (wheelOf t w) h = { y with puts := rest, q := y.q ++ [hd] } ∧ keeps t ∧
      ∀ g, g ≠ h.val → hoopOf (wheelOf t w) g = hoopOf x g)) ∧
    (y.rels = i :: is → (∀ c, y.prod ≠ some ⟨8, c⟩) → Completes (.bufferRelease w h) s (fun t =>
        hoopOf (wheelOf t w) h = { y with rels := is, free := y.free ++ [i], relCnt := y.relCnt + 1 } ∧ keeps t)) ∧
    (y.rels = i :: is → y.prod = some ⟨8, k⟩ → Completes (.bufferRelease w h) s (fun t =>
      hoopOf (wheelOf t w) h = { y with rels := is } ∧
      t.mesh = s.mesh ++ [.credit (k / 128) (k % 128) w h (bufAddr y i)] ∧ keeps t)) ∧
    (y.cons = some ⟨1, v⟩ → (vatAt s w v).st = .handleWait → (vatAt s w v).wait = some wt → wt.take = true →
      (inPort (vatAt s w v).prog wt.port).hoop = some h.val → y.q = hd :: hs → hd.addr / bankBytes = v →
      hd.addr % bankBytes + bufBytes y ≤ visibleEnd x.saveSlots →
      Completes (.handleDelivered w h) s (fun t => (vatAt t w v).wait = none ∧ (vatAt t w v).st = .run ∧
        hoopOf (wheelOf t w) h = { y with q := hs } ∧ sGet (regsAt t w v) wt.fb = BitVec.ofNat 32 hd.len ∧
        aGet (regsAt t w v) wt.d = BitVec.ofNat 64 (hd.addr % bankBytes) ∧ keeps t)) ∧
    (y.prod = some ⟨1, v⟩ → (vatAt s w v).st = .run → (vatAt s w v).wait = some wt → wt.take = false →
      (outPort (vatAt s w v).prog wt.port).hoop = some h.val → y.free = i :: is → bufAddr y i / bankBytes = v →
      bufAddr y i % bankBytes + bufBytes y ≤ visibleEnd x.saveSlots →
      Completes (.freeBufferDelivered w h) s (fun t => (vatAt t w v).wait = none ∧ (vatAt t w v).st = .run ∧
        hoopOf (wheelOf t w) h = { y with free := is, obtCnt := y.obtCnt + 1 } ∧
        aGet (regsAt t w v) wt.d = BitVec.ofNat 64 (bufAddr y i % bankBytes) ∧
        (outPort (regsAt t w v) wt.port).got = (outPort (regsAt s w v) wt.port).got ++ [i] ∧ keeps t))

/-- R200, R201: arithmetic of the row registers. A lane is none where it is null. -/
def Obligations.PredicateArithmetic : Prop :=
  ∀ (s : State) (w : Fin 8) (p : Fin 12) (d a b : Fin 16) (k : Bool) (imm : Word),
    let x := fun (q : PWork) l => qGet q.q a l
    let y := fun (q : PWork) l => if k then some (predConst q.prog imm.toNat) else qGet q.q b l
    let both := fun (f : DWord → DWord → DWord) (q : PWork) l => (x q l).bind (fun u => (y q l).map (f u))
    let one := fun (f : DWord → DWord) (q : PWork) l => (x q l).map f
    let num := fun (u : DWord) => numOf fp64 u.toNat
    let near := fun (q : FNum) => BitVec.ofNat 64 (roundTo fp64 false q)
    let does := fun (c : Instr) (op : Nat) (g : PWork → Nat → Lane) => PredWrites s w p c op d a b k imm.toNat g
    does (.ldk w p d a b k imm) 0x02 (fun q _ => some (predConst q.prog imm.toNat)) ∧
    does (.ldnull w p d a b k imm) 0x03 (fun _ _ => none) ∧
    does (.mov w p d a b k imm) 0x04 x ∧
    does (.predAdd w p d a b k imm) 0x08 (both (fun u v => BitVec.ofNat 64 (u.toNat + v.toNat))) ∧
    does (.predSub w p d a b k imm) 0x09 (both (fun u v => BitVec.ofInt 64 ((u.toNat : Int) - v.toNat))) ∧
    does (.predMul w p d a b k imm) 0x0A (both (fun u v => BitVec.ofNat 64 (u.toNat * v.toNat))) ∧
    does (.band w p d a b k imm) 0x0B (both (fun u v => u &&& v)) ∧
    does (.bor w p d a b k imm) 0x0C (both (fun u v => u ||| v)) ∧
    does (.bxor w p d a b k imm) 0x0D (both (fun u v => u ^^^ v)) ∧
    does (.predShr w p d a b k imm) 0x0E (one (fun u => BitVec.ofNat 64 (u.toNat / 2 ^ imm.toNat))) ∧
    does (.predShl w p d a b k imm) 0x0F (one (fun u => BitVec.ofNat 64 (u.toNat * 2 ^ imm.toNat))) ∧
    does (.fadd w p d a b k imm) 0x10 (both (fun u v => near (numAdd (num u) (num v)))) ∧
    does (.fsub w p d a b k imm) 0x11 (both (fun u v => near (numAdd (num u) (numNeg (num v))))) ∧
    does (.fmul w p d a b k imm) 0x12 (both (fun u v => near (numMul (num u) (num v)))) ∧
    does (.itof w p d a b k imm) 0x13 (one (fun u => near (numOfInt u.toInt))) ∧
    does (.fabs w p d a b k imm) 0x14 (one (fun u => BitVec.ofNat 64 (u.toNat % 2 ^ 63))) ∧
    (∀ wk, PredAt s w p (predEncode 0x00 d a b k imm.toNat) wk → Completes (.predNop w p d a b k imm) s (fun t =>
      pressOf (wheelOf t w) p =
        { pressOf (wheelOf s w) p with work := some (predNext (pressOf (wheelOf s w) p).desc wk wk.q) } ∧
      OnlyPress s t w p))

/-- R200–R202: the comparisons. -/
def Obligations.PredicateComparisons : Prop :=
  ∀ (s : State) (w : Fin 8) (p : Fin 12) (d a b : Fin 16) (k : Bool) (imm : Word),
    let x := fun (q : PWork) l => qGet q.q a l
    let y := fun (q : PWork) l => if k then some (predConst q.prog imm.toNat) else qGet q.q b l
    let cmp := fun (r : DWord → DWord → Bool) (q : PWork) l =>
      (x q l).bind (fun u => (y q l).map (fun v => if r u v then (1 : DWord) else 0))
    let num := fun (u : DWord) => numOf fp64 u.toNat
    let does := fun (c : Instr) (op : Nat) (g : PWork → Nat → Lane) => PredWrites s w p c op d a b k imm.toNat g
    does (.eq w p d a b k imm) 0x18 (cmp (fun u v => decide (u = v))) ∧
    does (.ne w p d a b k imm) 0x19 (cmp (fun u v => decide (u ≠ v))) ∧
    does (.lt w p d a b k imm) 0x1A (cmp (fun u v => decide (u.toInt < v.toInt))) ∧
    does (.le w p d a b k imm) 0x1B (cmp (fun u v => decide (u.toInt ≤ v.toInt))) ∧
    does (.gt w p d a b k imm) 0x1C (cmp (fun u v => decide (v.toInt < u.toInt))) ∧
    does (.ge w p d a b k imm) 0x1D (cmp (fun u v => decide (v.toInt ≤ u.toInt))) ∧
    does (.ltu w p d a b k imm) 0x1E (cmp (fun u v => decide (u.toNat < v.toNat))) ∧
    does (.leu w p d a b k imm) 0x1F (cmp (fun u v => decide (u.toNat ≤ v.toNat))) ∧
    does (.feq w p d a b k imm) 0x20 (cmp (fun u v => numEq (num u) (num v))) ∧
    does (.fne w p d a b k imm) 0x21 (cmp (fun u v => numIsNan (num u) || numIsNan (num v) || !(numEq (num u) (num v)))) ∧
    does (.flt w p d a b k imm) 0x22 (cmp (fun u v => numLt (num u) (num v))) ∧
    does (.fle w p d a b k imm) 0x23 (cmp (fun u v => numLt (num u) (num v) || numEq (num u) (num v))) ∧
    does (.fgt w p d a b k imm) 0x24 (cmp (fun u v => numLt (num v) (num u))) ∧
    does (.fge w p d a b k imm) 0x25 (cmp (fun u v => numLt (num v) (num u) || numEq (num v) (num u))) ∧
    does (.between w p d a b k imm) 0x38 (fun q l => (x q l).map (fun u =>
      if (predConst q.prog imm.toNat).toInt ≤ u.toInt ∧ u.toInt ≤ (predConst q.prog (imm.toNat + 1)).toInt then 1 else 0)) ∧
    does (.fbetween w p d a b k imm) 0x39 (fun q l => (x q l).map (fun u =>
      if numLe (num (predConst q.prog imm.toNat)) (num u) ∧ numLe (num u) (num (predConst q.prog (imm.toNat + 1)))
      then 1 else 0))

/-- R201, R203: the logic and the column instructions. -/
def Obligations.PredicateLogic : Prop :=
  ∀ (s : State) (w : Fin 8) (p : Fin 12) (d a b : Fin 16) (k : Bool) (imm : Word),
    let x := fun (q : PWork) l => qGet q.q a l
    let y := fun (q : PWork) l => if k then some (predConst q.prog imm.toNat) else qGet q.q b l
    let col := fun (q : PWork) => nth (⟨[], []⟩ : ColData) q.cols a
    let val := fun (q : PWork) (l : Nat) => nth Val.null (col q).vals (64 * q.group + l)
    let code := fun (q : PWork) (l : Nat) => nth none (col q).codes (64 * q.group + l)
    let ctype := (((curdEntries (pressOf (wheelOf s w) p).desc)[a.val]?).map (·.ctype)).getD 0
    let does := fun (c : Instr) (op : Nat) (g : PWork → Nat → Lane) => PredWrites s w p c op d a b k imm.toNat g
    let strings := fun (f : List Byte → Prop) [DecidablePred f] (q : PWork) (l : Nat) =>
      match val q l with
      | .str bs => if f bs then some (1 : DWord) else some 0
      | _ => none
    does (.land w p d a b k imm) 0x28 (fun q l =>
      if x q l = some 0 ∨ y q l = some 0 then some 0 else if x q l = none ∨ y q l = none then none else some 1) ∧
    does (.lor w p d a b k imm) 0x29 (fun q l =>
      if (x q l ≠ none ∧ x q l ≠ some 0) ∨ (y q l ≠ none ∧ y q l ≠ some 0) then some 1
      else if x q l = none ∨ y q l = none then none else some 0) ∧
    does (.lnot w p d a b k imm) 0x2A (fun q l => (x q l).map (fun u => if u = 0 then 1 else 0)) ∧
    does (.isnull w p d a b k imm) 0x2B (fun q l => if x q l = none then some 1 else some 0) ∧
    does (.isnotnull w p d a b k imm) 0x2C (fun q l => if x q l = none then some 0 else some 1) ∧
    does (.istrue w p d a b k imm) 0x2D (fun q l => if x q l = none ∨ x q l = some 0 then some 0 else some 1) ∧
    does (.streq w p d a b k imm) 0x30 (fun q l => strings (fun bs => bs = predStr q.prog imm.toNat) q l) ∧
    does (.strpfx w p d a b k imm) 0x31 (fun q l => strings (fun bs => predStr q.prog imm.toNat <+: bs) q l) ∧
    does (.ldc w p d a b k imm) 0x01 (fun q l =>
      match val q l with
      | .null => none
      | .fixed v => some (BitVec.ofNat 64 (if imm = 2 then (code q l).getD 0 else valueView ctype v))
      | .str bs => some (BitVec.ofNat 64 (if imm = 1 then bs.length else if imm = 2 then (code q l).getD 0
          else if imm = 3 then crc32c bs else beNat (takePad 0 8 bs))))

/-- R196, R209–R212. `curdOuts` forms the streams of R194 and R206, `groupRun` runs the program on a group, `outObtain` asks for
the buffers of the groups done. -/
def Obligations.CurdAndCancel : Prop :=
  ∀ (s : State) (w : Fin 8) (p : Fin 12) (op : OpRef),
    let u := pressUnit p
    let e := pressOf (wheelOf s w) p
    let x := storeClean (wheelOf s w) u
    let n := curdGroups e.desc
    (∀ wk x1, e.op = some op → e.sub = 0 → e.fin = none → (e.st = .run ∨ e.st = .outWait) → e.pend = none → e.outs = [] →
      e.store ≠ 2 → e.cancel = none → e.work = some wk → wk.more = false → wk.fail = none → wk.limit = n → wk.group ≤ n →
      n ≤ wk.group + 1 → (wk.group = n → wk.ip = 0) → (wk.group < n → curdPredEn e.desc = true → wk.ip < predNinstr wk.prog) →
      (if wk.ip = 0 ∧ 0 < wk.group ∧ wk.group < n then outObtain x u (curdOutLens e.desc wk) else .ok (x, true)) = .ok (x1, true) →
      let wk' := if wk.group < n then groupRun e.desc wk else wk
      let outs := curdOuts x1 e wk'.cols wk'.sel
      let done := fun (q : Eng) => { q with st := (if wk.group < n then .run else q.st), work := some wk', outs := outs.map (·.2)
                                            regs := bump q.regs 2 (selIndices wk'.sel).length }
      outs.find? (fun o => outTooLong x1 e o.2) = none → canDeliver x1 u 4 done →
      Completes (.curd w p false) s (fun t => (pressOf (wheelOf t w) p).fin = some ⟨0, 0, 0xFFFF⟩ ∧
        (pressOf (wheelOf t w) p).work = some wk' ∧ (pressOf (wheelOf t w) p).outs = [] ∧
        PutsStreams s t w u e.outP (outs.map (·.2)) ∧ ∀ j, j ≠ w.val → wheelOf t j = wheelOf s j)) ∧
    (opCancelled s w e = true → e.op = some op → boundaryAhead e (pressGroups e) = true → e.cancel = none →
      (e.st = .run ∨ e.st = .inWait ∨ e.st = .outWait) →
      Completes (.pressCancel w p) s (fun t => (∀ j, j ≠ w.val → wheelOf t j = wheelOf s j) ∧
        if pressAtBoundary e = true then (pressOf (wheelOf t w) p).work = none ∧
          ∃ f : Ended, f.code = 0x0701 ∧ ((pressOf (wheelOf t w) p).fin = some f ∨
            ((pressOf (wheelOf t w) p).st = .drain ∧ (pressOf (wheelOf t w) p).pend = some f))
        else pressOf (wheelOf t w) p = { e with cancel := e.work.map (·.group) }))

/-- R251–R263, R226–R248: the seven operators. `opGroup` does the rows of a group, `opResult` what follows the last one. -/
def Obligations.PressOperators : Prop :=
  ∀ (s : State) (w : Fin 8) (p : Fin 12) (op : OpRef) (i : OpIn),
    let u := pressUnit p
    let e := pressOf (wheelOf s w) p
    let streams := fun (_ : Wheel) (r : OpRes) (t : State) => PutsFrom r.x t w u e.outP (r.outs.map (·.2))
    let table := fun (y : Wheel) (_ : OpRes) (t : State) =>
      (∀ k, k < 8 → rdByte 0 (wheelOf t w).cave (opTable e.desc + 0x18 + k) = BitVec.ofNat 8 ((i.base + i.rows) / 256 ^ k)) ∧
      ∀ a, a < opTable e.desc + 0x18 ∨ opTable e.desc + 0x20 ≤ a → rdByte 0 (wheelOf t w).cave a = rdByte 0 y.cave a
    let cave := fun (y : Wheel) (_ : OpRes) (t : State) => (wheelOf t w).cave = y.cave
    OpEnds s w p 1 (.feature w p) op i streams ∧ OpEnds s w p 2 (.build w p) op i table ∧
    OpEnds s w p 3 (.probe w p) op i streams ∧ OpEnds s w p 4 (.partition w p) op i streams ∧
    OpEnds s w p 5 (.agg w p) op i table ∧ OpEnds s w p 6 (.aggEmit w p) op i streams ∧
    OpEnds s w p 7 (.hll w p) op i cave

/-- R309–R315, R331. `bagBytes` is a bag's part of the output, `readUnit` reads the rows of a key, `normsBytes` the norm
records; `put` and `out` are the bytes put and those held for the next buffer. -/
def Obligations.PoolAndNorms : Prop :=
  ∀ (s : State) (w l : Fin 8) (op : OpRef) (b : BagBlk) (keys : List (Option Nat)),
    let e := ladleOf (wheelOf s w) l
    let c := ladleAcc e w l op.ctx
    let s0 := countEntries (ldlOn s w l (fun e => { e with st := .run })) w l b
    let s1 := if e.lw.put = 0 ∧ e.lw.out = [] then
        ldlOn s0 w l (fun e => { e with lw := { e.lw with out := poolHeader b.nbags b.base false } })
      else s0
    let rest := fun (u : State) (bag : List (Nat × List (List Byte))) =>
      (ldlOf u w l).lw.out ++ bagBytes e.desc (lTab e) b keys bag (ldlOf u w l).lw.bags
    let stream := fun (u : State) (bag : List (Nat × List (List Byte))) =>
      outStream (wheelOf u w) (ldlOf u w l) (lhOut e.desc) (rest u bag)
    let lastBag := fun (u : State) (bag : List (Nat × List (List Byte))) =>
      (ldlOf u w l).lw.bags + 1 = b.nbags ∧ rest u bag ≠ [] ∧ (ldlOf u w l).outs = [] ∧ (ldlOf u w l).held = [] ∧
      (ldlOf u w l).desc = e.desc ∧ poolTotal e.desc (lTab e) b = (ldlOf u w l).lw.put + (rest u bag).length ∧
      RoomFor (wheelOf u w) (ldlOf u w l) (stream u bag)
    let ends := fun (u t : State) (o : OutStream) => (ldlOf t w l).fin = some ⟨0, 0, 0⟩ ∧ (ldlOf t w l).outs = [] ∧
      PutsStreams u t w (ladleUnit l) (ldlOf u w l).outP [o] ∧ t.mesh = u.mesh ∧ ∀ j, j ≠ w.val → wheelOf t j = wheelOf u j
    LadleBags s w l b keys →
    (LadleFed s w l 1 op → e.lw.cancel = false → nth 0 b.offs b.nbags ≤ e.lw.pos → lastBag s1 e.lw.bag →
      Completes (.pool w l) s (fun t => ends s1 t (stream s1 e.lw.bag))) ∧
    (∀ k u, LadleFed s w l 1 op → e.lw.cancel = false → e.lw.pos < nth 0 b.offs (e.lw.bags + 1) →
      nth 0 b.offs b.nbags = e.lw.pos + 1 →
      nth none keys e.lw.pos = some k → e.lw.bag.any (fun q => q.1 == k) = false → e.lw.part.find? (fun q => q.1 == k) = none →
      e.lw.copies.find? (fun q => q.1 == k) = none → lhCopyMin e.desc = 0 →
      readUnit c b e.lw.pos ((unitRows (lTab e) k).drop e.lw.half.length) s1 = .next u →
      (ldlOf u w l).lw.pos = e.lw.pos → lastBag u (tset [] (ldlOf u w l).lw.bag k (ldlOf u w l).lw.half) →
      Completes (.pool w l) s (fun t => ends u t (stream u (tset [] (ldlOf u w l).lw.bag k (ldlOf u w l).lw.half)))) ∧
    (LadleFed s w l 3 op → (ladleBytes s w l (lhAux e.desc)).length = 4 * (lTab e).d * b.nbags →
      let o := ladleStream (wheelOf s w) e (normsBytes e.desc (lTab e) b keys (ladleBytes s w l (lhAux e.desc)))
      RoomFor (wheelOf s w) e o → Completes (.norms w l) s (fun t => ends s t o))

/-- R318, R319, R321, R330, R333, R334. `updateRow` and `rowWrite` write the row while its VERSION is odd. -/
def Obligations.RowWriters : Prop :=
  ∀ (s : State) (w l : Fin 8) (op : OpRef) (b : BagBlk) (keys : List (Option Nat)) (lk : Nat × Nat × Nat),
    let e := ladleOf (wheelOf s w) l
    let c := ladleAcc e w l op.ctx
    let s0 := ldlOn s w l (fun e => { e with st := .run })
    let sb := countEntries s0 w l b
    let n := 8 + rowBytes (lTab e)
    let g := ladleBytes s w l (lhAux e.desc)
    let aux2 := ladleBytes s w l (lhAux2 e.desc)
    let rec' := ((ladleBytes s w l (lhIn e.desc)).drop (n * e.lw.pos)).take n
    let row := leAt rec' 0 8
    let told := fun (t : State) (r : Nat) => ∀ v k, v < 8 → k < 8 → reachCode t w v = 0 → (ldlOf t v k).st ≠ .fenced →
      (ldlOf t v k).st ≠ .outOfService → MeshMsg.invalidate v k op.ctx (lTab e).table r (w.val * 8 + l.val) ∈ t.mesh
    let works := fun (u : State) => (wheelOf u w).svc = .inService ∧ (ldlOf u w l).st = .run
    let evens := fun (t : State) (code : Nat) => (ldlOf t w l).fin = some ⟨code, 0, 0⟩ ∧ (ldlOf t w l).lw.lock = none ∧
      (wheelOf t (paWheel lk.1)).mem = (wheelOf (devWrite s0 w lk.1 (leBytes 4 lk.2.1)).1 (paWheel lk.1)).mem
    (∀ s1 old s2, LadleFed s w l 4 op → e.lw.lock = none → e.lw.cancel = false → rec'.length = n → row < (lTab e).prows →
      rowRead c c.t.base row (lhForce e.desc) s0 = (s1, .ok old) →
      (rowWrite s1 c old row (rec'.drop 12) (fun s => (s, .ok ([], []))) = (s2, .held lk) → works s2 →
        Completes (.replace w l) s (fun t => t = rowHeld s2 w l lk ∧ told t row)) ∧
      (rowWrite s1 c old row (rec'.drop 12) (fun s => (s, .ok ([], []))) = (s2, .lost) →
        Completes (.replace w l) s (fun t => if (ldlOf s2 w l).lw.tries < 8 then (ldlOf t w l).st = .rowWait ∧
            (ldlOf t w l).lw.tries = (ldlOf s2 w l).lw.tries + 1 ∧ t.mesh = s2.mesh
          else FailsWith (ldlOf t w l) ⟨0x0408, 0, 0⟩))) ∧
    (LadleFed s w l 4 op → e.lw.lock = some lk → e.lw.cancel = false → invalPending s w l = false →
      (ladleBytes s w l (lhIn e.desc)).length = n * (e.lw.pos + 1) →
      Completes (.replace w l) s (fun t => evens t 0)) ∧
    (∀ k s1, LadleFed s w l 2 op → LadleBags s w l b keys → g.length = 4 * (lTab e).d * b.nbags →
      (lhOpt e.desc = 3 → normKeysOk keys aux2 = true) → e.lw.lock = none → e.lw.cancel = false →
      (touched keys)[e.lw.pos]? = some k →
      updateRow sb c e.desc k (gradOf e.desc c.t b keys g k) (leAt ((aux2.drop (16 * e.lw.pos)).take 16) 8 4)
        (leAt ((aux2.drop (16 * e.lw.pos)).take 16) 12 4) = (s1, .held lk) → works s1 →
      Completes (.update w l) s (fun t =>
        t = rowHeld (ldlBump s1 w l 3 ((keys.filter (· == some k)).length - 1)) w l lk ∧ told t k)) ∧
    (LadleFed s w l 2 op → LadleBags s w l b keys → g.length = 4 * (lTab e).d * b.nbags →
      (lhOpt e.desc = 3 → normKeysOk keys aux2 = true) → e.lw.lock = some lk → e.lw.cancel = false →
      invalPending s w l = false → (touched keys).length = e.lw.pos + 1 →
      Completes (.update w l) s (fun t => evens t (if e.lw.nonfin then 0x040C else 0)))

/-- R317 step 4, R322–R327, R334. -/
def Obligations.LadleEvents : Prop :=
  ∀ (s : State) (w l : Fin 8) (op : OpRef),
    let e := ladleOf (wheelOf s w) l
    let s0 := ldlOn s w l (fun e => { e with st := .run })
    let others := fun (t : State) => ∀ j, j ≠ w.val → wheelOf t j = wheelOf s j
    (e.op = some op → e.st = .rowWait → e.fin = none → Completes (.rowRetryWaitExpiry w l) s (fun t =>
      (lhMode e.desc = 1 → exec (.pool w l) s0 = .next t) ∧ (lhMode e.desc = 2 → exec (.update w l) s0 = .next t) ∧
      (lhMode e.desc = 3 → exec (.norms w l) s0 = .next t) ∧ (lhMode e.desc = 4 → exec (.replace w l) s0 = .next t))) ∧
    (e.op = some op → Completes (.copyInvalidation w l) s (fun t =>
      (∀ m ∈ t.mesh, ∀ c tb r src, m ≠ .invalidate w l c tb r src) ∧
      (∀ m ∈ s.mesh, (∀ c tb r src, m ≠ .invalidate w l c tb r src) → m ∈ t.mesh) ∧
      (∀ cp, cp ∈ (ldlOf t w l).lw.copies ↔ cp ∈ e.lw.copies ∧
        ∀ r src, r ∈ cp.2.1 → MeshMsg.invalidate w l op.ctx (lTab e).table r src ∉ s.mesh) ∧ others t)) ∧
    (opCancelled s w e = true → e.op = some op → e.fin = none → e.st ≠ .check → e.st ≠ .drain → e.st ≠ .fenced →
      e.st ≠ .outOfService →
      Completes (.ladleCancel w l) s (fun t => others t ∧
        (if e.lw.lock.isSome ∨ e.st = .rowWait then ldlOf t w l = { e with lw := { e.lw with cancel := true } }
         else FailsWith (ldlOf t w l) ⟨0x0701, 0, 0⟩))) ∧
    (∀ p r, (wheelOf s w).ldl.samples = p :: r → Completes (.ldlSampleRead w) s (fun t =>
      (wheelOf t w).ldl.samples = r ∧ (wheelOf t w).ldl.sampleCtx = p.ctx ∧ others t ∧
      t.rdVal = BitVec.ofNat 64 (2 ^ 63 + p.table * 2 ^ 47 + p.row % 2 ^ 40))) ∧
    (∀ (die : Fin 2) (base : Fin 1099511627776) (size : Fin 137438953472),
      let ws := (upto 4).map (4 * die.val + ·)
      let total := (ws.map (periodLoad s)).foldl (· + ·) 0
      let busy := ws.foldl (fun b w => if periodLoad s b < periodLoad s w then w else b) (4 * die.val)
      let idle := ws.foldl (fun b w => if periodLoad s w < periodLoad s b then w else b) (4 * die.val)
      let latched := fun (t : State) => ∀ j ∈ ws, (wheelOf t j).ldl.lastLoad = regGet (wheelOf s j).ldl.regs 0x040
      let s1 := ws.foldl (fun s w => onWheel s w (fun x =>
        { x with ldl := { x.ldl with lastLoad := regGet x.ldl.regs 0x040 } })) s
      let s2 := onWheel s1 busy (fun x => { x with ldl := { x.ldl with samples := [] } })
      let pa := base.val + (wheelOf s idle).ldl.poolUsed
      let rb := fun (p : Sample) => (p.home.map (·.2)).foldl (· + ·) 0
      ((s.migrEn = false ∨ periodLoad s busy * 400 ≤ total * (100 + s.migrImbal)) →
        Completes (.migrationPeriod die base size) s (fun t => latched t ∧ t.migs = s.migs ∧
          ∀ j, (wheelOf t j).mem = (wheelOf s j).mem ∧ (wheelOf t j).ldl.samples = (wheelOf s j).ldl.samples)) ∧
      (∀ p u, s.migrEn = true → total * (100 + s.migrImbal) < periodLoad s busy * 400 →
        (wheelOf s idle).ldl.stopped = false →
        (hotRows ((wheelOf s busy).ldl.samples.filter (fun p => p.ok && paWheel (headAddr p.home) == busy &&
          !(isMigrated s p)))).take 32 = [p] →
        (wheelOf s idle).ldl.poolUsed + rb p ≤ size.val → migrateRow s2 busy idle pa p = (u, true) → u.migs ≠ s.migs →
        Completes (.migrationPeriod die base size) s (fun t => t = u ∧ latched t ∧
          t.migs = s.migs ++ [⟨p.ctx, p.table, p.row, p.home, pa, rb p⟩] ∧
          (wheelOf t idle).ldl.poolUsed = (wheelOf s idle).ldl.poolUsed + rb p)))

/-- R347–R369. `gResult` orders, cuts and counts the entries; `gOutBytes` is the list with its header. -/
def Obligations.GraderOperations : Prop :=
  ∀ (s : State) (w : Fin 8) (g : Fin 4) (op : OpRef),
    let x := wheelOf s w
    let e := graderOf x g
    let es := (gInput e).1
    let r := gResult e.desc es
    let o := outStream x e (gOut e.desc) (gOutBytes e.desc r)
    let others := fun (t : State) => ∀ j, j ≠ w.val → wheelOf t j = wheelOf s j
    let ends := fun (t : State) =>
      (graderOf (wheelOf t w) g).fin = some ⟨0, 0, if gMode e.desc = 3 ∧ gDistinct e.desc then r.distinct else 0⟩ ∧
      (graderOf (wheelOf t w) g).outs = [] ∧ PutsStreams s t w (graderUnit g) e.outP [o] ∧ others t
    let ready := fun (m : Nat) => gMode e.desc = m ∧ EngFed e op (gNeeds e) ∧ firstFail (gInput e).2 = none ∧ RoomFor x e o
    (ready 1 → Completes (.sort w g) s ends) ∧ (ready 2 → Completes (.select w g) s ends) ∧
    (ready 3 → Completes (.merge w g) s ends) ∧
    (opCancelled s w e = true → e.op = some op → e.fin = none → e.st ≠ .check → e.st ≠ .drain → e.st ≠ .fenced →
      e.st ≠ .outOfService → Completes (.graderCancel w g) s (fun t => others t ∧
        FailsWith (graderOf (wheelOf t w) g) ⟨0x0701, 0, 0xFFFFFFF⟩))

/-- R384–R388, R404. `armChecks` are the checks of an arm, in order. -/
def Obligations.StreamLife : Prop :=
  ∀ (s : State) (w : Fin 8) (c : Fin 128) (own : Owner) (addr flow : Nat),
    let y := (wheelOf s w).whey
    let ch := chOf s w c
    let s1 := onWhey s w (fun y => { y with arms := y.arms.erase (own, c.val, addr, flow) })
    let host := hostArmed { ch with own := some own }
    (∀ p, y.arms.find? (fun a => a.2.1 == c.val) = some (own, c.val, addr, flow) → y.st = 0 → ch.st = .idle →
      armChecks s1 w c (ownerCtx own) addr host = .ok p →
      Completes (.streamArm w c) s (fun t => (chOf t w c).st = .run ∧ (chOf t w c).own = some own ∧
        (chOf t w c).sd = p.sd ∧ (chOf t w c).src = p.src ∧ (chOf t w c).dst = p.dst ∧ (chOf t w c).out = p.out ∧
        (chOf t w c).pos = 0 ∧ (chOf t w c).ctx = ownerCtx own ∧
        (wheelOf t w).whey.arms = y.arms.erase (own, c.val, addr, flow) ∧
        ∀ h ∈ p.cons, (hoopOf (wheelOf t w) h).cons = some (chUnit c))) ∧
    (y.arms.find? (fun a => a.2.1 == c.val) = some (own, c.val, addr, flow) → y.st = 0 → ch.st ≠ .idle →
      Completes (.streamArm w c) s (fun t => chOf t w c = ch ∧
        (wheelOf t w).whey.dones = y.dones ++ [⟨c, own, 0x0603, 0, 0, 0⟩])) ∧
    (chCancelled s w ch = true → ch.st ≠ .idle → ch.st ≠ .ending → ch.st ≠ .fenced →
      Completes (.streamCancel w c) s (fun t => StreamFailed t w c 0x0701)) ∧
    (ch.own = some own → ch.st = .ending → streamSettled s w c = true →
      Completes (.streamComplete w c) s (fun t => (chOf t w c).st = .idle ∧ (chOf t w c).own = none ∧
        (wheelOf t w).whey.dones = y.dones ++ [⟨c, own, ch.code, ch.pos, ch.puts, ch.value⟩] ∧
        (∀ h, (hoopOf (wheelOf t w) h).cons ≠ some (chUnit c) ∧ (hoopOf (wheelOf t w) h).prod ≠ some (chUnit c))))

/-- R386–R393: one request of 256 bytes. `srcUnit` and `dstUnit` are the two sides of one unit. -/
def Obligations.StreamData : Prop :=
  ∀ (s : State) (w : Fin 8) (c : Fin 128),
    let ch := chOf s w c
    let d := chSrcD ch
    (ch.st = .run ∧ ch.ats = false ∧ ch.uncorr = false ∧ (wheelOf s w).whey.st = 0) →
    (∀ h a n, sdSrcKind ch.sd = 1 → sdDstKind ch.sd = 0 → ch.out = .hoop h → ch.fill = some (a, n) →
      n + 256 ≤ sdBufBytes ch.sd → 256 ≤ ch.inBuf.length → reachCode s w w = 0 →
      Completes (.streamDataReturn w c) s (fun t =>
        (∀ i, i < 256 → rdByte 0 (wheelOf t w).cave (a + n + i) = ch.inBuf.getD i 0) ∧
        (∀ p, p < a + n ∨ a + n + 256 ≤ p → rdByte 0 (wheelOf t w).cave p = rdByte 0 (wheelOf s w).cave p) ∧
        (chOf t w c).inBuf = ch.inBuf.drop 256 ∧ (chOf t w c).fill = some (a, n + 256) ∧
        (chOf t w c).pos = ch.pos + 256 ∧ (chOf t w c).st = .run ∧ ∀ j, j ≠ w.val → wheelOf t j = wheelOf s j)) ∧
    (∀ s1 bs s2 r, sdSrcKind ch.sd = 0 → sdDstKind ch.sd = 2 → sdIxs ch.sd = false → ch.out = .mem →
      ch.pos < descCount d → descCount d ≤ ch.pos + unitElems d → bs.length < 256 →
      srcUnit s w c d ch.pos = .ok s1 bs → dstUnit s1 w c (chDstD ch) ch.pos bs = .ok s2 r →
      Completes (.streamDataReturn w c) s (fun t => (chOf t w c).st = .ending ∧
        (chOf t w c).pos = ch.pos + unitElems d ∧ (chOf t w c).value = ch.pos + unitElems d ∧
        (∀ j, (wheelOf t j).mem = (wheelOf s2 j).mem ∧ (wheelOf t j).hoops = (wheelOf s2 j).hoops) ∧
        t.hosts = s2.hosts))

/-- R399–R402. -/
def Obligations.StreamTranslation : Prop :=
  ∀ (s : State) (w : Fin 8) (c : Fin 128) (port : Fin 2) (ctx : Fin 1024),
    let ch := chOf s w c
    let mine := wheelVisible s port w = true ∧ ch.st = .faulted ∧ ch.ctx = ctx ∧ (ctxOf s ctx).owner = port ∧
      (ctxOf s ctx).st ≠ .free
    (∀ s1 pa size r wr, ch.st = .walk →
      pageWalk s w ch.ctx ch.missAddr ch.missRead ch.missWrite = (s1, .page pa size r wr) →
      Completes (.pageWalkComplete w c) s (fun t =>
        chOf t w c = setRun { ch with st := .run } ch.missDst (some ⟨ch.missAddr / size * size, size, pa, r, wr⟩))) ∧
    (∀ s1 o, ch.st = .walk → pageWalk s w ch.ctx ch.missAddr ch.missRead ch.missWrite = (s1, o) →
      (o = .notPresent ∨ o = .refused) → Completes (.pageWalkComplete w c) s (fun t => (chOf t w c).st = .faulted ∧
        (chOf t w c).faultAddr = ch.missAddr ∧ (chOf t w c).faultWrite = ch.missWrite ∧ (chOf t w c).pos = ch.pos)) ∧
    (mine → Completes (.chCtrlResume port w c ctx) s (fun t => chOf t w c = { ch with st := .run } ∧ OnlyChan s t w c)) ∧
    (mine → Completes (.chCtrlAbort port w c ctx) s (fun t => StreamFailed t w c 0x0604)) ∧
    (∀ (addr : Fin 144115188075855872) (log2 : Fin 64) (rd wr : Bool),
      let size := 2 ^ max 12 (min 21 log2.val)
      let run : Run := ⟨ch.missAddr / size * size, size, addr.val / size * size, rd, wr⟩
      ch.st = .run → ch.ats = true → runAllows run ch.missRead ch.missWrite = true →
      Completes (.atsTranslationCompletion w c true addr log2 rd wr) s (fun t =>
        chOf t w c = setRun { ch with ats := false } ch.missDst (some run) ∧ OnlyChan s t w c)) ∧
    (∀ (code : Fin 16), ch.st = .priWait → Completes (.prgResponse w c code) s (fun t =>
      if code.val = 0 then chOf t w c = { ch with st := .run, ats := true } ∧ OnlyChan s t w c
      else StreamFailed t w c 0x0605)) ∧
    (∀ (base size : Fin 18446744073709551616) (tag : Fin 32),
      Completes (.atsInvalidateRequest port base size tag) s (fun t =>
        chOf t w c = dropRuns ch port base size ∧ t.out = s.out ++ [Out.invalDone port tag] ∧
        (wheelOf t w).cave = (wheelOf s w).cave))

/-- R394, R396, R397, R697. `dripRun` carries one drip operation out. -/
def Obligations.Drips : Prop :=
  ∀ (s : State) (w : Fin 8),
    let y := (wheelOf s w).whey
    let s1 := fun (r : List Drip) => onWhey s w (fun y => { y with drips := r })
    (∀ (ok : Bool) (hpa : Fin 144115188075855872) d r, y.drips = d :: r → y.st = 0 →
      let o := dripRun (s1 r) w d.ctx d.record ok hpa
      Completes (.dripOperation w ok hpa) s (fun t => (wheelOf t w).whey.drips = r ∧
        (wheelOf t w).whey.dones = y.dones ++ [⟨0xFF, d.own, o.2, 0, 0, 0⟩] ∧
        (∀ j, (wheelOf t j).mem = (wheelOf o.1 j).mem ∧ (wheelOf t j).cave = (wheelOf s j).cave) ∧
        t.hosts = o.1.hosts)) ∧
    (∀ (ok : Bool) (hpa : Fin 144115188075855872) d r bs, y.drips = d :: r → y.st = 0 → dripCheck d.record = 0 →
      dripSrcSpace d.record = 1 → dripDstSpace d.record = 2 → (portOf s 0).ats = false →
      caveRangeOk (wheelOf s w) (dripSrc d.record) (dripLen d.record) = true →
      caveUncorr (wheelOf s w) (dripSrc d.record) (dripLen d.record) = false →
      bs = caveRead (wheelOf s w) (dripSrc d.record) (dripLen d.record) →
      ∀ u, hostWrite s 0 (dripDst d.record) bs = some u → Completes (.dripOperation w ok hpa) s (fun t =>
        (wheelOf t w).whey.dones = y.dones ++ [⟨0xFF, d.own, 0, 0, 0, 0⟩] ∧ t.hosts = u.hosts)) ∧
    (∀ c src h a, s.mesh.find? (creditFor s w) = some (.credit w c src h a) →
      let ch := chOf s w c
      (ch.out = .rhoop src h → ch.st = .creditWait → Completes (.dripCreditMessage w) s (fun t =>
        t.mesh = s.mesh.erase (.credit w c src h a) ∧
        chOf t w c = { ch with credits := ch.credits ++ [a], st := .run })) ∧
      (ch.st = .idle → Completes (.dripCreditMessage w) s (fun t =>
        t.mesh = s.mesh.erase (.credit w c src h a) ∧ (hoopOf (wheelOf t src) h).free =
          (hoopOf (wheelOf s src) h).free ++ [bufIndex (hoopOf (wheelOf s src) h) a]))) ∧
    (∀ v h hd, s.mesh.find? (putFor s w) = some (.put w v h hd) → (wheelOf s w).svc = .inService →
      Completes (.dripPutMessage w) s (fun t => t.mesh = s.mesh.erase (.put w v h hd) ∧
        hoopOf (wheelOf t w) h = { hoopOf (wheelOf s w) h with q := (hoopOf (wheelOf s w) h).q ++ [hd] } ∧
        (wheelOf t w).cave = (wheelOf s w).cave))

/-- R418–R425, R434. `markReady` takes the ready times of the clock, `pickUnit` names the unit. -/
def Obligations.OperandsAndDispatch : Prop :=
  ∀ (s : State) (w : Fin 8) (x : Fin 1024) (opid : Fin 16777216) (slot : Fin 16) (iter : Fin 65536) (o : OpRec),
    let r := rnt s w
    let tk : Token := ⟨x, opid, slot, iter⟩
    (∀ m, s.mesh.find? (tokenFor s w x opid slot iter) = some m → r.st = 0 → TokenFits r o x opid slot iter → Completes (.tokenArrival w x opid slot iter) s (fun t =>
      t.mesh = s.mesh.erase m ∧ OperandStored r (rnt t w) o x opid slot iter ∧
      (wheelOf t w).cave = (wheelOf s w).cave)) ∧
    (r.st = 0 → r.tokq = [tk] → (∀ p ∈ r.passes, p.toOpen = []) → submitWaits s w = false →
      TokenFits r o x opid slot iter → Completes (.operandStoreResume w) s (fun t =>
        (rnt t w).tokq = [] ∧ OperandStored r (rnt t w) o x opid slot iter)) ∧
    (∀ i u, r.st = 0 → r.storeBad = [] →
      let c0 : RCtx := { x := wheelOf s w, w := w }
      let c1 := if operandWaits s w then rRegs c0 (fun g => bump g 5 1) else c0
      let c := markReady (storeFail (rRegs c1 (fun g => bump g 7 1)))
      let op := opRefOf o i c.x.rnt.nextDisp
      let a := vatOf (wheelOf s w) u.idx
      ranked c.x = [(o, i)] → findInst c.x.rnt i.ctx i.opid i.iter = some i → i.st = .waiting → 1 ≤ o.cls → o.cls ≤ 6 →
      pickUnit c.x w false o i = some u → recordOk (wheelOf s w) o = true →
      Completes (.dispatch w) s (fun t =>
        findInst (rnt t w) i.ctx i.opid i.iter = some { i with st := .service u c.x.rnt.nextDisp } ∧
        (o.cls = 1 → (vatOf (wheelOf t w) u.idx).op = some op ∧ (vatOf (wheelOf t w) u.idx).record = o.addr ∧
          (vatOf (wheelOf t w) u.idx).started = false ∧ (vatOf (wheelOf t w) u.idx).prog = a.prog) ∧
        (2 ≤ o.cls → o.cls ≤ 4 → engOf (wheelOf t w) u = startEng (wheelOf s w) (engOf (wheelOf s w) u) o op) ∧
        (o.cls = 5 → (wheelOf t w).whey.arms = (wheelOf s w).whey.arms ++
          [(.inst op, o.target, bits (leNat (caveRead (wheelOf s w) (o.addr + 64) 4)) 26 0, o.flow)]) ∧
        (o.cls = 6 → (wheelOf t w).whey.drips = (wheelOf s w).whey.drips ++
          [⟨.inst op, i.ctx, o.flow, caveRead (wheelOf s w) (o.addr + 64) 32⟩])))

/-- R431, R433, R434. -/
def Obligations.EngineCompletion : Prop :=
  ∀ (s : State) (w : Fin 8) (op : OpRef) (i : Inst) (o : OpRec) (f : Ended),
    let x := wheelOf s w
    InService x.rnt op i o → mayComplete s w op f.code = true →
    (∀ (v : Fin 32), (vatOf x v).op = some op → (vatOf x v).fin = some f → (vatOf x v).closed = true →
      Completes (.engineCompletion w 1 ⟨v, by omega⟩) s (fun t =>
        (vatOf (wheelOf t w) v).st = .idle ∧ (vatOf (wheelOf t w) v).op = none ∧ (vatOf (wheelOf t w) v).fin = none ∧
        Counted x.rnt (rnt t w) op o f.code)) ∧
    (∀ (cls : Fin 7) (k : Fin 12), 2 ≤ cls.val → cls.val ≤ 4 → (cls.val = 3 → k.val < 8) → (cls.val = 4 → k.val < 4) →
      let u : UnitId := ⟨cls, k⟩
      (engOf x u).op = some op → (engOf x u).fin = some f → putsOpen x u = false → (engOf x u).outs = [] →
      (engOf x u).st ≠ .fenced → Completes (.engineCompletion w cls ⟨k, by omega⟩) s (fun t =>
        (engOf (wheelOf t w) u).st = .idle ∧ (engOf (wheelOf t w) u).op = none ∧ (engOf (wheelOf t w) u).fin = none ∧
        Counted x.rnt (rnt t w) op o f.code)) ∧
    (∀ (k : Fin 128) d, d.own = .inst op → d.code = f.code →
      ((d.chan = k.val ∧ x.whey.dones = [d] →
        Completes (.engineCompletion w 5 k) s (fun t => (wheelOf t w).whey.dones = [] ∧
          Counted x.rnt (rnt t w) op o f.code)) ∧
       (d.chan = 0xFF ∧ x.whey.dones = [d] →
        Completes (.engineCompletion w 6 k) s (fun t => (wheelOf t w).whey.dones = [] ∧
          Counted x.rnt (rnt t w) op o f.code))))

/-- R431, R432, R439, R444, R461. -/
def Obligations.LayersAndRennetRegisters : Prop :=
  ∀ (s : State) (w : Fin 8) (x : Fin 1024) (iter layer : Fin 65536) (port : Fin 2) (word : Word),
    let n := layer.val
    (∀ p q v, planOf s x = some p → layerDone s p w x iter n = true → findPass (rnt s w) x iter = some q →
      v ∈ partWheels p → v ≠ w.val → (iter.val, n, v) ∉ p.reports →
      Completes (.layerClosureReport w x iter layer) s (fun t =>
        planOf t x = some { p with reports := p.reports ++ [(iter.val, n, w.val)] } ∧
        findPass (rnt t w) x iter = some { q with closed := n + 1 })) ∧
    (∀ p q, planOf s x = some p → layerDone s p w x iter n = true → findPass (rnt s w) x iter = some q →
      partWheels p = [w.val] → p.nmod = 1 → p.lmod = 0 → p.reports = [] → p.notices = [] → recRoom s x = true →
      (layerOf p n).restart = false → n + 1 < p.layers.length →
      Completes (.layerClosureReport w x iter layer) s (fun t =>
        t.mesh = s.mesh ++ [.release w w x iter (n + 1)] ∧ findPass (rnt t w) x iter = some { q with closed := n + 1 })) ∧
    (∀ q m, s.mesh.find? (releaseFor s w x iter n) = some m → findPass (rnt s w) x iter = some q →
      Completes (.layerRelease w x iter layer) s (fun t => t.mesh = s.mesh.erase m ∧
        findPass (rnt t w) x iter = some { q with released := max q.released n } ∧ ∀ j, j ≠ w.val → wheelOf t j = wheelOf s j)) ∧
    (wheelVisible s port w = true → Completes (.flowSelWrite port w word) s (fun t =>
      (rnt t w).flowSel = bits word.toNat 10 0 ∧
      (bitAt word.toNat 31 = true → flowOf (rnt t w) (bits word.toNat 10 0) =
        { flowOf (rnt s w) (bits word.toNat 10 0) with dispatched := 0, completed := 0, cancelled := 0, failed := 0 }) ∧
      (bitAt word.toNat 31 = false → (rnt t w).flows = (rnt s w).flows) ∧ (rnt t w).insts = (rnt s w).insts)) ∧
    (wheelVisible s port w = true → bitAt (portOf s port).accept 3 = true →
      let lg := bits word.toNat 4 0
      Completes (.traceCtrlWrite port w word) s (fun t =>
        bits (regGet (rnt t w).regs 0x028) 15 8 = bits word.toNat 15 8 ∧ bits (regGet (rnt t w).regs 0x028) 4 0 = lg ∧
        (bitAt (regGet (rnt t w).regs 0x028) 31 = true ↔ bitAt word.toNat 31 = true ∧ 12 ≤ lg ∧ lg ≤ 30 ∧
          regGet (rnt s w).regs 0x030 % 2 ^ lg = 0)))

/-- R271–R289. -/
def Obligations.MouldCommands : Prop :=
  ∀ (s : State) (w : Fin 8),
    let m := (wheelOf s w).mld
    let others := fun (t : State) => ∀ j, j ≠ w.val → wheelOf t j = wheelOf s j
    (∀ (share : Fin 5) (ctx : Fin 1024) (key : BitVec 128), CleanEntries m share ctx →
      (m.entries.map (·.1)).Pairwise (· < ·) →
      (∀ i e, Wins m share ctx key i e → Completes (.mouldSearch w share ctx key) s (fun t =>
        (wheelOf t w).mld.resp = some (.hit i e.cres) ∧ (wheelOf t w).mld.entries = m.entries ∧ others t)) ∧
      ((∀ p ∈ m.entries, inRanges (searchRanges m share ctx) p.1 = true → entryMatches key p.2 = false) →
        Completes (.mouldSearch w share ctx key) s (fun t =>
          (wheelOf t w).mld.resp = some .miss ∧ (wheelOf t w).mld.entries = m.entries ∧ others t))) ∧
    (∀ i r, m.upds = .unpoison i :: r → Completes (.mouldUpdate w) s (fun t =>
      (wheelOf t w).mld.upds = r ∧ (mEntry (wheelOf t w).mld i).poison = false ∧
      (mEntry (wheelOf t w).mld i).valid = true ∧ (mEntry (wheelOf t w).mld i).cres = (mEntry m i).lres ∧
      (mEntry (wheelOf t w).mld i).key = (mEntry m i).lkey &&& (mEntry m i).lmask ∧
      (mEntry (wheelOf t w).mld i).mask = (mEntry m i).lmask ∧
      (∀ k, k ≠ i → mEntry (wheelOf t w).mld k = mEntry m k) ∧ others t)) ∧
    (∀ key mask res r, m.upds = .install key mask res m.swept none :: r → (∀ sw ∈ m.sweeps, sw.share ≠ 0) →
      0 < shareSize m 0 → Completes (.mouldUpdate w) s (fun t =>
        let i := m.rr % shareSize m 0
        (wheelOf t w).mld.upds = r ∧ (wheelOf t w).mld.rr = (m.rr + 1) % shareSize m 0 ∧
        (mEntry (wheelOf t w).mld i).key = key &&& mask ∧ (mEntry (wheelOf t w).mld i).mask = mask ∧
        (mEntry (wheelOf t w).mld i).cres = res ∧ (mEntry (wheelOf t w).mld i).valid = true ∧
        (∀ k, k ≠ i → mEntry (wheelOf t w).mld k = mEntry m k) ∧ others t)) ∧
    (∀ sw r, m.sweeps = sw :: r → Completes (.mouldSweep w) s (fun t =>
      (wheelOf t w).mld.sweeps = r ∧ others t ∧
      ∀ p, p ∈ (wheelOf t w).mld.entries ↔ p ∈ m.entries ∧
        ¬ ((∀ q, sw.range = some q → q.1 ≤ p.1 ∧ p.1 < q.1 + q.2) ∧ shareLo m sw.share ≤ p.1 ∧ p.1 < shareLo m sw.share + shareSize m sw.share ∧ p.2.valid = true ∧
          (p.2.ckey ^^^ sw.key) &&& sw.care = 0))) ∧
    (let e := mEntry m m.scrub
     m.upds = [] → e.copyBad = 0 → Completes (.mouldScrub w) s (fun t =>
      (wheelOf t w).mld.scrub = (m.scrub + 1) % 2048 ∧
      (mEntry (wheelOf t w).mld m.scrub).key = e.ckey ∧ (mEntry (wheelOf t w).mld m.scrub).mask = e.cmask ∧
      (mEntry (wheelOf t w).mld m.scrub).cres = e.cres ∧ (mEntry (wheelOf t w).mld m.scrub).valid = e.cvalid ∧
      (∀ k, k ≠ m.scrub → mEntry (wheelOf t w).mld k = mEntry m k) ∧ others t))

/-- R551, R554, R555, R558. -/
def Obligations.MemoryController : Prop :=
  ∀ (s : State) (w : Fin 8),
    let m := (wheelOf s w).mem
    let others := fun (t : State) => ∀ j, j ≠ w.val → wheelOf t j = wheelOf s j
    (∀ (off : Fin 137438953472) (data : BitVec 256) (crc : Fin 6), (m.st = 0 ∨ m.st = 3) →
      let a := off.val % backedBytes s / 32 * 32
      (crc.val < 5 → Completes (.memoryAccess w off true data crc) s (fun t =>
        (∀ k, k < 32 → rdByte 0 (wheelOf t w).mem.cells (a + k) = (leBytes 32 data.toNat).getD k 0) ∧
        (∀ p, p < a ∨ a + 32 ≤ p → rdByte 0 (wheelOf t w).mem.cells p = rdByte 0 m.cells p) ∧
        sectorState (wheelOf t w).mem a = 0 ∧ a ∉ (wheelOf t w).mem.crcFail ∧ others t)) ∧
      (crc.val < 5 → Completes (.memoryAccess w off false data crc) s (fun t =>
        (wheelOf t w).mem.cells = m.cells ∧ (wheelOf t w).mem.bad = m.bad ∧ a ∉ (wheelOf t w).mem.crcFail ∧ others t)) ∧
      (∀ wr, crc.val = 5 → Completes (.memoryAccess w off wr data crc) s (fun t =>
        (wheelOf t w).mem.cells = m.cells ∧ a ∈ (wheelOf t w).mem.crcFail ∧ others t))) ∧
    Completes (.refresh w) s (fun t => t = s) ∧ Completes (.retune w) s (fun t => t = s) ∧
    (∀ (hot : BitVec 8), Completes (.temperatureRead w hot) s (fun t =>
      (wheelOf t w).mem = { m with hot := hot.toNat } ∧ others t)) ∧
    (m.st = 0 → Completes (.scrubSector w) s (fun t =>
      (wheelOf t w).mem.scrub = (if m.scrub + 32 < backedBytes s then m.scrub + 32 else 0) ∧
      (wheelOf t w).mem.cells = m.cells ∧
      (sectorState m m.scrub = 1 → m.scrub ∉ m.crcFail → sectorState (wheelOf t w).mem m.scrub = 0) ∧
      (∀ a, a / 32 ≠ m.scrub / 32 → sectorState (wheelOf t w).mem a = sectorState m a) ∧ others t))

/-- R526–R533. -/
def Obligations.CommandsAndRecords : Prop :=
  ∀ (s : State) (x : Fin 1024) (seq : Nat) (h : HCmd),
    RingReady s x h →
    (CmdReady s x seq 0x00 h → Completes (.hostNop x seq) s (fun t => RecordWritten s t x seq 0 0 ∧ t.wheels = s.wheels)) ∧
    (CmdReady s x seq 0x01 h → earlierCmds s x h = [] →
      Completes (.fence x seq) s (fun t => RecordWritten s t x seq 0 0 ∧ t.wheels = s.wheels)) ∧
    (∀ p, CmdReady s x seq 0x07 h → planOf s x = some p → Completes (.reopen x seq) s (fun t =>
      RecordWritten s t x seq 0 0 ∧
      (∀ f ∈ namedFlows p h, (flowOf (rnt t f.1) f.2).st =
        (if (flowOf (rnt s f.1) f.2).st = .cancelled ∨ (flowOf (rnt s f.1) f.2).st = .failed then .openF
         else (flowOf (rnt s f.1) f.2).st)) ∧
      (∀ w e, (∀ f ∈ namedFlows p h, f.1 = w → f.2 % 2048 ≠ e % 2048) →
        flowOf (rnt t w) e = flowOf (rnt s w) e) ∧
      ∀ w, (wheelOf t w).cave = (wheelOf s w).cave ∧ (wheelOf t w).mem = (wheelOf s w).mem)) ∧
    (CmdReady s x seq 0x10 h →
      let s1 := startCmd s x h
      let vf := fwCheck s1
      let vc := culCheck (noteVerify s1 vf 0)
      Completes (.flashVerify x seq) s (fun t => t.cul.flash = s.cul.flash ∧ t.wheels = s.wheels ∧
        (if vf.code ≠ 0 then RecordWritten s t x seq vf.code (vf.at_ * 2 ^ 32)
         else RecordWritten s t x seq vc.code (if vc.code = 0 then 0 else vc.at_ * 2 ^ 32 + 1))))

/-- R433, R457–R467, R530. -/
def Obligations.PlanCommands : Prop :=
  ∀ (s : State) (x : Fin 1024) (seq : Nat) (h : HCmd),
    let s1 := startCmd s x h
    (∀ s4 m, CmdReady s x seq 0x02 h → loadChecks s1 x (cmdP h 0) (cmdP h 1) = (s4, .ok m) →
      Completes (.load x seq) s (fun t => CmdGone t x seq ∧ t.wheels = (install s4 x (cmdP h 0) m).wheels ∧
        ∃ p, planOf t x = some p ∧ p.hash = sha512 m.b ∧ p.wmap = m.wmap ∧ p.nodes = m.nodes ∧ p.image = cmdP h 0)) ∧
    (∀ p, CmdReady s x seq 0x03 h → planOf s x = some p → ctxQuiet (cancelCtx s1 x) x = true →
      Completes (.unload x seq) s (fun t => CmdGone t x seq ∧ planOf t x = none ∧
        ∀ w ∈ partWheels p, (∀ o ∈ (rnt t w).ops, o.ctx ≠ x) ∧ (∀ y ∈ (wheelOf t w).hoops, y.2.owner ≠ some x.val))) ∧
    (∀ p u, CmdReady s x seq 0x04 h → planOf s x = some p →
      resumePlan s1 x (bits (cmdP h 0) 15 0) (bits (cmdP h 0) 31 16) (cmdP h 1) = (u, 0) →
      Completes (.resume x seq) s (fun t => CmdGone t x seq ∧
        ∀ w ∈ partWheels p, ∃ q, findPass (rnt t w) x (bits (cmdP h 0) 15 0) = some q ∧
          q.released = bits (cmdP h 0) 31 16 + 1 ∧ q.resumed = some (bits (cmdP h 0) 31 16))) ∧
    (∀ p w o, CmdReady s x seq 0x05 h → planOf s x = some p → cmdPhys s x h = some w →
      reachCode s (fwWheel s x) w = 0 → findOp (rnt s w) x (bits (cmdP h 0) 23 0) = some o →
      slotKind o (bits (cmdP h 0) 31 28) = 1 →
      operandCode (wheelOf s w) o (bits (cmdP h 0) 47 32) (bits (cmdP h 0) 31 28) = 0 → w ∈ partWheels p →
      (∀ v ∈ partWheels p, (findPass (rnt s v) x (bits (cmdP h 0) 47 32)).isSome) →
      bits (cmdP h 0) 31 28 ∉ (openInst (rnt s w) o (bits (cmdP h 0) 47 32)).filled →
      (findInst (rnt s w) x (bits (cmdP h 0) 23 0) (bits (cmdP h 0) 47 32) = none → instRoom (rnt s w) o = true) →
      Completes (.submit x seq) s (fun t => CmdGone t x seq ∧
        OperandStored (rnt s w) (rnt t w) o x (bits (cmdP h 0) 23 0) (bits (cmdP h 0) 31 28) (bits (cmdP h 0) 47 32))) ∧
    (∀ p, CmdReady s x seq 0x06 h → planOf s x = some p → Completes (.cancel x seq) s (fun t =>
      (∀ f ∈ namedFlows p h, f.1 ∈ partWheels p → (flowOf (rnt t f.1) f.2).st ≠ .openF) ∧ t.sea = s.sea))

/-- R529, R530, R540, R559. -/
def Obligations.CaveStreamAndContextCommands : Prop :=
  ∀ (s : State) (x : Fin 1024) (seq : Nat) (h : HCmd) (w a n : Nat),
    let s1 := startCmd s x h
    let swept := fun (t : State) => ∀ v, v < 8 → (wheelOf s v).svc = .inService →
      (wheelOf t v).mld.sweeps = (wheelOf s v).mld.sweeps ++ [ctxSweep x]
    let some' := ∃ v, v < 8 ∧ (wheelOf s v).svc = .inService
    (∀ u bs, CmdReady s x seq 0x08 h → caveOperand s1 x h = .ok (w, a, n) → cmdRead s1 x (cmdP h 0) n = (u, .ok bs) →
      bs.length = n → Completes (.caveWrite x seq) s (fun t => CmdGone t x seq ∧
        CaveWritten (wheelOf s w) (wheelOf t w) a bs ∧ ∀ v, v ≠ w → (wheelOf t v).cave = (wheelOf s v).cave)) ∧
    (CmdReady s x seq 0x09 h → cmdNocpl h = true → caveOperand s1 x h = .ok (w, a, n) →
      caveUncorr (wheelOf s w) a n = false → opSpace (cmdP h 0) = (ctxOf s x).owner + 2 →
      portReach s (ctxOf s x).owner = true → Completes (.caveRead x seq) s (fun t => CmdGone t x seq ∧
        HostWritten s t (ctxOf s x).owner (opAddr (cmdP h 0)) (caveRead (wheelOf s w) a n) ∧
        ∀ v, (wheelOf t v).cave = (wheelOf s v).cave)) ∧
    (∀ p, CmdReady s x seq 0x0A h → planOf s x = some p → cmdPhys s x h = some w →
      (w, bits (cmdP h 0) 10 4) ∈ p.channels → Completes (.arm x seq) s (fun t =>
        (wheelOf t w).whey.arms = (wheelOf s w).whey.arms ++
          [(cmdOwner x seq, bits (cmdP h 0) 10 4, bits (cmdP h 0) 42 16, 0)] ∧
        (findCmd t x seq).map (·.started) = some true ∧ ∀ v, v ≠ w → wheelOf t v = wheelOf s v)) ∧
    (let r := (h.raw.drop 8).take 32
     CmdReady s x seq 0x0B h → cmdPhys s x h = some w →
      (dripSrcSpace r = 1 → caveClaimed s x w (dripSrc r) (max 1 (dripLen r)) = true) →
      Completes (.drip x seq) s (fun t =>
        (wheelOf t w).whey.drips = (wheelOf s w).whey.drips ++ [⟨cmdOwner x seq, x, 0, r⟩] ∧
        (findCmd t x seq).map (·.started) = some true ∧ ∀ v, v ≠ w → wheelOf t v = wheelOf s v)) ∧
    (∀ r, CmdReady s x seq 0x0C h → rootOf s (cmdP h 0) = some r → some' → Completes (.setPtroot x seq) s (fun t =>
      (ctxOf t x).root = r ∧ swept t ∧ (findCmd t x seq).map (·.started) = some true)) ∧
    (CmdReady s x seq 0x0D h → some' → Completes (.inval x seq) s (fun t =>
      (ctxOf t x).root = (ctxOf s x).root ∧ swept t ∧ (findCmd t x seq).map (·.started) = some true)) ∧
    (CmdReady s x seq 0x0E h → Completes (.close x seq) s (fun t => (ctxOf t x).st = .free ∨
      ((ctxOf t x).st = .closing ∧ (ctxOf t x).closeSeq = seq)))

/-- R635, R655, R661, R663–R668. `authorise` is the check of R664; the fresh bytes are a free value. -/
def Obligations.FlashAndSealCommands : Prop :=
  ∀ (s : State) (x : Fin 1024) (seq : Nat) (h : HCmd),
    let s1 := startCmd s x h
    let p := (ctxOf s x).owner
    let sealed := fun (k : Nat) => CmdReady s x seq 0x11 h ∧ cmdP h 0 % 256 = k
    let toHost := fun (op : Nat) => opSpace op = p + 2 ∧ portReach s p = true ∧ cmdNocpl h = true
    (∀ bad u bs, CmdReady s x seq 0x0F h → flashSource s1 x h = (u, .ok bs) → s.cul.noFlash = false →
      bs.length / 4096 ≤ bad → Completes (.flashWrite x seq bad) s (fun t => CmdGone t x seq ∧
        (∀ i, i < bs.length / 4096 * 4096 → rdByte 0xFF t.cul.flash (cmdP h 1 + i) = bs.getD i 0) ∧
        (∀ q, q < cmdP h 1 ∨ cmdP h 1 + bs.length / 4096 * 4096 ≤ q →
          rdByte 0xFF t.cul.flash q = rdByte 0xFF s.cul.flash q))) ∧
    (sealed 1 → toHost (cmdP h 1) → Completes (.nonce x seq) s (fun t => CmdGone t x seq ∧
      tget [] t.sea.nonces p = freshNonce s ∧ HostWritten s t p (opAddr (cmdP h 1)) (freshNonce s))) ∧
    (sealed 2 → s.sea.lc = 1 ∨ s.sea.lc = 2 → Completes (.advance x seq true) s (fun t => CmdGone t x seq ∧
      t.sea.culSvn = (if bitAt (cmdP h 1) 0 then max s.sea.culSvn (min 64 (s.cul.versions % 2 ^ 32)) else s.sea.culSvn) ∧
      t.sea.fwSvn = (if bitAt (cmdP h 1) 0 then s.sea.fwSvn else max s.sea.fwSvn (min 64 (s.cul.versions / 2 ^ 32))))) ∧
    (∀ u key k, sealed 4 → s.sea.lc = 1 → cmdRead s1 x (cmdP h 1) 133 = (u, .ok key) → k < 8 →
      bitAt s.sea.ownerValid k = false → bitAt s.sea.ownerRevoked k = false →
      (∀ j, j < k → bitAt s.sea.ownerValid j = true ∨ bitAt s.sea.ownerRevoked j = true) →
      Completes (.enroll x seq true) s (fun t => CmdGone t x seq ∧ tget [] t.sea.ownerKeys k = key ∧
        t.sea.ownerValid = s.sea.ownerValid + 2 ^ k ∧ t.sea.lc = 1)) ∧
    (∀ u, let fw := bitAt (cmdP h 1) 8
      let k := bits (cmdP h 1) 3 0
      sealed 5 → 1 ≤ s.sea.lc → s.sea.lc ≤ 3 → k < (if fw then 4 else 8) →
      authorise s1 x h 5 (leBytes 2 (cmdP h 1 % 2 ^ 16)) (if fw then umliaAuth s1 else ownerAuth s1) = (u, 0) →
      (fw = false → s.sea.lc = 2 → liveOwners s.sea.ownerValid (s.sea.ownerRevoked ||| 2 ^ k) ≠ []) →
      Completes (.revoke x seq true) s (fun t => CmdGone t x seq ∧
        t.sea.fwRevoked = (if fw then s.sea.fwRevoked ||| 2 ^ k else s.sea.fwRevoked) ∧
        t.sea.ownerRevoked = (if fw then s.sea.ownerRevoked else s.sea.ownerRevoked ||| 2 ^ k))) ∧
    (sealed 6 → toHost (cmdP h 1) → (planTable s1 p).length ≤ cmdP h 2 → Completes (.planTable x seq) s (fun t =>
      CmdGone t x seq ∧ HostWritten s t p (opAddr (cmdP h 1)) (planTable s1 p))) ∧
    (∀ u keys, let tgt := bits (cmdP h 1) 2 0
      sealed 3 → s.sea.busy = false → lcKeys s tgt = some keys → authorise s1 x h 3 (leBytes 1 tgt) keys = (u, 0) →
      (s.sea.lc = 3 → tgt = 1 → s.sea.refurb < 3) → (∀ w, w < 8 → (wheelOf s w).svc = .inService) →
      Completes (.lcChange x seq true) s (fun t => (t.sea.busy = true ∧ t.sea.target = tgt ∧ t.sea.lc = s.sea.lc) ∨
        (t.sea.busy = false ∧ t.sea.lc = tgt)))

/-- R515–R540. -/
def Obligations.ContextCommands : Prop :=
  ∀ (s : State) (p : Fin 2) (x slot : Fin 1024),
    let a := portOf s p
    let c := ctxOf s x
    let staged := bitAt a.accept 0 = true ∧ ringStaged a = true
    (∀ (off : Fin 64) (d : List Byte), a.up = true → d ≠ [] → off.val + d.length ≤ 64 → a.waits = [] →
      let b := (findBuf a x slot).getD ⟨x, slot, List.replicate 64 0, 0⟩
      b.mask ≠ 255 → ((findBuf a x slot).isSome ∨ a.bufs.length < 512) →
      Completes (.apertureWrite p x slot off d) s (fun t => findBuf (portOf t p) x slot =
        some ⟨x, slot, mergeBytes b.bytes off d, b.mask ||| markMask off d.length⟩ ∧ OnlyPort s t p)) ∧
    (∀ b, findBuf a x slot = some b → b.mask = 255 → a.waits = [] → c.st = .openC → c.owner = p →
      leAt b.bytes 0x38 1 = 0xC5 → leAt b.bytes 0x3C 4 = c.nextSeq → c.nextSeq % 1024 = slot →
      (c.nextSeq + 2 ^ 32 - c.taken) % 2 ^ 32 < 64 → Completes (.commandRecord p x slot) s (fun t =>
        (ctxOf t x).cmds = c.cmds ++ [{ seq := c.nextSeq, raw := b.bytes, order := s.order }] ∧
        (ctxOf t x).nextSeq = (c.nextSeq + 1) % 2 ^ 32 ∧ findBuf (portOf t p) x slot = none ∧ t.wheels = s.wheels)) ∧
    (c.st = .free → staged → Completes (.openContext p x) s (fun t =>
      ctxOf t x = { st := .openC, owner := p, base := regGet a.regs 0x050, log2 := regGet a.regs 0x058, irq := openIrq a } ∧
      regGet (portOf t p).regs 0x01C = 0 ∧ t.wheels = s.wheels)) ∧
    (c.st = .orphaned → adoptOn s = true → staged → bitAt a.accept 1 = true → c.plan = none →
      Completes (.adopt p x) s (fun t => (ctxOf t x).st = .openC ∧ (ctxOf t x).owner = p ∧ (ctxOf t x).cmds = c.cmds ∧
        (ctxOf t x).nextSeq = c.nextSeq ∧ (ctxOf t x).taken = c.taken ∧ regGet (portOf t p).regs 0x01C = 0 ∧
        bitAt (regGet (portOf t p).regs 0x00C) 5 = true)) ∧
    (c.st = .openC → c.owner = p → Completes (.ctxCtrlClose p x) s (fun t => Closing t x)) ∧
    (∀ (word : Word), c.st = .openC → c.owner = p → c.plan = none → c.log2 ≤ 16 →
      (c.tail + 2 ^ 32 - word.toNat) % 2 ^ 32 ≤ 2 ^ c.log2 →
      (c.held = [] → Completes (.ringHeadWrite p x word) s (fun t => ctxOf t x = { c with head := word.toNat } ∧
        t.wheels = s.wheels ∧ t.hosts = s.hosts)) ∧
      (∀ q, c.held = [q] → ringOpen s x = true → (c.tail + 2 ^ 32 - word.toNat) % 2 ^ 32 < 2 ^ c.log2 →
        Completes (.ringHeadWrite p x word) s (fun t => (ctxOf t x).head = word.toNat ∧ (ctxOf t x).held = [] ∧
          (ctxOf t x).tail = (c.tail + 1) % 2 ^ 32 ∧
          HostWritten s t p (c.base + 32 * (c.tail % 2 ^ c.log2)) (cplBytes x ((c.tail / 2 ^ c.log2 + 1) % 2) q)))) ∧
    (bitAt c.irq 31 = true → 0 < c.since → c.st ≠ .free → Completes (.msixTimerExpiry x) s (fun t =>
      ctxOf t x = { c with since := 0 } ∧
      (if (portOf s c.owner).up = true ∧ bits c.irq 10 0 ∈ (portOf s c.owner).unmasked then
        t.out = s.out ++ [.msix c.owner (bits c.irq 10 0)]
       else t.out = s.out ∧ bits c.irq 10 0 ∈ (portOf t c.owner).pba)))

/-- R513, R521, R536–R540, R627, R644. -/
def Obligations.PortEvents : Prop :=
  ∀ (s : State) (p : Fin 2),
    let a := portOf s p
    let fresh := fun (t : State) => (portOf t p).accept = 0 ∧ (portOf t p).bufs = [] ∧ (portOf t p).waits = [] ∧
      (portOf t p).unmasked = [] ∧ (portOf t p).ats = false ∧ (portOf t p).pri = false
    let mine := fun (c : Nat) => (ctxOf s c).st ≠ .free ∧ (ctxOf s c).owner = p.val
    let down := fun (t : State) => ∀ c, mine c → Closing t c
    Completes (.flr p) s (fun t => fresh t ∧ down t ∧ tget {} t.sea.spdm p = {} ∧ t.sea.lc = s.sea.lc) ∧
    Completes (.d3hotEntry p) s (fun t => fresh t ∧ down t ∧ tget {} t.sea.spdm p = tget {} s.sea.spdm p ∧ t.sea.lc = s.sea.lc) ∧
    (a.up = true → Completes (.portLoss p) s (fun t => fresh t ∧ (portOf t p).up = false ∧ (portOf t p).lost = true ∧
      bitAt (regGet (portOf t (1 - p.val)).regs 0x00C) 4 = true ∧
      ∀ c, mine c → if adoptOn s = true ∧ (ctxOf s c).st = .openC then (ctxOf t c).st = .orphaned else Closing t c)) ∧
    (∀ (x : Fin 1024), (ctxOf s x).st = .orphaned → Completes (.adoptExpiry x) s (fun t => Closing t x)) ∧
    Completes (.perstAssert p) s (fun t => fresh t ∧ (portOf t p).up = false ∧ (portOf t p).perst = true ∧
      tget {} t.sea.spdm p = {}) ∧
    Completes (.perstDeassert p) s (fun t => OnlyPort s t p ∧
      portOf t p = { a with perst := false, up := a.up || linksAlive s, lost := a.lost && !(linksAlive s) }) ∧
    (a.perst = false → linksAlive s = true → Completes (.pcieLinkUp p) s (fun t => OnlyPort s t p ∧
      portOf t p = { a with up := true, lost := false })) ∧
    (∀ wr ats pri, a.up = true → Completes (.configurationRequest p wr ats pri) s (fun t =>
      if s.cul.step < 8 ∧ s.recovery = false then t = { s with rdCode := 3 }
      else t.rdCode = 0 ∧ (portOf t p).ats = (if wr then ats else a.ats) ∧ (portOf t p).pri = (if wr then pri else a.pri) ∧
        t.wheels = s.wheels ∧ t.ctxs = s.ctxs)) ∧
    (∀ (half : Fin 2) (word : DWord), ownedBy s p = [] →
      let v := if half.val = 0 then a.accept / 2 ^ 64 * 2 ^ 64 + word.toNat else word.toNat * 2 ^ 64 + a.accept % 2 ^ 64
      Completes (.featAcceptWrite p half word) s (fun t => (portOf t p).accept = v &&& s.offer ∧
        (v &&& s.offer = v → OnlyPort s t p ∧ (portOf t p).regs = a.regs) ∧
        (v &&& s.offer ≠ v → bitAt (regGet (portOf t p).regs 0x00C) 2 = true))) ∧
    (∀ (v : Fin 2048), Completes (.msixUnmask p v) s (fun t => v.val ∈ (portOf t p).unmasked ∧
      (if v.val ∈ a.pba ∧ a.up = true then t.out = s.out ++ [.msix p v] ∧ v.val ∉ (portOf t p).pba
       else t.out = s.out ∧ (portOf t p).pba = a.pba)))

/-- R9, R128, R400, R520, R529, R545. -/
def Obligations.AccessesFromThePorts : Prop :=
  ∀ (s : State) (p : Fin 2),
    (∀ off n pa, 0 < n → n ≤ 4096 - off % 4096 → off + n ≤ 2 ^ 36 → (portOf s p).up = true →
      bar4Addr s p off n = some pa →
      (∀ q ∈ sectorsOf (paOff pa) n, sectorState (wheelOf s (paWheel pa)).mem q ≠ 2 ∧
        q ∉ (wheelOf s (paWheel pa)).mem.crcFail) →
      Completes (.bar4Read p off n) s (fun t => t.rdCode = 0 ∧ t.rdBytes.length = n ∧
        (∀ i, i < n → t.rdBytes.getD i 0 = rdByte 0 (wheelOf s (paWheel pa)).mem.cells (paOff pa + i)) ∧
        ∀ w, (wheelOf t w).mem.cells = (wheelOf s w).mem.cells)) ∧
    (∀ off d pa, 0 < d.length → d.length ≤ 4096 - off % 4096 → off + d.length ≤ 2 ^ 36 → (portOf s p).up = true →
      bar4Addr s p off d.length = some pa →
      (∀ q ∈ sectorsOf (paOff pa) d.length, sectorState (wheelOf s (paWheel pa)).mem q ≠ 2 ∧
        q ∉ (wheelOf s (paWheel pa)).mem.crcFail) →
      let w := paWheel pa
      Completes (.bar4Write p off d) s (fun t =>
        (∀ i, i < d.length → rdByte 0 (wheelOf t w).mem.cells (paOff pa + i) = d.getD i 0) ∧
        (∀ q, q < paOff pa ∨ paOff pa + d.length ≤ q →
          rdByte 0 (wheelOf t w).mem.cells q = rdByte 0 (wheelOf s w).mem.cells q) ∧
        ∀ v, v ≠ w → wheelOf t v = wheelOf s v)) ∧
    (∀ addr (word : DWord), bar0Open s p = true → addr % 4 = 0 → addr < 0x1000000 → winVisible s p (windowOf addr).1 = true →
      (windowOf addr).1 = .port → (windowOf addr).2 = 0x00C →
      Completes (.registerWrite p addr word 0) s (fun t => OnlyPort s t p ∧
        (∀ b, b < 32 → bitAt (regGet (portOf t p).regs 0x00C) b =
          (bitAt (regGet (portOf s p).regs 0x00C) b && !(bitAt word.toNat b))) ∧
        ∀ o, o ≠ 0x00C → regGet (portOf t p).regs o = regGet (portOf s p).regs o)) ∧
    (∀ addr o, bar0Open s p = true → addr % 8 = 0 → addr < 0x1000000 → windowOf addr = (.port, o) →
      winWide .port o = true → o % 8 = 0 → Completes (.lowWordRead p (addr, false)) s (fun t =>
        t.rdVal = BitVec.ofNat 64 (winReg s p .port o % 2 ^ 32) ∧ t.rdCode = 0 ∧
        (portOf t p).latch.find? (fun e => e.1 == addr) = some (addr, winReg s p .port o / 2 ^ 32) ∧
        (portOf t p).regs = (portOf s p).regs ∧ t.wheels = s.wheels) ∧
        Completes (.lowWordRead p (addr, true)) s (fun t => t.rdVal = BitVec.ofNat 64 (winReg s p .port o) ∧ t.rdCode = 0 ∧
          portOf t p = portOf s p ∧ t.wheels = s.wheels)) ∧
    (∀ (a : Fin 1024) b, readsHost s (chOf s (a.val / 128) (a.val % 128)) p = true →
      Completes (.completionTimeout p true a b) s (fun t => StreamFailed t (a.val / 128) (a.val % 128) 0x0606)) ∧
    (∀ (x : Fin 1024) seq h, findCmd s x seq = some h → startable s x h = true → h.started = false → h.taken = false →
      (ctxOf s x).owner = p → cmdReadsHost h p = true → cmdCheck (startCmd s x h) x h = 0 → RingReady s x h →
      Completes (.completionTimeout p false x seq) s (fun t => RecordWritten s t x seq 0x0909 0 ∧ t.wheels = s.wheels))

/-- R576–R591. -/
def Obligations.TimersAndEngineRecovery : Prop :=
  ∀ (s : State) (x : Fin 1024) (seq : Nat) (w : Fin 8),
    (∀ t p, (ctxOf s x).submits.find? (fun q => q.seq == seq) = some t → planOf s x = some p → s.rst.replays = [] →
      t.expired = false → passOpen s p x t.iter = true → s.outOfService = false →
      let hung := (partWheels p).flatMap (fun v =>
        (busyUnits (wheelOf s v) (fun i => i.ctx == x.val && i.iter == t.iter)).map (fun u => (v, u)))
      (hung ≠ [] → Completes (.submitTimeout x seq []) s (fun t' =>
        ∀ q ∈ hung, (wheelOf s q.1).svc = .inService → unitFenced (wheelOf t' q.1) q.2 = true)) ∧
      (hung = [] → Completes (.submitTimeout x seq []) s (fun t' => (ctxOf t' x).submits = [] ∧
        ∀ v ∈ partWheels p, ∀ e ∈ ctxFlows (wheelOf s v) x, (flowOf (rnt t' v) e).st ≠ .openF))) ∧
    (∀ h done, findCmd s x seq = some h → timersHeld s x = false → h.started = false → h.taken = false →
      startable s x h = true → cmdCheck (startCmd s x h) x h = 0 →
      (cmdOp h ∈ [0x00, 0x01, 0x02, 0x04, 0x10, 0x11] → (cmdOp h = 0x11 → done = 0) → RingReady s x h → Completes (.commandTimeout x seq done) s
        (fun t => RecordWritten s t x seq 0x0B08 0 ∧ t.wheels = s.wheels)) ∧
      (∀ v a n u bs, cmdOp h = 0x08 → caveOperand s x h = .ok (v, a, n) →
        cmdRead (rstBump (startCmd s x h) 0) x (cmdP h 0) n = (u, .ok bs) →
        Completes (.commandTimeout x seq done) s (fun t => CmdGone t x seq ∧
          CaveWritten (wheelOf s v) (wheelOf t v) a (bs.take done)))) ∧
    (∀ f i o, s.rst.fences = [f] → f.wheel = w.val → 2 ≤ f.unit.cls → f.unit.cls ≤ 4 → serviceOn (wheelOf s w) f.unit = some i →
      findOp (rnt s w) i.ctx i.opid = some o → findInst (rnt s w) i.ctx i.opid i.iter = some i →
      f.lost ≠ 0 → f.lost ≠ 0x0701 → (flowOf (rnt s w) o.flow).st = .openF →
      Completes (.drainDeadline w) s (fun t => t.rst.fences = [] ∧ (engOf (wheelOf t w) f.unit).op = none ∧
        (engOf (wheelOf t w) f.unit).st = .idle ∧
        (f.noReplay = true → (flowOf (rnt t w) o.flow).st = .failed ∧ (flowOf (rnt t w) o.flow).failCode = f.lost) ∧
        (f.noReplay = false → (engOf (wheelOf s w) f.unit).irrev = false →
          (flowOf (rnt t w) o.flow).st = .openF ∧ findInst (rnt t w) i.ctx i.opid i.iter = some { i with replay := true } ∧
          t.rst.replays = s.rst.replays ++
            [{ ctx := i.ctx, wheel := w, opid := i.opid, iter := i.iter, unit := f.unit, seq := f.seq }]))) ∧
    (∀ (v : Fin 32), s.rst.rewrites.contains ⟨w, v⟩ = true → Completes (.istoreRewriteDone w v) s (fun t =>
      t.rst.rewrites = s.rst.rewrites.erase ⟨w, v⟩ ∧ (vatAt t w v).st = .idle)) ∧
    (∀ r i o, s.rst.replays = [r] → r.running = false → r.wheel = w.val → r.ctx < 1024 → 2 ≤ r.unit.cls → r.unit.cls ≤ 4 →
      unitIdle (wheelOf s w) r.unit = true → findInst (rnt s w) r.ctx r.opid r.iter = some i →
      findOp (rnt s w) r.ctx r.opid = some o → o.cls = r.unit.cls → recordOk (wheelOf s w) o = true →
      Completes (.replay w) s (fun t => t.rst.replays = [{ r with running := true }] ∧
        engOf (wheelOf t w) r.unit = startEng (wheelOf s w) (engOf (wheelOf s w) r.unit) o (opRefOf o i (rnt s w).nextDisp) ∧
        findInst (rnt t w) r.ctx r.opid r.iter = some { i with st := .service r.unit (rnt s w).nextDisp }))

/-- R592–R602. -/
def Obligations.WheelAndDieResets : Prop :=
  ∀ (s : State) (w : Fin 8) (die : Fin 2),
    let x := wheelOf s w
    let d := w.val / 4
    let noDie := ∀ q ∈ s.rst.dies, q.1 ≠ d
    let rind := fun (t : State) (v : Nat) => (wheelOf t v).svc = .resetting ∧ (rnt t v).st = 1 ∧ (wheelOf t v).mem.st = 3 ∧
      ∀ k, (vatAt s v k).op.isSome → (vatAt t v k).st = .fenced
    (x.svc = .inService → s.outOfService = false → Completes (.wheelWatchdogExpiry w) s (fun t => rind t w ∧
      (wheelOf t w).mem.cells = x.mem.cells ∧
      (w.val, 0x0B09) ∈ t.rst.wheels ∧ s.now ∈ tget [] t.rst.starts w)) ∧
    (∀ cause, s.rst.wheels.find? (fun q => q.1 == w.val) = some (w.val, cause) → x.mem.st = 3 → x.mem.resetReq = false →
      noDie → Completes (.wheelReset w) s (fun t => wheelOf t w = washWheel x 1 ∧ (∀ m ∈ t.mesh, (meshEnds m).2 ≠ w.val) ∧
        ∀ v, v ≠ w.val → wheelOf t v = { wheelOf s v with hoops := (wheelOf t v).hoops } ∧
          ∀ h, (hoopOf (wheelOf t v) h).q = (hoopOf (wheelOf s v) h).q)) ∧
    (∀ (lane dev : BitVec 8), (∃ q ∈ s.rst.wheels, q.1 = w.val) → x.mem.st = 1 → noDie →
      Completes (.wheelResetComplete w lane dev) s (fun t => (∀ q ∈ t.rst.wheels, q.1 ≠ w.val) ∧
        (if resetLimit s ≤ resetCount s w ∨ lane ≠ 0 ∨ dev ≠ 0 then (wheelOf t w).svc = .out ∧ (wheelOf t w).mem.st = 4
         else (wheelOf t w).svc = .inService ∧ (wheelOf t w).mem.st = 0 ∧ (rnt t w).st = 0))) ∧
    (s.outOfService = false → (∀ q ∈ s.rst.dies, q.1 ≠ die.val) → (portOf s die).up = true →
      Completes (.controlCoreWatchdog die) s (fun t => (die.val, 0x0B09) ∈ t.rst.dies ∧ die.val ∈ t.dieDown ∧
        (portOf t die).up = false ∧ (portOf t die).lost = true ∧
        ∀ k, k < 4 → (wheelOf s (4 * die.val + k)).svc = .inService → rind t (4 * die.val + k))) ∧
    (∀ cause, s.rst.dies.find? (fun q => q.1 == die.val) = some (die.val, cause) →
      Completes (.dieReset die) s (fun t => t.outOfService = true ∧ (∀ q ∈ t.rst.dies, q.1 ≠ die.val) ∧
        (∀ k, k < 4 → (wheelOf t (4 * die.val + k)).svc = .out) ∧ t.sea.lc = s.sea.lc ∧ t.sea.fwSvn = s.sea.fwSvn)) ∧
    (s.outOfService = false →
      ((∃ q ∈ s.rst.dies, q.1 = d) → Completes (.resetOverrun w) s (fun t => t.outOfService = true)) ∧
      (noDie → (∃ q ∈ s.rst.wheels, q.1 = w.val) → Completes (.resetOverrun w) s (fun t =>
        (d, 0x0B05) ∈ t.rst.dies ∧ d ∈ t.dieDown)) ∧
      (noDie → (∀ q ∈ s.rst.wheels, q.1 ≠ w.val) → (∃ f ∈ s.rst.fences, f.wheel = w.val) → x.svc = .inService →
        Completes (.resetOverrun w) s (fun t => rind t w ∧ ∀ f ∈ t.rst.fences, f.wheel ≠ w.val))) ∧
    (∀ (word : Word), bitAt word.toNat 31 = true → Completes (.trierCtrlWrite word) s (fun t =>
      let kept := s.rst.trier.filter (fun q => q.1 ≠ 8 * bits word.toNat 3 3 + bits word.toNat 2 0)
      t = { s with rst := { s.rst with trier := kept } })) ∧
    (∀ k q, s.rst.trier.find? (fun e => e.1 == 8 * bits s.rst.sel 31 31 + bits s.rst.sel 26 24) = some (k, q) →
      Completes .trierDataRead s (fun t => t.rdVal = BitVec.ofNat 64 (sampleWord q (bits s.rst.sel 17 0 / 8)) ∧
        bits t.rst.sel 17 0 = (bits s.rst.sel 17 0 + 8) % 2 ^ 18 ∧ t.rst.sel / 2 ^ 18 = s.rst.sel / 2 ^ 18 ∧
        t.rst.trier = s.rst.trier))

/-- R626, R632, R633, R641, R642. -/
def Obligations.StartAndModuleReset : Prop :=
  ∀ (s : State) (answers : Bool) (lanes : BitVec 2) (lane dev : DWord) (ms : Word),
    let go := s.pwr.hold = false ∧ s.cul.step = 1 ∧ s.recovery = false
    (s.pwr.hold = true ∨ s.cul.step ≠ 1 ∨ s.recovery = true → Completes (.powerOn answers lanes lane dev ms) s (fun t => t = s)) ∧
    (go → s.sea.lc = 4 → Completes (.powerOn answers lanes lane dev ms) s (fun t =>
      t.cul.step = 2 ∧ t.recovery = false ∧ t.cul.done = s.cul.done ∧ t.pwr.off = false ∧ t.wheels = s.wheels)) ∧
    (go → s.sea.lc ≠ 4 → answers = false → Completes (.powerOn answers lanes lane dev ms) s (fun t =>
      t.cul.step = 2 ∧ t.recovery = true ∧ t.offer = 0x11 ∧ t.cul.alert = true ∧ bitAt (regGet t.cul.regs 0x00C) 1 = true ∧
      t.cul.done = s.cul.done)) ∧
    (go → s.sea.lc ≠ 4 → answers = true → s.cul.noFlash = false → (fwCheck s).code ≠ 0 →
      Completes (.powerOn answers lanes lane dev ms) s (fun t => t.cul.step = 3 ∧ t.recovery = true ∧ t.offer = 0x11 ∧
        t.cul.alert = true ∧ t.sea.fwDigest = sha512 (fwCheck s).bytes ∧
        bitAt (regGet t.cul.regs 0x00C) (if (fwCheck s).code = 0x0D04 ∨ (fwCheck s).code = 0x0D06 ∨ (fwCheck s).code = 0x0D07 then 1 else 0) = true)) ∧
    (go → s.sea.lc ≠ 4 → answers = true → s.cul.noFlash = false → (fwCheck s).code = 0 → (culCheck s).code ≠ 0 →
      Completes (.powerOn answers lanes lane dev ms) s (fun t => t.cul.step = 4 ∧ t.recovery = true ∧ t.offer = 0x11 ∧
        t.sea.culDigest = sha512 (culCheck s).bytes)) ∧
    (go → s.sea.lc ≠ 4 → answers = true → s.cul.noFlash = false → (fwCheck s).code = 0 → (culCheck s).code = 0 →
      Completes (.powerOn answers lanes lane dev ms) s (fun t => t.cul.step = 10 ∧ t.cul.done = true ∧ t.recovery = false ∧
        t.offer = 0x3F ∧ t.cul.startMs = ms.toNat ∧ t.culture = (culCheck s).bytes ∧
        t.sea.fwDigest = sha512 (fwCheck s).bytes ∧ t.sea.culDigest = sha512 (culCheck s).bytes ∧ t.sea.lc = s.sea.lc ∧
        (∀ w, w < 8 → bits lane.toNat (8 * w + 7) (8 * w) ≠ 0 → (wheelOf t w).svc = .out))) ∧
    (∀ (word : Word), (bitAt word.toNat 31 = true ∧ word.toNat % 2 ^ 16 = 0x5A5A ∧ s.pwr.off = false →
        Completes (.culCtrlWrite word) s (fun t => t.cul.step = 1 ∧ t.cul.restart = true ∧ t.cul.da = none ∧
          t.cul.alert = s.cul.alert ∧ t.cul.flash = s.cul.flash ∧ t.node = 0xFFF ∧ t.ctxs = [] ∧ t.hosts = s.hosts ∧
          t.sea.lc = s.sea.lc ∧ t.sea.ownerKeys = s.sea.ownerKeys ∧ t.pwr.lastFault = s.pwr.lastFault ∧
          (∀ p, (portOf t p).up = false) ∧
          ∀ w, w < 8 → wheelOf t w = { mem := { cells := (wheelOf s w).mem.cells, bad := (wheelOf s w).mem.bad } })) ∧
      (bitAt word.toNat 31 = false ∨ word.toNat % 2 ^ 16 ≠ 0x5A5A → Completes (.culCtrlWrite word) s (fun t => t = s))) ∧
    (∀ (word : Word), (s.cul.node = false → 6 < s.cul.step → word.toNat % 2 ^ 12 ≠ 0xFFF → Completes (.culNodeWrite word) s
        (fun t => t = { s with node := word.toNat % 2 ^ 12, cul := { s.cul with node := true } })) ∧
      (s.cul.node = true ∨ s.cul.step ≤ 6 ∨ word.toNat % 2 ^ 12 = 0xFFF → Completes (.culNodeWrite word) s (fun t => t = s))) ∧
    (s.cul.alert = false → s.pwr.off = false → Completes .alertPinFault s (fun t => OnlyCul s t ∧
      bitAt (regGet t.cul.regs 0x00C) 4 = true ∧ t.cul = { s.cul with regs := t.cul.regs })) ∧
    (s.cul.alert = true → Completes .alertPinFault s (fun t => t = s))

/-- R637, R638, R643; RSTACT's lack of a further effect and GETSTATUS's contents are the model's reading. -/
def Obligations.ManagementBusCodes : Prop :=
  ∀ s : State, BusOpen s →
    (∀ (addr : Fin 128) (won : Bool), s.cul.da = none → Completes (.entdaa addr won) s (fun t =>
      t = { s with
        out := s.out ++ [.i3c 1 (beBytes 8 (i3cPid s * 2 ^ 16 + 0x0E * 2 ^ 8))]
        cul := if won then { s.cul with da := some addr.val, hotJoin := false } else s.cul })) ∧
    (∀ (addr : Fin 128) (won : Bool), s.cul.da.isSome = true → Completes (.entdaa addr won) s (fun t => t = s)) ∧
    Completes .rstdaa s (fun t => t = { s with cul := { s.cul with da := none, hotJoin := true } }) ∧
    (∀ addr : Fin 128, Addressed s → Completes (.setnewda addr) s (fun t => t = { s with cul := { s.cul with da := some addr.val } })) ∧
    (∀ ev : BitVec 8, Completes (.enec ev) s (fun t => OnlyCul s t ∧ (∀ k, k < 8 →
        bitAt t.cul.events k = (bitAt s.cul.events k || ev.getLsbD k)) ∧
        t.cul.hotJoin = (s.cul.hotJoin || (ev.getLsbD 3 && s.cul.da.isNone)) ∧
        t.cul = { s.cul with events := t.cul.events, hotJoin := t.cul.hotJoin }) ∧
      Completes (.disec ev) s (fun t => OnlyCul s t ∧ (∀ k, k < 8 →
        bitAt t.cul.events k = (bitAt s.cul.events k && !ev.getLsbD k)) ∧ t.cul = { s.cul with events := t.cul.events })) ∧
    (Addressed s →
      Answers .getpid s 2 (beBytes 6 (0x01A7 * 2 ^ 33 + 2 ^ 32 + s.serial.toNat % 2 ^ 32)) ∧
      Answers .getbcr s 3 [0x0E] ∧ Answers .getdcr s 4 [0x00] ∧
      Answers .getmwl s 6 (beBytes 2 s.cul.mwl) ∧ Answers .getmrl s 7 (beBytes 2 s.cul.mrl) ∧
      Completes .getstatus s (fun t => ∃ d : List Byte, d.length = 2 ∧
        t = { s with out := s.out ++ [.i3c 5 d], free := s.free + 1 })) ∧
    (s.cul.da = none → Completes .getpid s (fun t => t = s)) ∧
    (∀ len : BitVec 16,
      (8 ≤ len.toNat ∧ len.toNat ≤ 256 → Completes (.setmwl len) s (fun t => t = { s with cul := { s.cul with mwl := len.toNat } }) ∧
        Completes (.setmrl len) s (fun t => t = { s with cul := { s.cul with mrl := len.toNat } })) ∧
      (len.toNat < 8 ∨ 256 < len.toNat → Completes (.setmwl len) s (fun t => t = s) ∧ Completes (.setmrl len) s (fun t => t = s))) ∧
    (∀ a : BitVec 8, Completes (.rstact a) s (fun t => t = { s with cul := { s.cul with rstact := a.toNat } })) ∧
    (s.cul.hotJoin = true → s.cul.da = none → bitAt s.cul.events 3 = true → Completes .hotJoin s (fun t =>
      t = { s with out := s.out ++ [.i3c 8 []], cul := { s.cul with hotJoin := false } })) ∧
    (s.cul.hotJoin = false → Completes .hotJoin s (fun t => t = s)) ∧
    (s.pwr.off = false → Completes .i3cBusFault s (fun t => t = { s with cul := { s.cul with busFault := true } } ∧
      ∀ a : BitVec 8, Completes (.rstact a) t (fun u => u.cul.busFault = false ∧ bitAt (regGet u.cul.regs 0x00C) 3 = true)))

/-- R639, R640. -/
def Obligations.PrivateTransfers : Prop :=
  ∀ s : State, Addressed s →
    (∀ a : BitVec 24,
      (a.toNat % 4 = 0 → Completes (.privateWriteSetAddress a) s (fun t =>
        t = { s with cul := { s.cul with addr := a.toNat, regs := bump s.cul.regs 2 1 } })) ∧
      (a.toNat % 4 ≠ 0 → Completes (.privateWriteSetAddress a) s (fun t => OnlyCul s t ∧
        bitAt (regGet t.cul.regs 0x00C) 2 = true ∧ t.cul = { s.cul with regs := t.cul.regs }))) ∧
    (∀ (off : BitVec 24) (word : Word),
      (off.toNat ∉ [0x000008, 0x000018, 0x010018, 0x01000C, 0x020018, 0x02001C] →
        Completes (.privateWriteWord off word) s (fun t => OnlyCul s t ∧ bitAt (regGet t.cul.regs 0x00C) 2 = true ∧
          t.cul = { s.cul with regs := t.cul.regs })) ∧
      (off.toNat = 0x010018 → Completes (.privateWriteWord off word) s (fun t => t.pwr = { s.pwr with railSel := word.toNat % 8 } ∧
        t = { s with pwr := t.pwr, cul := { s.cul with regs := bump s.cul.regs 2 1 } })) ∧
      (off.toNat = 0x01000C → Completes (.privateWriteWord off word) s (fun t => (∀ k, k < 32 →
        bitAt (regGet t.pwr.regs 0x00C) k = (bitAt (regGet s.pwr.regs 0x00C) k && !word.getLsbD k)) ∧
        t = { s with pwr := { s.pwr with regs := t.pwr.regs }, cul := { s.cul with regs := bump s.cul.regs 2 1 } })) ∧
      (off.toNat = 0x020018 → Completes (.privateWriteWord off word) s (fun t =>
        t = { s with rst := { s.rst with sel := word.toNat &&& 0x8703FFF8 }, cul := { s.cul with regs := bump s.cul.regs 2 1 } })) ∧
      (off.toNat = 0x000008 → s.cul.node = false → 6 < s.cul.step → word.toNat % 2 ^ 12 ≠ 0xFFF →
        Completes (.privateWriteWord off word) s (fun t => t.node = word.toNat % 2 ^ 12 ∧ t.cul.node = true))) ∧
    (∀ n, 0 < n → 4 ≤ s.cul.mrl → Completes (.privateRead n) s (fun t =>
      let m := min n (s.cul.mrl / 4)
      t.cul.addr = (s.cul.addr + 4 * m) % 2 ^ 24 ∧ ∃ d, t.out = s.out ++ [.i3c 0 d] ∧ d.length = 4 * m ∧ t.wheels = s.wheels ∧
        (winWide (mgmtWin s.cul.addr).1 ((mgmtWin s.cul.addr).2 / 8 * 8) = false →
          d.take 4 = leBytes 4 (winWord s 0 (mgmtWin s.cul.addr).1 (mgmtWin s.cul.addr).2)))) ∧
    (4 ≤ s.cul.mrl → Completes .culStatusRead s (fun t =>
      t = { s with
        out := s.out ++ [.i3c 0 (leBytes 4 (winWord s 0 .cul 4))]
        cul := { s.cul with addr := 8, alert := false, regs := bump s.cul.regs 2 1 } })) ∧
    (∀ n, n = 0 ∨ s.cul.mrl / 4 = 0 → Completes (.privateRead n) s (fun t => t.cul.addr = s.cul.addr))

/-- R657–R660, R662. -/
def Obligations.MailboxRequests : Prop :=
  ∀ (s : State) (p : Fin 2) (q : List Byte),
    let old := (spdmOf s p).transcript
    let first := reqAt q 0 1
    let selected := (spdmOf s p).phase = 3 ∧ (spdmOf s p).selected = true
    (MailReady s p 0x84 q → first = 0x10 → Completes (.getVersion p q false) s (fun t =>
      Responds s t p [] q [0x10, 0x04, 0, 0, 0, 1, 0x00, 0x12] 1 false)) ∧
    (MailReady s p 0xE1 q → first = 0x12 → (spdmOf s p).phase = 1 → Completes (.getCapabilities p q false) s (fun t =>
      Responds s t p old q [0x12, 0x61, 0, 0, 0, 20, 0, 0, 0x16, 0, 0, 0, 0, 0x10, 0, 0, 0, 0x10, 0, 0] 2 false)) ∧
    (MailReady s p 0xE3 q → first = 0x12 → (spdmOf s p).phase = 2 → Completes (.negotiateAlgorithms p q false) s (fun t =>
      let meas := b2n (bitAt (reqAt q 6 1) 0)
      let asym := b2n (bitAt (reqAt q 8 4) 8)
      let hash := b2n (bitAt (reqAt q 12 4) 2)
      Responds s t p old q ([0x12, 0x63, 0, 0] ++ leBytes 2 36 ++ leBytes 1 meas ++ [0] ++ leBytes 4 (8 * meas) ++
        leBytes 4 (0x100 * asym) ++ leBytes 4 (4 * hash) ++ List.replicate 16 0) 3 (decide (asym = 1 ∧ hash = 1)) ∧
      (spdmOf t p).meas = decide (meas = 1))) ∧
    (MailReady s p 0x81 q → first = 0x12 → selected →
      let r := [0x12, 0x01, 0, 1] ++ sha512 (certChain s)
      Completes (.getDigests p q false) s (fun t => Responds s t p old q r 3 true) ∧
      Completes (.getDigests p q true) s (fun t => ∃ tok, tok < 256 ∧ (spdmOf t p).ready = some (tok, r) ∧
        (spdmOf t p).transcript = old ++ q ++ r)) ∧
    (MailReady s p 0x81 q → first = 0x12 → ¬selected → Completes (.getDigests p q false) s (fun t =>
      t.out = s.out ++ [.doe p [0x12, 0x7F, 0x04, 0]] ∧ spdmOf t p = spdmOf s p)) ∧
    (MailReady s p 0x82 q → first = 0x12 → selected → reqAt q 2 1 % 16 = 0 → reqAt q 4 2 < (certChain s).length →
      Completes (.getCertificate p q false) s (fun t =>
        let o := reqAt q 4 2
        let n := min (min (reqAt q 6 2) 4088) ((certChain s).length - o)
        Responds s t p old q ([0x12, 0x02, 0, 0] ++ leBytes 2 n ++ leBytes 2 ((certChain s).length - o - n) ++
          ((certChain s).drop o).take n) 3 true)) ∧
    (MailReady s p 0x83 q → first = 0x12 → selected → (reqAt q 3 1 = 0 ∨ (spdmOf s p).meas = true) → reqAt q 2 1 = 0 → 36 ≤ q.length → reqAt q 3 1 ∈ [0, 1, 0xFF] →
      Completes (.challenge p q false) s (fun t => ∃ nonce sig : List Byte, nonce.length = 32 ∧ sig.length = 132 ∧
        let blocks := if reqAt q 3 1 = 1 then [1, 2] else [1, 2, 3, 4, 5]
        let sum := if reqAt q 3 1 = 0 then [] else sha512 (blocks.flatMap (fun k => measurement s p k))
        Responds s t p old q ([0x12, 0x03, 0, 1] ++ sha512 (certChain s) ++ nonce ++ sum ++ [0, 0] ++ sig) 3 true)) ∧
    (MailReady s p 0xE0 q → first = 0x12 → (spdmOf s p).phase = 3 → (spdmOf s p).meas = true →
      (bitAt (reqAt q 2 1) 0 = true → (spdmOf s p).selected = true) → reqAt q 3 1 ∈ [1, 2, 3, 4, 5, 0xFF] →
      (bitAt (reqAt q 2 1) 0 = true → 37 ≤ q.length ∧ reqAt q 36 1 % 16 = 0) →
      Completes (.getMeasurements p q false) s (fun t => ∃ nonce sig : List Byte, nonce.length = 32 ∧
        sig.length = (if bitAt (reqAt q 2 1) 0 = true then 132 else 0) ∧
        let ixs := if reqAt q 3 1 = 0xFF then [1, 2, 3, 4, 5] else [reqAt q 3 1]
        let blocks := ixs.flatMap (fun k => measurement s p k)
        Responds s t p old q ([0x12, 0x60, 0, 0] ++ leBytes 1 ixs.length ++ leBytes 3 blocks.length ++ blocks ++ nonce ++
          [0, 0] ++ sig) 3 (spdmOf s p).selected)) ∧
    (MailReady s p 0xE0 q → first = 0x12 → (spdmOf s p).meas = false → Completes (.getMeasurements p q false) s (fun t =>
      t.out = s.out ++ [.doe p [0x12, 0x7F, 0x04, 0]] ∧ spdmOf t p = spdmOf s p)) ∧
    (∀ r late, MailReady s p 0xFF q → first = 0x12 → (spdmOf s p).ready = some (reqAt q 3 1, r) →
      Completes (.respondIfReady p q late) s (fun t =>
        Responds s t p old q r (spdmOf s p).phase (spdmOf s p).selected ∧ (spdmOf t p).ready = none)) ∧
    (MailReady { s with sea := { s.sea with busy := false } } p 0x83 q → first = 0x12 → s.sea.busy = true →
      Completes (.challenge p q false) s (fun t => t.out = s.out ++ [.doe p [0x12, 0x7F, 0x03, 0]] ∧ spdmOf t p = spdmOf s p)) ∧
    (∀ ix : Byte, (portOf s p).up = true → 8 ≤ s.cul.step → Completes (.doeDiscovery p ix) s (fun t =>
      t = { s with out := s.out ++ [.doe p (if ix = 0 then [1, 0, 0, 1] else if ix = 1 then [1, 0, 1, 0] else [0xFF, 0xFF, 0, 0])] }))

/-- R674–R677, R683, R686, R688; the count of ten intervals for 1 ms and of 100 for 10 ms is the model's reading. -/
def Obligations.PowerLimiting : Prop :=
  ∀ s : State, s.pwr.off = false →
    (∀ (vin iin d0 d1 mem reg inlet outlet flow : BitVec 16) (rail : Fin 8) (mv da : BitVec 16),
      Completes (.powerSample vin iin d0 d1 mem reg inlet outlet flow rail mv da) s (fun t => OnlyPwr s t ∧
        t.pwr.samples = s.pwr.samples ++ [⟨vin.toNat, iin.toNat, d0.toInt, d1.toInt, mem.toInt⟩] ∧
        regGet t.pwr.stage 0x024 = iin.toNat * 2 ^ 16 + vin.toNat ∧ regGet t.pwr.stage 0x02C = d1.toNat * 2 ^ 16 + d0.toNat ∧
        regGet t.pwr.stage 0x030 = reg.toNat * 2 ^ 16 + mem.toNat ∧ regGet t.pwr.stage 0x034 = outlet.toNat * 2 ^ 16 + inlet.toNat ∧
        regGet t.pwr.stage 0x038 = flow.toNat ∧ regGet t.pwr.stage (0x100 + 4 * rail) = da.toNat * 2 ^ 16 + mv.toNat ∧
        t.pwr = { s.pwr with samples := t.pwr.samples, hotRun := t.pwr.hotRun, stage := t.pwr.stage })) ∧
    (s.pwr.samples ≠ [] → Completes .powerInterval s (fun t =>
      let n := s.pwr.samples.length
      let sum := (s.pwr.samples.map (fun q => q.vin * q.iin)).sum
      let above := fun (die gddr : Int) => ∃ q ∈ s.pwr.samples, die < q.die0 ∨ die < q.die1 ∨ gddr < q.gddr
      let cap := (clkOf s 0).cap
      let excess := powerLimit s * 10000 * n < sum
      let calm := sum * 100 < powerLimit s * 950000 * n ∧ ¬above 950 900 ∧ s.pwr.sensor = false
      t.now = s.now + 1 ∧ t.pwr.samples = [] ∧ (clkOf t 1).cap = (clkOf t 0).cap ∧
      (excess ∨ above 1000 950 → (clkOf t 0).cap = max 8 (cap - 1) ∧ t.pwr.calm = 0) ∧
      (¬(excess ∨ above 1000 950) → calm → 9 ≤ s.pwr.calm → (clkOf t 0).cap = min 16 (cap + 1)) ∧
      (¬(excess ∨ above 1000 950) → calm → s.pwr.calm < 9 → (clkOf t 0).cap = cap ∧ t.pwr.calm = s.pwr.calm + 1) ∧
      (¬(excess ∨ above 1000 950) → ¬calm → (clkOf t 0).cap = cap ∧ t.pwr.calm = 0) ∧
      (excess → cap = 8 → t.pwr.alarmRun = s.pwr.alarmRun + 1) ∧ (¬excess ∨ cap ≠ 8 → t.pwr.alarmRun = 0) ∧
      t = { s with now := t.now, pwr := t.pwr, clks := t.clks, free := t.free })) ∧
    (s.pwr.alarm = false → 100 ≤ s.pwr.alarmRun → Completes .powerAlarm s (fun t => t.pwr.alarm = true ∧
      PwrRecorded s t 0 0x0F01 ∧ IbiRaised s t 3 ∧ t = { s with pwr := t.pwr, cul := t.cul, out := t.out })) ∧
    (s.pwr.alarm = true ∨ s.pwr.alarmRun < 100 → Completes .powerAlarm s (fun t => t = s)) ∧
    (s.pwr.thermal = false → 100 ≤ s.pwr.thermRun → Completes .thermalLimitRecord s (fun t => t.pwr.thermal = true ∧
      PwrRecorded s t 1 0x0F02 ∧ IbiRaised s t 3 ∧ t = { s with pwr := t.pwr, cul := t.cul, out := t.out })) ∧
    (s.pwr.thermal = true ∨ s.pwr.thermRun < 100 → Completes .thermalLimitRecord s (fun t => t = s)) ∧
    Completes .coolantFlowLow s (fun t => PwrRecorded s t 2 0x0F07 ∧ IbiRaised s t 3 ∧
      t = { s with pwr := { s.pwr with regs := t.pwr.regs }, cul := t.cul, out := t.out }) ∧
    Completes .coolantInletHot s (fun t => PwrRecorded s t 3 0x0F08 ∧ IbiRaised s t 3 ∧
      t = { s with pwr := { s.pwr with regs := t.pwr.regs }, cul := t.cul, out := t.out }) ∧
    Completes .sensorFault s (fun t => PwrRecorded s t 4 0x0F09 ∧ (clkOf t 0).cap = 8 ∧ (clkOf t 1).cap = 8 ∧
      t.pwr.sensor = true ∧ t = { s with pwr := t.pwr, clks := t.clks }) ∧
    Completes .inputDip s (fun t => PwrRecorded s t 5 0x0F0A ∧ t = { s with pwr := { s.pwr with regs := t.pwr.regs } }) ∧
    Completes .inputSurge s (fun t => PwrRecorded s t 5 0x0F0A ∧ t = { s with pwr := { s.pwr with regs := t.pwr.regs } })

/-- R569, R678–R680, R688; ten samples of R675 for 100 µs are the model's reading. -/
def Obligations.Shutdowns : Prop :=
  (∀ s : State, s.pwr.off = false →
      (10 ≤ s.pwr.hotRun → Completes .overTemperatureShutdown s (fun t => CleanShutdown s t 0x0F03 0 true)) ∧
      (s.pwr.hotRun < 10 → Completes .overTemperatureShutdown s (fun t => t = s)) ∧
      (∀ (vin iin d0 d1 mem reg inlet outlet flow : BitVec 16) (rail : Fin 8) (mv da : BitVec 16),
        Completes (.powerSample vin iin d0 d1 mem reg inlet outlet flow rail mv da) s (fun t => t.pwr.hotRun =
          if 1150 < d0.toInt ∨ 1150 < d1.toInt ∨ 1050 < mem.toInt then s.pwr.hotRun + 1 else 0))) ∧
  (∀ s : State,
      (s.pwr.off = false →
        (∀ rail : Fin 8, Completes (.railFault rail) s (fun t => CleanShutdown s t 0x0F04 rail true)) ∧
        Completes .undervoltage s (fun t => CleanShutdown s t 0x0F05 0 false) ∧
        Completes .overvoltage s (fun t => CleanShutdown s t 0x0F06 0 false)) ∧
      (s.pwr.off = true → Completes .shutdownHoldRelease s (fun t => t = { s with pwr := { s.pwr with hold := false } }) ∧
        Completes .undervoltage s (fun t => t = s) ∧
        Completes .auxiliaryInputLoss s (fun t =>
          t = { s with pwr := { s.pwr with lastFault := 0 }, cul := { s.cul with alert := false } })) ∧
      (s.pwr.off = false → Completes .shutdownHoldRelease s (fun t => t = s) ∧
        Completes .auxiliaryInputLoss s (fun t => t = { s with pwr := { s.pwr with lastFault := 0 } })))

/-- R606–R611, R615, R618. -/
def Obligations.ClockIslands : Prop :=
  ∀ (s : State) (die : Fin 2) (dom : Fin 256),
    let c := clkOf s die
    (∀ need, dom.val < 239 → dom.val ∉ c.absent → tget 0 c.need dom < need → Completes (.supplyDroop die dom need) s (fun t =>
      let u := clkOf t die
      OnlyClk s t die ∧ islandPeriod u dom = max (cdiv 256 c.cap) (min 32 need) ∧
      tget 0 u.maxp dom = max (tget 0 c.maxp dom) (islandPeriod u dom) ∧ u.cap = c.cap ∧ u.absent = c.absent ∧
      (32 < need → dom.val ∈ u.held) ∧ (need ≤ 32 → u.held = c.held) ∧
      (islandPeriod c dom < 32 → islandPeriod u dom = 32 → bitAt (regGet u.regs 0x00C) 0 = true) ∧
      ∀ k, k ≠ dom.val → tget 0 u.need k = tget 0 c.need k)) ∧
    (∀ need, 239 ≤ dom.val ∨ dom.val ∈ c.absent ∨ need ≤ tget 0 c.need dom → Completes (.supplyDroop die dom need) s (fun t =>
      OnlyClk s t die ∧ clkOf t die = c)) ∧
    (∀ need, dom.val < 239 → need ≤ 32 → need < tget 0 c.need dom → Completes (.droopRecovery die dom need) s (fun t =>
      let u := clkOf t die
      islandPeriod u dom = max (cdiv 256 c.cap) need ∧ dom.val ∉ u.held ∧ u.maxp = c.maxp ∧ u.cap = c.cap ∧
      t = { s with clks := t.clks, free := t.free } ∧ ∀ k, k ≠ die.val → clkOf t k = clkOf s k)) ∧
    (∀ need, 239 ≤ dom.val ∨ 32 < need ∨ tget 0 c.need dom ≤ need → Completes (.droopRecovery die dom need) s (fun t => t = s)) ∧
    (dom.val ∈ c.held → Completes (.islandHoldLong die dom) s (fun t => OnlyClk s t die ∧
      bitAt (regGet (clkOf t die).regs 0x00C) 1 = true ∧ clkOf t die = { c with regs := (clkOf t die).regs } ∧
      (regGet c.regs 0x00C = 0 → regGet (clkOf t die).regs 0x010 = dom.val * 2 ^ 16 + 0x0C02))) ∧
    (dom.val ∉ c.held → Completes (.islandHoldLong die dom) s (fun t => OnlyClk s t die ∧ clkOf t die = c)) ∧
    (domainBack s die dom = true → Completes (.crossingPresenceRestore die dom) s (fun t => OnlyClk s t die ∧
      dom.val ∉ (clkOf t die).absent ∧ clkOf t die = { c with absent := (clkOf t die).absent } ∧
      ∀ k, k ≠ dom.val → (k ∈ (clkOf t die).absent ↔ k ∈ c.absent))) ∧
    (domainBack s die dom = false → Completes (.crossingPresenceRestore die dom) s (fun t => t = s))

/-- R470–R474, R509. -/
def Obligations.LinksAndNeighbours : Prop :=
  ∀ (s : State) (e : Fin 8),
    let here := e.val < ePorts s ∧ (ePort s e).link = true
    (∀ ok fault, e.val < ePorts s → (ePort s e).link = false → Completes (.linkRetry e ok fault) s (fun t =>
      (ePort t e).link = (ok && !fault) ∧ (fault = true → (ePort t e).fault = true ∧ CrmErrBit t e 4) ∧
      (ePort t e).neigh = (ePort s e).neigh ∧ OnlyCrmOut s t ∧ ((ePort s e).wait = [] → t.out = s.out) ∧
      (∀ a f m, ok = true → fault = false → (ePort s e).wait = [(a, f)] → hopMac s e a = some m →
        t.out = s.out ++ [.packet { f with mac := m }] ∧ (ePort t e).wait = []) ∧ ∀ k, k ≠ e.val → ePort t k = ePort s k)) ∧
    (∀ ok fault, here → Completes (.linkRetry e ok fault) s (fun t => t = s)) ∧
    ((ePort s e).link = true → Completes (.linkDown e) s (fun t => (ePort t e).link = false ∧ CrmErrBit t e 4 ∧ OnlyCrm s t ∧
      ∀ k, k ≠ e.val → ePort t k = ePort s k)) ∧
    ((ePort s e).link = true → Completes (.neighborRefresh e) s (fun t =>
      t = { s with out := s.out ++ (ePort s e).neigh.map (fun n => .frame e 1 (ctrlPcp s) (addrBytes s n.1)) })) ∧
    (here →
      (∀ target sender : BitVec 32, ipv6 s = false → ownAddr s e target.toNat = true →
        Completes (.arpRequest e target sender) s (fun t => t = { s with out := s.out ++ [.frame e 2 (ctrlPcp s) (addrBytes s sender.toNat)] })) ∧
      (∀ target sender : BitVec 128, ipv6 s = true → ownAddr s e target.toNat = true →
        Completes (.neighborSolicitation e target sender) s (fun t =>
          t = { s with out := s.out ++ [.frame e 2 (ctrlPcp s) (addrBytes s sender.toNat)] })) ∧
      (∀ (target : BitVec 128) (d : List Byte), ownAddr s e target.toNat = true →
        Completes (.echoRequest e (ipv6 s) target d) s (fun t => t = { s with out := s.out ++ [.frame e 3 (ctrlPcp s) d] })) ∧
      (∀ target sender : BitVec 32, ownAddr s e target.toNat = false → Completes (.arpRequest e target sender) s (fun t =>
        CrmCounts s t e 8 ∧ OnlyCrm s t)) ∧
      Completes (.pause e) s (fun t => CrmCounts s t e 8 ∧ OnlyCrm s t) ∧
      Completes (.foreignFrame e) s (fun t => CrmCounts s t e 8 ∧ OnlyCrm s t) ∧
      (∀ (a : BitVec 32) (mac : BitVec 48), ipv6 s = false → Completes (.arpReply e a mac) s (fun t => OnlyCrmOut s t ∧
        ((ePort s e).wait = [] → t.out = s.out) ∧
        (ePort t e).neigh = (let l := (ePort s e).neigh.filter (fun n => n.1 ≠ a.toNat) ++ [(a.toNat, mac.toNat)]
          l.drop (l.length - 256)) ∧ (ePort t e).link = true ∧ ∀ k, k ≠ e.val → ePort t k = ePort s k)) ∧
      (∀ (a : BitVec 128) (mac : BitVec 48), ipv6 s = true → Completes (.neighborAdvertisement e a mac) s (fun t => OnlyCrmOut s t ∧
        resolved t e a.toNat = true ∧ (ePort t e).neigh.length ≤ 256 ∧ ∀ k, k ≠ e.val → ePort t k = ePort s k)))

/-- R482–R484. -/
def Obligations.ModuleTime : Prop :=
  ∀ (s : State) (e : Fin 8),
    let p := s.crm.ptp
    let clamp := fun (off : Int) => max (-(2 ^ 31)) (min (2 ^ 31 - 1) off)
    let est := fun (t : State) (off : Int) =>
      OnlyCrm s t ∧ t.crm.ptp.offset = clamp off ∧ t.crm.ptp.two = false ∧ t.crm.ptp.port = p.port ∧
      (50 < off.natAbs → t.crm.ptp.sync = 0 ∧ t.crm.ptp.run = 0 ∧ (p.sync = 2 → CrmErrBit t e 3)) ∧
      (off.natAbs ≤ 50 → p.sync = 2 → t.crm.ptp.sync = 2) ∧
      (off.natAbs ≤ 40 → p.sync = 1 → t.crm.ptp.sync = 2) ∧
      (40 < off.natAbs → off.natAbs ≤ 50 → p.sync = 1 → t.crm.ptp.sync = 1) ∧
      (off.natAbs ≤ 40 → p.sync = 0 → p.run = 15 → t.crm.ptp.sync = 2) ∧
      (off.natAbs ≤ 40 → p.sync = 0 → p.run < 15 → t.crm.ptp.sync = 0 ∧ t.crm.ptp.run = p.run + 1) ∧
      (40 < off.natAbs → p.sync = 0 → t.crm.ptp.sync = 0 ∧ t.crm.ptp.run = 0)
    (ptpActive s e = true → ∀ (off time : BitVec 64),
      Completes (.sync e off false time) s (fun t => est t off.toInt ∧ t.crm.ptp.time = time.toNat) ∧
      Completes (.sync e off true time) s (fun t => t = { s with crm := { s.crm with ptp := { p with time := time.toNat, two := true } } }) ∧
      (p.two = true → Completes (.followUp e off) s (fun t => est t off.toInt ∧ t.crm.ptp.time = p.time)) ∧
      Completes (.delayResp e off) s (fun t => OnlyCrm s t ∧ t.crm.ptp.offset = clamp off.toInt ∧
        (50 < off.toInt.natAbs → t.crm.ptp.sync = 0) ∧ (off.toInt.natAbs ≤ 50 → t.crm.ptp.sync = p.sync ∧ t.crm.ptp.run = p.run))) ∧
    (ptpActive s e = false → ∀ (off time : BitVec 64) two, Completes (.sync e off two time) s (fun t => t = s)) ∧
    (p.port = e.val → p.sync = 2 → Completes (.syncTimeout e) s (fun t => t.crm.ptp = { p with sync := 1, run := 0 } ∧
      CrmErrBit t e 3 ∧ OnlyCrm s t)) ∧
    (p.port = e.val → p.sync = 1 → Completes (.holdoverExpiry e) s (fun t =>
      t = { s with crm := { s.crm with ptp := { p with sync := 0, run := 0 } } })) ∧
    (p.port = e.val → Completes (.announce e) s (fun t => t = { s with crm := { s.crm with ptp := { p with misses := 0 } } })) ∧
    (p.port = e.val → p.misses < 2 → Completes (.announceReceiptTimeout e) s (fun t =>
      t = { s with crm := { s.crm with ptp := { p with misses := p.misses + 1 } } })) ∧
    (∀ k, p.port = e.val → 2 ≤ p.misses → k < ePorts s → (ePort s ((e + 1 + k) % ePorts s)).link = true →
      (∀ j, j < k → (ePort s ((e + 1 + j) % ePorts s)).link = false) → Completes (.announceReceiptTimeout e) s (fun t =>
        t = { s with crm := { s.crm with ptp := { p with misses := 0, port := (e + 1 + k) % ePorts s } } })) ∧
    (p.port ≠ e.val → Completes (.announceReceiptTimeout e) s (fun t => t = s))

/-- R478–R493. -/
def Obligations.TransmittedData : Prop :=
  ∀ (s : State) (e : Fin 8) (x : Fin 1024) (k : Fin 16384) (p : Plan) (tab : SlotTab) (wn : WinRec) (t : TxFlow),
    planOf s x = some p → p.slot = some tab → tab.wins[k.val]? = some wn → findTx s x wn.flow = some t →
    (∀ m, wn.port = e.val → dataAllowed s e = true → txReady s e t = true → hopMac s e (txHop s e t) = some m → t.uncorr = false →
      (ePort s e).wait = [] → Completes (.transmitWindow e x k) s (fun u =>
      let ds := fitting s (wn.len * 1000) (sortBy (fun (a b : Due) => follows a.pkt.seq b.pkt.seq) (retxOf s t) ++ newOf t)
      let last := ds.length - 1
      u.out = s.out ++ ds.zipIdx.map (fun (d, i) => .packet { frameOf s e t.dport t.sport
        (pktOfTx s t (planTag s t.ctx) d.pkt d.again (d.wend || i == last) (txIter s t).1 (txIter s t).2) d.pkt.bytes with mac := m }) ∧
      (∀ d ∈ ds, ∀ r ∈ u.crm.retx, ¬(r.ctx = t.ctx ∧ r.flow = t.flow ∧ r.seq = d.pkt.seq)) ∧
      (∀ r ∈ u.crm.retx, r ∈ s.crm.retx) ∧ u.ctxs = s.ctxs ∧ u.crm.srcs = s.crm.srcs)) ∧
    (wn.port ≠ e.val ∨ dataAllowed s e = false ∨ txOpen s t = false → Completes (.transmitWindow e x k) s (fun u => u = s)) ∧
    (wn.port = e.val → dataAllowed s e = true → txOpen s t = true → t.uncorr = false → resolved s e (txHop s e t) = false →
      t.pkts ≠ [] → Completes (.transmitWindow e x k) s (fun u =>
        u = { s with out := s.out ++ [.frame e 1 (ctrlPcp s) (addrBytes s (txHop s e t))] })) ∧
    (∀ q r m, dataAllowed s e = true → hopMac s e (txHop s e t) = some m → t.uncorr = false → (ePort s e).wait = [] → s.crm.retx = [r] → r.ctx = x.val → r.flow = wn.flow → t.pkts.find? (fun p => p.seq == r.seq) = some q →
      flowOnPort s e x wn.flow = true → txReady s e t = true → framePs s q.bytes.length ≤ slackPs s x →
      Completes (.slack e) s (fun u => u.crm.retx = [] ∧ CrmCounts s u e 2 ∧
        u.out = s.out ++ [.packet { frameOf s e t.dport t.sport
          (pktOfTx s t (planTag s t.ctx) q true r.wend (txIter s t).1 (txIter s t).2) q.bytes with mac := m }])) ∧
    (dataAllowed s e = false → Completes (.slack e) s (fun u => u = s)) ∧
    (∀ (f : Fin 16384) q, f.val = wn.flow → t.stale = false → t.pkts.find? (·.sent) = some q →
      (∀ r ∈ s.crm.retx, ¬(r.ctx = x.val ∧ r.flow = f.val ∧ r.seq = q.seq)) →
      Completes (.retransmitTimeout e x f) s (fun u =>
        u = { s with crm := { s.crm with retx := s.crm.retx ++ [⟨x, f, q.seq, true⟩] } })) ∧
    (∀ f : Fin 16384, f.val = wn.flow → t.pkts.find? (·.sent) = none → Completes (.retransmitTimeout e x f) s (fun u => u = s))

/-- R476, R480, R491, R492, R498. -/
def Obligations.AnswersToData : Prop :=
  ∀ (s : State) (e : Fin 8) (h : BitVec 256) (d : List Byte) (t : TxFlow),
    let p := pktOf h
    (PktGood s e p 1 d.length → TxPeer s p t → t.chan = none → Completes (.ack e h d true) s (fun u =>
      findTx u p.ctx p.flow = some { t with
        pkts := t.pkts.filter (fun q => !(q.sent && follows q.seq p.seq))
        limit := if follows t.limit p.msg then p.msg else t.limit } ∧
      (∀ c f, (c, f) ≠ (p.ctx, p.flow) → findTx u c f = findTx s c f) ∧ CrmCounts s u e 1 ∧ OnlyCrm s u)) ∧
    (∀ c, PktGood s e p 1 d.length → TxPeer s p t → t.chan = some c → sdSrcKind (chOf s t.wheel c).sd ≠ 1 →
      Completes (.ack e h d true) s (fun u =>
        let gone := t.pkts.filter (fun q => q.sent && follows q.seq p.seq)
        (chOf u t.wheel c).netAcked = (chOf s t.wheel c).netAcked + (gone.map (fun q => q.bytes.length)).sum ∧
        (chOf u t.wheel c).netDone = ((chOf s t.wheel c).netDone || gone.any (·.last)) ∧ u.out = s.out)) ∧
    (PktGood s e p 2 d.length → TxPeer s p t → Completes (.nack e h d true) s (fun u =>
      OnlyCrm s u ∧ u.crm.txs = s.crm.txs ∧ (∀ r ∈ s.crm.retx, r ∈ u.crm.retx) ∧
      (∀ q ∈ t.pkts, q.sent = true → (q.seq + 2 ^ 32 - p.seq) % 2 ^ 32 < min 1024 p.msg →
        ∃ r ∈ u.crm.retx, r.ctx = t.ctx ∧ r.flow = t.flow ∧ r.seq = q.seq) ∧
      (∀ r ∈ u.crm.retx, r ∈ s.crm.retx ∨ ∃ q ∈ t.pkts, q.sent = true ∧ r.seq = q.seq ∧ r.ctx = t.ctx ∧ r.flow = t.flow ∧
        (q.seq + 2 ^ 32 - p.seq) % 2 ^ 32 < min 1024 p.msg))) ∧
    (PktGood s e p 5 d.length → findTx s p.ctx p.flow = none → s.crm.notes = [] → Completes (.status e h d true) s (fun u =>
      OnlyCrm s u ∧ CrmCounts s u e 1 ∧ (0x0803 ≤ p.code → p.code ≤ 0x0805 → CrmErrBit u e 2) ∧ (p.code = 0x0806 → CrmErrBit u e 1))) ∧
    (∀ c q, PktGood s e p 5 d.length → TxPeer s p t → t.chan = some c → q ∈ t.pkts → q.seq = p.seq → q.sent = true →
      (chOf s t.wheel c).out = .net t.flow → Completes (.status e h d true) s (fun u => StreamFailed u t.wheel c p.code ∧
        CrmErrBit u (netPort s (chOf s t.wheel c).ctx t.flow) 0 ∧ CrmCounts s u e 1)) ∧
    (e.val < ePorts s → (ePort s e).link = true → crmUp s e = true →
      (s.node ≠ 0xFFF → Completes (.ack e h d false) s (fun u => CrmCounts s u e 6 ∧ OnlyCrm s u)) ∧
      (s.node ≠ 0xFFF → p.dst ≠ s.node → Completes (.nack e h d true) s (fun u => CrmCounts s u e 6 ∧ OnlyCrm s u)) ∧
      (s.node = 0xFFF → Completes (.status e h d true) s (fun u => CrmCounts s u e 8 ∧ OnlyCrm s u)))

/-- R461, R494, R501, R505. -/
def Obligations.NoticesAndControl : Prop :=
  ∀ (s : State) (e : Fin 8) (h : BitVec 256) (d : List Byte),
    let p := pktOf h
    (∀ pl, PktGood s e p 3 d.length → (ePort s e).wait = [] → planOf s p.ctx = some pl → pl.planId % 2 ^ 32 = p.ptag → (ctxOf s p.ctx).st ≠ .closing →
      ((p.ctx, p.src, p.seq) ∈ s.crm.noteSeen → Completes (.notice e h d true) s (fun u => OnlyCrmOut s u ∧
        Leaves s u e e 0 (answerPkt s 4 p 0) [])) ∧
      (let noted := if pl.notices.contains (p.iter, p.layer, p.src) then pl.notices else pl.notices ++ [(p.iter, p.layer, p.src)]
       (p.ctx, p.src, p.seq) ∉ s.crm.noteSeen → layerAgreed { pl with notices := noted } p.iter p.layer = false →
        Completes (.notice e h d true) s (fun u => Leaves s u e e 0 (answerPkt s 4 p 0) [] ∧
          u.crm.noteSeen = noteHandled s.crm p ∧
          planOf u p.ctx = some { pl with notices := noted } ∧ u.wheels = s.wheels))) ∧
    (PktGood s e p 3 d.length → (ePort s e).wait = [] → (∀ pl, planOf s p.ctx = some pl → pl.planId % 2 ^ 32 ≠ p.ptag ∨ (ctxOf s p.ctx).st = .closing) →
      Completes (.notice e h d true) s (fun u => OnlyCrmOut s u ∧ CrmCounts s u e 7 ∧
        Leaves s u e e 0 (answerPkt s 5 p 0x0803) [])) ∧
    (PktGood s e p 4 d.length → Completes (.noticeAck e h d true) s (fun u => OnlyCrm s u ∧
      u.crm.notes = s.crm.notes.filter (fun n => !(n.ctx == p.ctx && n.node == p.src && n.num == p.seq)))) ∧
    (∀ (x : Fin 1024) (node : Fin 4096) (num : Word) n q,
      s.crm.notes.find? (fun n => n.ctx == x.val && n.node == node.val && n.num == num.toNat) = some n → noticePort s x = some q →
      fabricOn s q = true → (ePort s q).wait = [] → Completes (.noticeRepeat e x node num) s (fun u =>
        OnlyCrmOut s u ∧ u.crm.notes = s.crm.notes ∧ Leaves s u q q 0 (noticePkt s n) [])) ∧
    (PktGood s e p 6 d.length → d.length ≤ 1024 → (ePort s e).wait = [] → Completes (.ctrl e h d true) s (fun u =>
      OnlyCrmOut s u ∧ Leaves s u e e 0 (answerPkt s 7 p 0) [] ∧
      u.crm.ctrlSeen = (if (p.src, p.seq) ∈ s.crm.ctrlSeen then s.crm.ctrlSeen else ctrlHandled s.crm p))) ∧
    (PktGood s e p 7 d.length → Completes (.ctrlAck e h d true) s (fun u => OnlyCrm s u ∧
      u.crm.ctrls = s.crm.ctrls.filter (fun m => !(m.1 == p.src && m.2.1 == p.seq)))) ∧
    (∀ (node : Fin 4096) (num : Word), fabricOn s e = true → (ePort s e).wait = [] →
      let known := s.crm.ctrls.find? (fun m => m.1 == node.val && m.2.1 == num.toNat)
      (known = none → d.length ≤ 1024 → Completes (.ctrlRepeat e node num d) s (fun u => OnlyCrmOut s u ∧
        Leaves s u e e 0 (ctrlPkt s node num.toNat d.length) d ∧
        u.crm.ctrls = s.crm.ctrls ++ [(node.val, num.toNat, d, 0)])) ∧
      (∀ a b bs n, known = some (a, b, bs, n) → d.length ≤ 1024 →
        (n < 8 → Completes (.ctrlRepeat e node num d) s (fun u =>
          Leaves s u e e 0 (ctrlPkt s node num.toNat bs.length) bs ∧
          u.crm.ctrls.find? (fun m => m.1 == node.val && m.2.1 == num.toNat) = some (node.val, num.toNat, bs, n + 1))) ∧
        (8 ≤ n → Completes (.ctrlRepeat e node num d) s (fun u => OnlyCrm s u ∧
          u.crm.ctrls.find? (fun m => m.1 == node.val && m.2.1 == num.toNat) = none))))

/-- R494–R496, R498, R500. -/
def Obligations.ReceivedData : Prop :=
  ∀ (s : State) (e : Fin 8) (h : BitVec 256) (d : List Byte),
    let p := pktOf h
    let good := PktGood s e p 0 d.length ∧ d.length ≤ 8960
    let status := fun (u : State) (code : Nat) => CrmCounts s u e 7 ∧ u.ctxs = s.ctxs ∧
      ((ePort s e).wait = [] → Leaves s u e e 0 { answerPkt s 5 p code with wheel := p.wheel, flow := p.flow } [])
    let mine := fun (pl : Plan) => planOf s p.ctx = some pl ∧ (ctxOf s p.ctx).st ≠ .closing ∧ pl.planId % 2 ^ 32 = p.ptag
    (good → planOf s p.ctx = none → Completes (.data e h d true) s (fun u => status u 0x0803 ∧ u.wheels = s.wheels)) ∧
    (∀ pl, good → mine pl → physOf pl p.wheel = none → Completes (.data e h d true) s (fun u =>
      status u 0x0805 ∧ u.wheels = s.wheels)) ∧
    (∀ pl w, good → mine pl → physOf pl p.wheel = some w → (wheelOf s w).svc ≠ .inService →
      Completes (.data e h d true) s (fun u => status u 0x0804 ∧ u.wheels = s.wheels)) ∧
    (∀ pl w m i v rec' r msg, good → mine pl → physOf pl p.wheel = some w → (wheelOf s w).svc = .inService →
      (∀ q ∈ s.crm.rxs, ¬(q.wheel = w ∧ q.ctx = p.ctx ∧ q.stale = true)) →
      mldSearch (wheelOf s w).mld 1 p.ctx (BitVec.ofNat 128 (p.ctx * 2 ^ 64 + p.src * 2 ^ 32 + p.flow)) = (m, .hit i v) →
      findRx s w p.ctx p.flow p.src = some rec' → rec'.wheel = w → rec'.combine = false → findSrc s w p.ctx p.flow p.src = some r → r.uncorr = false →
      p.off + p.plen ≤ rec'.msgBytes → follows p.msg r.limit = true →
      (p.seq = r.next → r.next < 2 ^ 32 → r.got = [] → r.since < 31 → newMsgs r p.msg = [] →
        r.msgs.find? (fun q => q.msg == p.msg) = some msg → (∀ q ∈ r.msgs, q.len = none) →
        p.lmsg = false → p.wend = false → p.last = false → Completes (.data e h d true) s (fun u =>
          CaveWritten (wheelOf s w) (wheelOf u w) (bufAddr (hoopOf (wheelOf s w) rec'.hoop) msg.buf + p.off) d ∧ u.out = s.out ∧
          (findSrc u w p.ctx p.flow p.src).map (fun q => (q.next, q.since)) = some ((r.next + 1) % 2 ^ 32, r.since + 1) ∧
          (∀ v, v ≠ w → wheelOf u v = wheelOf s v) ∧ (wheelOf u w).hoops = (wheelOf s w).hoops)) ∧
      (p.seq ∈ r.got → Completes (.data e h d true) s (fun u => CrmCounts s u e 4 ∧ (wheelOf u w).cave = (wheelOf s w).cave ∧
        ((ePort s e).wait = [] → Leaves s u e e 0 { type := 1, src := s.node, dst := r.node, ctx := r.ctx, flow := r.flow
                                                    seq := r.next, ptag := planTag s r.ctx, msg := r.limit } [])))) ∧
    (8960 < d.length → e.val < ePorts s → (ePort s e).link = true → crmUp s e = true → s.node ≠ 0xFFF →
      Completes (.data e h d true) s (fun u => CrmCounts s u e 6 ∧ OnlyCrm s u)) ∧
    (∀ (w : Fin 8) (x : Fin 1024) (flow : Fin 16384) (node : Fin 4096) r, findSrc s w x flow node = some r →
      let count := if r.got.isEmpty then 1 else min 1024 (missing r)
      (rxSends s r = false → Completes (.windowDeadline e w x flow node) s (fun u => u = s) ∧
        Completes (.ackCreditTimer e w x flow node) s (fun u => u = s)) ∧
      (rxSends s r = true → r.winOpen = true ∨ r.nacked = some r.next → Completes (.windowDeadline e w x flow node) s (fun u => OnlyCrmOut s u ∧
        CrmCounts s u r.port 3 ∧ findSrc u w x flow node = some { r with nacked := some r.next, winOpen := false } ∧
        (Quiet s r.port → Leaves s u r.port r.port 0 { type := 2, src := s.node, dst := r.node, ctx := r.ctx, flow := r.flow
                                                       seq := r.next, ptag := planTag s r.ctx, msg := count } []))) ∧
      (rxSends s r = true → r.winOpen = false → r.nacked ≠ some r.next → Completes (.windowDeadline e w x flow node) s (fun u => OnlyCrm s u ∧
        findSrc u w x flow node = some { r with nacked := none })) ∧
      (rxSends s r = true → r.credit = true → Completes (.ackCreditTimer e w x flow node) s (fun u => OnlyCrmOut s u ∧
        findSrc u w x flow node = some { r with since := 0, credit := false } ∧
        (Quiet s r.port → Leaves s u r.port r.port 0 { type := 1, src := s.node, dst := r.node, ctx := r.ctx, flow := r.flow
                                                       seq := r.next, ptag := planTag s r.ctx, msg := r.limit } []))) ∧
      (r.credit = false → Completes (.ackCreditTimer e w x flow node) s (fun u => u = s)) ∧
      (r.mid = true → Completes (.lateTransfer e w x flow node) s (fun u => OnlyCrm s u ∧ CrmCounts s u e 5 ∧
        CrmErrBit u e 6)) ∧
      (r.mid = false → Completes (.lateTransfer e w x flow node) s (fun u => u = s)))

/-- R144, with the code that R142 gives an illegal bundle. -/
def Obligations.PZeroIsTrue : Prop :=
  (∀ r : VatProg, ∀ i, i < 64 → (pGet r 0).getLsbD i = true) ∧
  ∀ (s : State) (w : Fin 8) (v a b : Fin 32) (d f g p : Fin 8),
    let x := vatAt s w v
    let u := tget 0 x.istore x.prog.pc
    canIssue x = true → x.issue = none → x.prog.pc < 512 → x.istoreBad.contains x.prog.pc = false →
    (slOp (bundleSlot u 0) ∈ [0x20, 0x21, 0x22, 0x23, 0x24, 0x25] ∧ slD (bundleSlot u 0) = 0) ∨
      (slOp (bundleSlot u 2) ∈ [0x18, 0x19, 0x1A, 0x1B, 0x2B] ∧ slD (bundleSlot u 2) = 0) →
    let ends := fun (t : State) =>
      vatAt t w v = { x with fin := some ⟨0x0140, x.prog.pc, 0⟩, issue := none, wait := none, st := .run } ∧ OnlyVat s t w v
    Completes (.pand w v d f g) s ends ∧ Completes (.vcmplt w v d a b p) s ends

/-- The queue of the block: first in, first out. What an empty queue does is the model's choice. -/
def Obligations.StepRunsTheFront : Prop :=
  (∀ (s : State) (c : Instr) (r : List Instr), s.pending = c :: r → step s = exec c { s with pending := r }) ∧
  (∀ (s : State) (c : Instr), step (s.withCommand c) = exec c s) ∧
  ∀ s : State, s.pending = [] → step s = .next (settle s)

/-- The reset values; those of the fuses are the model's choice (a new module). -/
def Obligations.ResetState : Prop :=
  let s := State.reset
  s.pending = [] ∧ s.cul.step = 1 ∧ s.cul.done = false ∧ s.node = 0xFFF ∧ s.cul.da = none ∧ s.cul.mwl = 256 ∧ s.cul.mrl = 256 ∧
  (∀ x, (ctxOf s x).st = .free) ∧ (∀ p, (portOf s p).up = false) ∧ (∀ w, (wheelOf s w).svc = .inService) ∧
  (∀ w v, (vatAt s w v).st = .idle ∧ (vatAt s w v).op = none ∧ (∀ n, sGet (vatAt s w v).prog n = 0) ∧
    (∀ n, aGet (vatAt s w v).prog n = 0) ∧ ∀ n i, vLane (vatAt s w v).prog n i = 0) ∧
  (∀ d, (clkOf s d).cap = 16) ∧ powerLimit s = 1250 ∧ SealInv s

/-- R649–R668: the invariant of the Seal, over every command and over the idle step. -/
def Obligations.StepKeepsSealInv : Prop :=
  ∀ s t : State, SealInv s → step s = .next t → SealInv t

/-- R655. The SVN of the running image is that of CUL_VERSIONS; the flash does not occur in the result. -/
def Obligations.CountersAdvanceOnly : Prop :=
  (∀ s t : State, step s = .next t → s.sea.fwSvn ≤ t.sea.fwSvn ∧ s.sea.culSvn ≤ t.sea.culSvn ∧
    ((∀ x seq ok r, s.pending ≠ .advance x seq ok :: r) → t.sea.fwSvn = s.sea.fwSvn ∧ t.sea.culSvn = s.sea.culSvn)) ∧
  (∀ (s : State) (x : Fin 1024) (seq : Nat) (h : HCmd) (ok : Bool), CmdReady s x seq 0x11 h → cmdP h 0 % 256 = 2 →
    let cul := bitAt (cmdP h 1) 0
    let goal := min 64 (if cul then s.cul.versions % 2 ^ 32 else s.cul.versions / 2 ^ 32)
    let now := if cul then s.sea.culSvn else s.sea.fwSvn
    s.sea.lc = 1 ∨ s.sea.lc = 2 →
    (ok = true ∨ goal ≤ now → Completes (.advance x seq ok) s (fun t =>
      t.sea.culSvn = (if cul then max s.sea.culSvn goal else s.sea.culSvn) ∧
      t.sea.fwSvn = (if cul then s.sea.fwSvn else max s.sea.fwSvn goal) ∧ t.cul.flash = s.cul.flash)))
end

