-- ==== Sys2Proof/Laws/Tables.lean ====
section
/-!
SUPPORT. Sys2Proof/Laws/Tables.lean: what the operations over tables and memories do: a read after a write, and that every
write keeps the canonical form.
-/

namespace Sys2Proof.Machine

variable {V : Type}

theorem tget_tdel_self (d : V) (t : List (Nat × V)) (k : Nat) : tget d (tdel t k) k = d := by
  induction t with
  | nil => rfl
  | cons c r ih =>
    obtain ⟨a, x⟩ := c
    by_cases h : a = k
    · simpa [tdel, h] using ih
    · simp only [tdel, bne_iff_ne, ne_eq, h, not_false_eq_true, List.filter_cons_of_pos, tget, if_false]; exact ih

theorem tget_tdel_ne (d : V) (t : List (Nat × V)) {k j : Nat} (h : j ≠ k) : tget d (tdel t k) j = tget d t j := by
  induction t with
  | nil => rfl
  | cons c r ih =>
    obtain ⟨a, x⟩ := c
    by_cases ha : a = k
    · subst ha; simpa [tdel, tget, Ne.symm h] using ih
    · simp only [tdel, bne_iff_ne, ne_eq, ha, not_false_eq_true, List.filter_cons_of_pos, tget]
      split
      · rfl
      · exact ih

theorem tget_tins_self (d v : V) (t : List (Nat × V)) (k : Nat) (h : ∀ c ∈ t, c.1 ≠ k) : tget d (tins k v t) k = v := by
  induction t with
  | nil => simp [tins, tget]
  | cons c r ih =>
    obtain ⟨a, x⟩ := c
    have ha : a ≠ k := h (a, x) List.mem_cons_self
    simp only [tins]
    split
    · simp [tget]
    · simp only [tget, ha, if_false]; exact ih (fun c hc => h c (List.mem_cons_of_mem _ hc))

theorem tget_tins_ne (d v : V) (t : List (Nat × V)) {k j : Nat} (h : j ≠ k) : tget d (tins k v t) j = tget d t j := by
  induction t with
  | nil => simp [tins, tget, Ne.symm h]
  | cons c r ih =>
    obtain ⟨a, x⟩ := c
    simp only [tins]
    split
    · simp [tget, Ne.symm h]
    · simp only [tget]; split
      · rfl
      · exact ih

/-- A read at the key just written gives the value written. -/
@[simp] theorem tget_tset_self [DecidableEq V] (d v : V) (t : List (Nat × V)) (k : Nat) : tget d (tset d t k v) k = v := by
  unfold tset
  split
  · subst_vars; exact tget_tdel_self _ t k
  · exact tget_tins_self d v _ k (fun c hc => by simpa [tdel] using (List.mem_filter.mp hc).2)

/-- A write leaves every other key alone. -/
theorem tget_tset_ne [DecidableEq V] (d v : V) (t : List (Nat × V)) {k j : Nat} (h : j ≠ k) :
    tget d (tset d t k v) j = tget d t j := by
  unfold tset
  split
  · exact tget_tdel_ne d t h
  · rw [tget_tins_ne d v _ h, tget_tdel_ne d t h]

/-- A read after a write, at any key. -/
theorem tget_tset [DecidableEq V] (d v : V) (t : List (Nat × V)) (k j : Nat) :
    tget d (tset d t k v) j = if j = k then v else tget d t j := by
  split
  · subst_vars; simp
  · exact tget_tset_ne d v t ‹_›

theorem tdel_tdel (t : List (Nat × V)) (k : Nat) : tdel (tdel t k) k = tdel t k := by
  simp [tdel, List.filter_filter]

theorem tdel_tins (v : V) (t : List (Nat × V)) (k : Nat) : tdel (tins k v t) k = tdel t k := by
  induction t with
  | nil => simp [tins, tdel]
  | cons c r ih =>
    obtain ⟨a, x⟩ := c
    simp only [tins]
    split
    · simp [tdel]
    · simp only [tdel, List.filter_cons] at ih ⊢; rw [ih]

/-- A second write at a key replaces the first. -/
@[simp] theorem tset_tset [DecidableEq V] (d v v' : V) (t : List (Nat × V)) (k : Nat) :
    tset d (tset d t k v) k v' = tset d t k v' := by
  have h : tdel (tset d t k v) k = tdel t k := by
    simp only [tset]; split
    · exact tdel_tdel t k
    · rw [tdel_tins, tdel_tdel]
  simp only [tset] at h ⊢
  rw [h]

/-- The canonical form from a lower key on. -/
theorem twfFrom_mono [DecidableEq V] (d : V) {lo lo' : Nat} (h : lo' ≤ lo) {t : List (Nat × V)} (w : twfFrom d lo t = true) :
    twfFrom d lo' t = true := by
  cases t with
  | nil => rfl
  | cons c r =>
    obtain ⟨a, x⟩ := c
    simp only [twfFrom, Bool.and_eq_true, decide_eq_true_eq] at w ⊢
    exact ⟨⟨by omega, w.1.2⟩, w.2⟩

theorem twfFrom_filter [DecidableEq V] (d : V) (p : Nat × V → Bool) {lo : Nat} {t : List (Nat × V)}
    (w : twfFrom d lo t = true) : twfFrom d lo (t.filter p) = true := by
  induction t generalizing lo with
  | nil => rfl
  | cons c r ih =>
    obtain ⟨a, x⟩ := c
    simp only [twfFrom, Bool.and_eq_true, decide_eq_true_eq] at w
    simp only [List.filter_cons]
    split
    · simp only [twfFrom, Bool.and_eq_true, decide_eq_true_eq]; exact ⟨w.1, ih w.2⟩
    · exact twfFrom_mono d (by omega) (ih w.2)

theorem twfFrom_tins [DecidableEq V] (d v : V) {lo k : Nat} {t : List (Nat × V)} (hv : v ≠ d) (hk : lo ≤ k)
    (hn : ∀ c ∈ t, c.1 ≠ k) (w : twfFrom d lo t = true) : twfFrom d lo (tins k v t) = true := by
  induction t generalizing lo with
  | nil => simp [tins, twfFrom, hk, hv]
  | cons c r ih =>
    obtain ⟨a, x⟩ := c
    have ha : a ≠ k := hn (a, x) List.mem_cons_self
    simp only [twfFrom, Bool.and_eq_true, decide_eq_true_eq] at w
    simp only [tins]
    split
    · simp only [twfFrom, Bool.and_eq_true, decide_eq_true_eq]
      exact ⟨⟨hk, hv⟩, ⟨⟨by omega, w.1.2⟩, w.2⟩⟩
    · simp only [twfFrom, Bool.and_eq_true, decide_eq_true_eq]
      exact ⟨w.1, ih (by omega) (fun c hc => hn c (List.mem_cons_of_mem _ hc)) w.2⟩

/-- A write keeps the canonical form of a table. -/
theorem twf_tset [DecidableEq V] (d v : V) {t : List (Nat × V)} (k : Nat) (w : twf d t = true) : twf d (tset d t k v) = true := by
  unfold twf tset at *
  split
  · exact twfFrom_filter d _ w
  · exact twfFrom_tins d v ‹_› (Nat.zero_le _) (fun c hc => by simpa [tdel] using (List.mem_filter.mp hc).2)
      (twfFrom_filter d _ w)

theorem tget_append_miss (d : V) (l r : List (Nat × V)) (k : Nat) (h : ∀ c ∈ l, c.1 ≠ k) : tget d (l ++ r) k = tget d r k := by
  induction l with
  | nil => rfl
  | cons c l ih =>
    obtain ⟨a, x⟩ := c
    have ha : a ≠ k := h (a, x) List.mem_cons_self
    simp only [List.cons_append, tget, ha, if_false]
    exact ih (fun c hc => h c (List.mem_cons_of_mem _ hc))

theorem tget_append_last (d : V) (l r : List (Nat × V)) (k : Nat) (h : ∀ c ∈ r, c.1 ≠ k) : tget d (l ++ r) k = tget d l k := by
  induction l with
  | nil =>
    simp only [List.nil_append]
    have := tget_append_miss d r [] k h
    simpa using this
  | cons c l ih =>
    obtain ⟨a, x⟩ := c
    simp only [List.cons_append, tget]
    split
    · rfl
    · exact ih

theorem tget_filter_keep (d : V) (p : Nat → Bool) (t : List (Nat × V)) (k : Nat) (h : p k = true) :
    tget d (t.filter (fun c => p c.1)) k = tget d t k := by
  induction t with
  | nil => rfl
  | cons c r ih =>
    obtain ⟨a, x⟩ := c
    by_cases ha : a = k
    · subst ha; simp [h, tget]
    · simp only [List.filter_cons]
      split <;> simp [tget, ha, ih]

theorem cellsOf_keys (d : Byte) (a : Nat) (bs : List Byte) : ∀ c ∈ cellsOf d a bs, a ≤ c.1 ∧ c.1 < a + bs.length := by
  induction bs generalizing a with
  | nil => simp [cellsOf]
  | cons b r ih =>
    intro c hc
    simp only [cellsOf] at hc
    simp only [List.length_cons]
    split at hc
    · have := ih (a + 1) c hc; omega
    · rcases List.mem_cons.mp hc with h | h
      · subst h; simp
      · have := ih (a + 1) c h; omega

theorem tget_cellsOf (d : Byte) (a : Nat) (bs : List Byte) (i : Nat) (h : i < bs.length) :
    tget d (cellsOf d a bs) (a + i) = bs[i] := by
  induction bs generalizing a i with
  | nil => simp at h
  | cons b r ih =>
    simp only [cellsOf]
    cases i with
    | zero =>
      split
      · have h0 : ∀ c ∈ cellsOf d (a + 1) r, c.1 ≠ a := fun c hc => by have := cellsOf_keys d (a + 1) r c hc; omega
        have := tget_append_miss d (cellsOf d (a + 1) r) [] a h0
        simp only [List.append_nil] at this
        simp [tget, *]
      · simp [tget]
    | succ i =>
      have hi : i < r.length := by simpa using h
      have e : a + (i + 1) = a + 1 + i := by omega
      split
      · rw [e, ih (a + 1) i hi]; rfl
      · have hne : ¬ a = a + (i + 1) := by omega
        simp only [tget, hne, if_false]
        rw [e, ih (a + 1) i hi]; rfl

/-- A byte inside the range just written reads as what was written. -/
theorem rdByte_wrMem_in (d : Byte) (m : List Host.Cell) (a : Nat) (bs : List Byte) (i : Nat) (h : i < bs.length) :
    rdByte d (wrMem d m a bs) (a + i) = bs[i] := by
  unfold rdByte wrMem
  rw [List.append_assoc, tget_append_miss, tget_append_last, tget_cellsOf d a bs i h]
  · intro c hc; have := (List.mem_filter.mp hc).2; simp only [decide_eq_true_eq] at this; omega
  · intro c hc; have := (List.mem_filter.mp hc).2; simp only [decide_eq_true_eq] at this; omega

/-- Every byte outside the range written reads as before. -/
theorem rdByte_wrMem_out (d : Byte) (m : List Host.Cell) (a : Nat) (bs : List Byte) (k : Nat)
    (h : k < a ∨ a + bs.length ≤ k) : rdByte d (wrMem d m a bs) k = rdByte d m k := by
  unfold rdByte wrMem
  have hc : ∀ c ∈ cellsOf d a bs, c.1 ≠ k := fun c hc => by have := cellsOf_keys d a bs c hc; omega
  rcases h with h | h
  · rw [List.append_assoc, tget_append_last]
    · exact tget_filter_keep d (fun j => decide (j < a)) m k (by simpa using h)
    · intro c hm
      rcases List.mem_append.mp hm with hm | hm
      · exact hc c hm
      · have := (List.mem_filter.mp hm).2; simp only [decide_eq_true_eq] at this; omega
  · rw [List.append_assoc, tget_append_miss, tget_append_miss _ _ _ _ hc]
    · exact tget_filter_keep d (fun j => decide (a + bs.length ≤ j)) m k (by simpa using h)
    · intro c hm; have := (List.mem_filter.mp hm).2; simp only [decide_eq_true_eq] at this; omega

theorem twfFrom_append [DecidableEq V] (d : V) {lo mid : Nat} {l r : List (Nat × V)} (wl : twfFrom d lo l = true)
    (hl : ∀ c ∈ l, c.1 < mid) (hm : lo ≤ mid) (wr : twfFrom d mid r = true) : twfFrom d lo (l ++ r) = true := by
  induction l generalizing lo with
  | nil => exact twfFrom_mono d hm wr
  | cons c l ih =>
    obtain ⟨a, x⟩ := c
    simp only [twfFrom, Bool.and_eq_true, decide_eq_true_eq, List.cons_append] at wl ⊢
    have ha : a < mid := hl (a, x) List.mem_cons_self
    exact ⟨wl.1, ih wl.2 (fun c hc => hl c (List.mem_cons_of_mem _ hc)) (by omega)⟩

theorem twfFrom_cellsOf (d : Byte) (a : Nat) (bs : List Byte) : twfFrom d a (cellsOf d a bs) = true := by
  induction bs generalizing a with
  | nil => rfl
  | cons b r ih =>
    simp only [cellsOf]
    split
    · exact twfFrom_mono d (by omega) (ih (a + 1))
    · simp only [twfFrom, Bool.and_eq_true, decide_eq_true_eq]; exact ⟨⟨Nat.le_refl _, ‹_›⟩, ih (a + 1)⟩

theorem twfFrom_above [DecidableEq V] (d : V) {lo : Nat} (n : Nat) {t : List (Nat × V)} (w : twfFrom d lo t = true)
    (h : ∀ c ∈ t, n ≤ c.1) : twfFrom d n t = true := by
  cases t with
  | nil => rfl
  | cons c r =>
    obtain ⟨a, x⟩ := c
    simp only [twfFrom, Bool.and_eq_true, decide_eq_true_eq] at w ⊢
    exact ⟨⟨h (a, x) List.mem_cons_self, w.1.2⟩, w.2⟩

/-- A write keeps the canonical form of a memory. -/
theorem wrMem_wf (d : Byte) {m : List Host.Cell} (a : Nat) (bs : List Byte) (w : Memory.wf d m = true) :
    Memory.wf d (wrMem d m a bs) = true := by
  unfold Memory.wf twf wrMem at *
  have h3 : twfFrom d (a + bs.length) (m.filter (fun c => decide (a + bs.length ≤ c.1))) = true :=
    twfFrom_above d _ (twfFrom_filter d _ w) (fun c hc => by simpa using (List.mem_filter.mp hc).2)
  rw [List.append_assoc]
  refine twfFrom_append d (twfFrom_filter d _ w) (mid := a) (fun c hc => by simpa using (List.mem_filter.mp hc).2)
    (Nat.zero_le _) ?_
  exact twfFrom_append d (twfFrom_cellsOf d a bs) (fun c hc => (cellsOf_keys d a bs c hc).2) (by omega) h3

/-- Dropping cells keeps the canonical form of a memory. -/
theorem filter_wf (d : Byte) {m : List Host.Cell} (p : Host.Cell → Bool) (w : Memory.wf d m = true) :
    Memory.wf d (m.filter p) = true := twfFrom_filter d p w

theorem tget_below [DecidableEq V] (d : V) {lo k : Nat} {t : List (Nat × V)} (w : twfFrom d lo t = true) (h : k < lo) :
    tget d t k = d := by
  induction t generalizing lo with
  | nil => rfl
  | cons c r ih =>
    obtain ⟨a, v⟩ := c
    simp only [twfFrom, Bool.and_eq_true, decide_eq_true_eq] at w
    have : a ≠ k := by omega
    simp only [tget, this, if_false]
    exact ih w.2 (by omega)

theorem readCells_length (d : Byte) (cs : List Host.Cell) (n a : Nat) : (readCells d cs n a).length = n := by
  induction n generalizing cs a with
  | zero => rfl
  | succ n ih =>
    match cs with
    | [] => simp [readCells, ih]
    | (k, b) :: r => simp only [readCells]; split <;> simp [ih]

theorem readCells_getD (d : Byte) {cs : List Host.Cell} {a : Nat} (n i : Nat) (w : twfFrom d a cs = true) (h : i < n) :
    (readCells d cs n a).getD i d = tget d cs (a + i) := by
  induction n generalizing cs a i with
  | zero => omega
  | succ n ih =>
    match cs with
    | [] =>
      cases i with
      | zero => simp [readCells, tget]
      | succ i =>
        simp only [readCells, List.getD_cons_succ]
        rw [ih (cs := []) (a := a + 1) i rfl (by omega)]
        rfl
    | (k, b) :: r =>
      simp only [twfFrom, Bool.and_eq_true, decide_eq_true_eq] at w
      simp only [readCells]
      by_cases hk : k = a
      · subst hk
        simp only [if_true]
        cases i with
        | zero => simp [tget]
        | succ i =>
          rw [List.getD_cons_succ, ih (a := k + 1) i w.2 (by omega)]
          have e : k + (i + 1) = k + 1 + i := by omega
          have ne : k ≠ k + 1 + i := by omega
          simp [tget, e, ne]
      · simp only [hk, if_false]
        cases i with
        | zero =>
          simp only [List.getD_cons_zero, Nat.add_zero, tget, hk, if_false]
          exact (tget_below d w.2 (by omega)).symm
        | succ i =>
          have w' : twfFrom d (a + 1) ((k, b) :: r) = true := by
            simp only [twfFrom, Bool.and_eq_true, decide_eq_true_eq]
            exact ⟨⟨by omega, w.1.2⟩, w.2⟩
          rw [List.getD_cons_succ, ih (a := a + 1) i w' (by omega)]
          congr 1
          omega

theorem rdMem_length (d : Byte) (m : List Host.Cell) (a n : Nat) : (rdMem d m a n).length = n := readCells_length ..

/-- The bytes of a window are the memory's bytes one by one. -/
theorem rdMem_getD (d : Byte) {m : List Host.Cell} (a : Nat) {n i : Nat} (w : Memory.wf d m = true) (h : i < n) :
    (rdMem d m a n).getD i d = rdByte d m (a + i) := by
  unfold rdMem rdByte
  rw [readCells_getD d n i _ h]
  · exact tget_filter_keep d (fun k => decide (a ≤ k) && decide (k < a + n)) m (a + i) (by simp; omega)
  · refine twfFrom_above d a (lo := 0) (twfFrom_filter d _ w) ?_
    intro c hc
    simp only [List.mem_filter, Bool.and_eq_true, decide_eq_true_eq] at hc
    exact hc.2.1

/-- Two lists of the same length with the same elements. -/
theorem ext_getD {d : Byte} {xs ys : List Byte} (hl : xs.length = ys.length) (h : ∀ i, i < ys.length → xs.getD i d = ys.getD i d) :
    xs = ys := by
  apply List.ext_getElem hl
  intro i h1 h2
  have := h i h2
  simpa [List.getD_eq_getElem?_getD, h1, h2] using this

/-- A window read after it was written reads what was written. -/
theorem rdMem_wrMem_same (d : Byte) {m : List Host.Cell} (a : Nat) (bs : List Byte) (w : Memory.wf d m = true) :
    rdMem d (wrMem d m a bs) a bs.length = bs := by
  refine ext_getD (d := d) (rdMem_length ..) ?_
  intro i hi
  rw [rdMem_getD d a (wrMem_wf d a bs w) hi, rdByte_wrMem_in d m a bs i hi]
  simp [List.getD_eq_getElem?_getD, hi]

end Sys2Proof.Machine
end

