-- ==== Sys2Proof/Laws/Save.lean ====
section
/-!
SUPPORT. Sys2Proof/Laws/Save.lean: the lengths of byte strings, and the save area: its length, and that it is intact after
it was written.
-/

namespace Sys2Proof.Machine

@[simp] theorem leBytes_length (n x : Nat) : (leBytes n x).length = n := by
  induction n generalizing x with
  | zero => rfl
  | succ n ih => simp [leBytes, ih]

@[simp] theorem takePad_length {α : Type} (d : α) (n : Nat) (xs : List α) : (takePad d n xs).length = n := by
  induction n generalizing xs with
  | zero => rfl
  | succ n ih => cases xs <;> simp [takePad, ih]

theorem flatMap_length {α β : Type} (f : α → List β) (n : Nat) (h : ∀ a, (f a).length = n) (l : List α) :
    (l.flatMap f).length = n * l.length := by
  induction l with
  | nil => rfl
  | cons a r ih => simp [List.flatMap_cons, h, ih, Nat.mul_add, Nat.add_comm]

/-- A number written in `n` bytes reads back modulo 256 to the n. -/
theorem leNat_leBytes (n x : Nat) : leNat (leBytes n x) = x % 256 ^ n := by
  induction n generalizing x with
  | zero => simp [leBytes, leNat, Nat.mod_one]
  | succ n ih =>
    have h : (BitVec.ofNat 8 x).toNat = x % 256 := by simp
    rw [leBytes, leNat, ih, h, Nat.pow_succ, Nat.mul_comm (256 ^ n) 256, Nat.mod_mul]

/-- The save area without its CRC is 111,100 bytes (R123). -/
theorem saveBytes_length (p : VatProg) (op : OpRef) (m : Nat) : (saveBytes p op m).length = saveSlotBytes - 4 := by
  have t : ∀ t : Tile, (tileBytes t).length = 12 * 4096 := fun t => by
    rw [tileBytes, flatMap_length _ 12 (fun i => leBytes_length ..), upto, List.length_range]
  have f : ∀ t : Tile, (flagBytes t).length = 2048 := fun t => by simp [flagBytes, upto]
  have v : ((upto 2048).flatMap (fun k => leBytes 4 (tget 0 p.v k).toNat)).length = 4 * 2048 := by
    rw [flatMap_length _ 4 (fun i => leBytes_length ..), upto, List.length_range]
  simp only [saveBytes, List.length_append, t, f, v, takePad_length]
  rfl

/-- The save area, which the statements call `saveArea`, is 111,104 bytes. -/
theorem saveArea_length (p : VatProg) (op : OpRef) (m : Nat) : (saveArea p op m).length = saveSlotBytes := by
  simp only [saveArea, List.length_append, saveBytes_length, leBytes_length]
  rfl

theorem crcBit_lt (x : Nat) (h : x < 2 ^ 32) : crcBit 0x82F63B78 x < 2 ^ 32 := by
  unfold crcBit
  split
  · exact Nat.xor_lt_two_pow (by omega) (by decide)
  · omega

theorem foldl_lt {α : Type} (f : Nat → α → Nat) (h : ∀ x a, x < 2 ^ 32 → f x a < 2 ^ 32) (l : List α) (x : Nat) (hx : x < 2 ^ 32) :
    l.foldl f x < 2 ^ 32 := by
  induction l generalizing x with
  | nil => exact hx
  | cons a r ih => exact ih _ (h x a hx)

/-- A CRC-32C is a 32-bit number. -/
theorem crc32c_lt (bs : List Byte) : crc32c bs < 2 ^ 32 := by
  refine Nat.xor_lt_two_pow (foldl_lt _ (fun x b hx => ?_) bs _ (by decide)) (by decide)
  refine foldl_lt _ (fun y _ hy => crcBit_lt y hy) _ _ (Nat.xor_lt_two_pow hx ?_)
  have := b.isLt
  omega

/-- A save area that was written and has no bad word is intact (R124). -/
theorem areaOk_caveStore {x : Wheel} (v k : Nat) (p : VatProg) (op : OpRef) (m : Nat) (w : Memory.wf 0 x.cave = true) (hb : x.caveBad = []) :
    areaOk (caveStore x (bankAddr v (slotOffset x.saveSlots k)) (saveArea p op m)) v k = true := by
  have r : caveRead (caveStore x (bankAddr v (slotOffset x.saveSlots k)) (saveArea p op m))
      (bankAddr v (slotOffset x.saveSlots k)) saveSlotBytes = saveArea p op m := by
    have := rdMem_wrMem_same 0 (bankAddr v (slotOffset x.saveSlots k)) (saveArea p op m) w
    rwa [saveArea_length] at this
  have d : (saveArea p op m).take (saveSlotBytes - 4) = saveBytes p op m := by
    rw [saveArea, ← saveBytes_length p op m, List.take_left]
  have e : (saveArea p op m).drop (saveSlotBytes - 4) = leBytes 4 (crc32c (saveBytes p op m)) := by
    rw [saveArea, ← saveBytes_length p op m, List.drop_left]
  have u : caveUncorr (caveStore x (bankAddr v (slotOffset x.saveSlots k)) (saveArea p op m))
      (bankAddr v (slotOffset x.saveSlots k)) saveSlotBytes = false := by simp [caveUncorr, caveStore, hb]
  have c : leNat (leBytes 4 (crc32c (saveBytes p op m))) = crc32c (saveBytes p op m) := by
    rw [leNat_leBytes]
    exact Nat.mod_eq_of_lt (crc32c_lt _)
  unfold areaOk
  rw [show (caveStore x (bankAddr v (slotOffset x.saveSlots k)) (saveArea p op m)).saveSlots = x.saveSlots from rfl]
  simp only [r, d, e, u, c]
  simp

end Sys2Proof.Machine
end

