-- ==== Sys2Proof/Laws/State.lean ====
section
/-!
SUPPORT. Sys2Proof/Laws/State.lean: each update leaves every other field alone, one lemma for each field, and what is read
back after it.
-/

namespace Sys2Proof.Machine

/-! ## Updates of the module -/

@[simp] theorem setWheel_pending (s : State) (w : Nat) (x : Wheel) : (setWheel s w x).pending = s.pending := rfl
@[simp] theorem setWheel_mesh (s : State) (w : Nat) (x : Wheel) : (setWheel s w x).mesh = s.mesh := rfl
@[simp] theorem setWheel_free (s : State) (w : Nat) (x : Wheel) : (setWheel s w x).free = s.free := rfl
@[simp] theorem setWheel_small (s : State) (w : Nat) (x : Wheel) : (setWheel s w x).small = s.small := rfl
@[simp] theorem setWheel_now (s : State) (w : Nat) (x : Wheel) : (setWheel s w x).now = s.now := rfl
@[simp] theorem setWheel_dieDown (s : State) (w : Nat) (x : Wheel) : (setWheel s w x).dieDown = s.dieDown := rfl
@[simp] theorem setWheel_ctxs (s : State) (w : Nat) (x : Wheel) : (setWheel s w x).ctxs = s.ctxs := rfl
@[simp] theorem setWheel_ports (s : State) (w : Nat) (x : Wheel) : (setWheel s w x).ports = s.ports := rfl
@[simp] theorem setWheel_hosts (s : State) (w : Nat) (x : Wheel) : (setWheel s w x).hosts = s.hosts := rfl
@[simp] theorem setWheel_out (s : State) (w : Nat) (x : Wheel) : (setWheel s w x).out = s.out := rfl
@[simp] theorem setWheel_crm (s : State) (w : Nat) (x : Wheel) : (setWheel s w x).crm = s.crm := rfl
@[simp] theorem setWheel_culture (s : State) (w : Nat) (x : Wheel) : (setWheel s w x).culture = s.culture := rfl
@[simp] theorem setWheel_order (s : State) (w : Nat) (x : Wheel) : (setWheel s w x).order = s.order := rfl
@[simp] theorem setWheel_offer (s : State) (w : Nat) (x : Wheel) : (setWheel s w x).offer = s.offer := rfl
@[simp] theorem setWheel_assign (s : State) (w : Nat) (x : Wheel) : (setWheel s w x).assign = s.assign := rfl
@[simp] theorem setWheel_adoptMs (s : State) (w : Nat) (x : Wheel) : (setWheel s w x).adoptMs = s.adoptMs := rfl
@[simp] theorem setWheel_recovery (s : State) (w : Nat) (x : Wheel) : (setWheel s w x).recovery = s.recovery := rfl
@[simp] theorem setWheel_outOfService (s : State) (w : Nat) (x : Wheel) : (setWheel s w x).outOfService = s.outOfService := rfl
@[simp] theorem setWheel_node (s : State) (w : Nat) (x : Wheel) : (setWheel s w x).node = s.node := rfl
@[simp] theorem setWheel_signedPlans (s : State) (w : Nat) (x : Wheel) : (setWheel s w x).signedPlans = s.signedPlans := rfl
@[simp] theorem setWheel_migs (s : State) (w : Nat) (x : Wheel) : (setWheel s w x).migs = s.migs := rfl
@[simp] theorem setWheel_migrEn (s : State) (w : Nat) (x : Wheel) : (setWheel s w x).migrEn = s.migrEn := rfl
@[simp] theorem setWheel_migrImbal (s : State) (w : Nat) (x : Wheel) : (setWheel s w x).migrImbal = s.migrImbal := rfl
@[simp] theorem setWheel_serial (s : State) (w : Nat) (x : Wheel) : (setWheel s w x).serial = s.serial := rfl
@[simp] theorem setWheel_unwashedFlash (s : State) (w : Nat) (x : Wheel) : (setWheel s w x).unwashedFlash = s.unwashedFlash := rfl
@[simp] theorem setWheel_rst (s : State) (w : Nat) (x : Wheel) : (setWheel s w x).rst = s.rst := rfl
@[simp] theorem setWheel_clks (s : State) (w : Nat) (x : Wheel) : (setWheel s w x).clks = s.clks := rfl
@[simp] theorem setWheel_cul (s : State) (w : Nat) (x : Wheel) : (setWheel s w x).cul = s.cul := rfl
@[simp] theorem setWheel_sea (s : State) (w : Nat) (x : Wheel) : (setWheel s w x).sea = s.sea := rfl
@[simp] theorem setWheel_pwr (s : State) (w : Nat) (x : Wheel) : (setWheel s w x).pwr = s.pwr := rfl
@[simp] theorem setWheel_rdVal (s : State) (w : Nat) (x : Wheel) : (setWheel s w x).rdVal = s.rdVal := rfl
@[simp] theorem setWheel_rdBytes (s : State) (w : Nat) (x : Wheel) : (setWheel s w x).rdBytes = s.rdBytes := rfl
@[simp] theorem setWheel_rdCode (s : State) (w : Nat) (x : Wheel) : (setWheel s w x).rdCode = s.rdCode := rfl

@[simp] theorem onWheel_pending (s : State) (w : Nat) (f : Wheel → Wheel) : (onWheel s w f).pending = s.pending := rfl
@[simp] theorem onWheel_mesh (s : State) (w : Nat) (f : Wheel → Wheel) : (onWheel s w f).mesh = s.mesh := rfl
@[simp] theorem onWheel_free (s : State) (w : Nat) (f : Wheel → Wheel) : (onWheel s w f).free = s.free := rfl
@[simp] theorem onWheel_small (s : State) (w : Nat) (f : Wheel → Wheel) : (onWheel s w f).small = s.small := rfl
@[simp] theorem onWheel_now (s : State) (w : Nat) (f : Wheel → Wheel) : (onWheel s w f).now = s.now := rfl
@[simp] theorem onWheel_dieDown (s : State) (w : Nat) (f : Wheel → Wheel) : (onWheel s w f).dieDown = s.dieDown := rfl
@[simp] theorem onWheel_ctxs (s : State) (w : Nat) (f : Wheel → Wheel) : (onWheel s w f).ctxs = s.ctxs := rfl
@[simp] theorem onWheel_ports (s : State) (w : Nat) (f : Wheel → Wheel) : (onWheel s w f).ports = s.ports := rfl
@[simp] theorem onWheel_hosts (s : State) (w : Nat) (f : Wheel → Wheel) : (onWheel s w f).hosts = s.hosts := rfl
@[simp] theorem onWheel_out (s : State) (w : Nat) (f : Wheel → Wheel) : (onWheel s w f).out = s.out := rfl
@[simp] theorem onWheel_crm (s : State) (w : Nat) (f : Wheel → Wheel) : (onWheel s w f).crm = s.crm := rfl
@[simp] theorem onWheel_culture (s : State) (w : Nat) (f : Wheel → Wheel) : (onWheel s w f).culture = s.culture := rfl
@[simp] theorem onWheel_order (s : State) (w : Nat) (f : Wheel → Wheel) : (onWheel s w f).order = s.order := rfl
@[simp] theorem onWheel_offer (s : State) (w : Nat) (f : Wheel → Wheel) : (onWheel s w f).offer = s.offer := rfl
@[simp] theorem onWheel_assign (s : State) (w : Nat) (f : Wheel → Wheel) : (onWheel s w f).assign = s.assign := rfl
@[simp] theorem onWheel_adoptMs (s : State) (w : Nat) (f : Wheel → Wheel) : (onWheel s w f).adoptMs = s.adoptMs := rfl
@[simp] theorem onWheel_recovery (s : State) (w : Nat) (f : Wheel → Wheel) : (onWheel s w f).recovery = s.recovery := rfl
@[simp] theorem onWheel_outOfService (s : State) (w : Nat) (f : Wheel → Wheel) : (onWheel s w f).outOfService = s.outOfService := rfl
@[simp] theorem onWheel_node (s : State) (w : Nat) (f : Wheel → Wheel) : (onWheel s w f).node = s.node := rfl
@[simp] theorem onWheel_signedPlans (s : State) (w : Nat) (f : Wheel → Wheel) : (onWheel s w f).signedPlans = s.signedPlans := rfl
@[simp] theorem onWheel_migs (s : State) (w : Nat) (f : Wheel → Wheel) : (onWheel s w f).migs = s.migs := rfl
@[simp] theorem onWheel_migrEn (s : State) (w : Nat) (f : Wheel → Wheel) : (onWheel s w f).migrEn = s.migrEn := rfl
@[simp] theorem onWheel_migrImbal (s : State) (w : Nat) (f : Wheel → Wheel) : (onWheel s w f).migrImbal = s.migrImbal := rfl
@[simp] theorem onWheel_serial (s : State) (w : Nat) (f : Wheel → Wheel) : (onWheel s w f).serial = s.serial := rfl
@[simp] theorem onWheel_unwashedFlash (s : State) (w : Nat) (f : Wheel → Wheel) : (onWheel s w f).unwashedFlash = s.unwashedFlash := rfl
@[simp] theorem onWheel_rst (s : State) (w : Nat) (f : Wheel → Wheel) : (onWheel s w f).rst = s.rst := rfl
@[simp] theorem onWheel_clks (s : State) (w : Nat) (f : Wheel → Wheel) : (onWheel s w f).clks = s.clks := rfl
@[simp] theorem onWheel_cul (s : State) (w : Nat) (f : Wheel → Wheel) : (onWheel s w f).cul = s.cul := rfl
@[simp] theorem onWheel_sea (s : State) (w : Nat) (f : Wheel → Wheel) : (onWheel s w f).sea = s.sea := rfl
@[simp] theorem onWheel_pwr (s : State) (w : Nat) (f : Wheel → Wheel) : (onWheel s w f).pwr = s.pwr := rfl
@[simp] theorem onWheel_rdVal (s : State) (w : Nat) (f : Wheel → Wheel) : (onWheel s w f).rdVal = s.rdVal := rfl
@[simp] theorem onWheel_rdBytes (s : State) (w : Nat) (f : Wheel → Wheel) : (onWheel s w f).rdBytes = s.rdBytes := rfl
@[simp] theorem onWheel_rdCode (s : State) (w : Nat) (f : Wheel → Wheel) : (onWheel s w f).rdCode = s.rdCode := rfl

@[simp] theorem setPort_pending (s : State) (p : Nat) (x : Port) : (setPort s p x).pending = s.pending := rfl
@[simp] theorem setPort_wheels (s : State) (p : Nat) (x : Port) : (setPort s p x).wheels = s.wheels := rfl
@[simp] theorem setPort_mesh (s : State) (p : Nat) (x : Port) : (setPort s p x).mesh = s.mesh := rfl
@[simp] theorem setPort_free (s : State) (p : Nat) (x : Port) : (setPort s p x).free = s.free := rfl
@[simp] theorem setPort_small (s : State) (p : Nat) (x : Port) : (setPort s p x).small = s.small := rfl
@[simp] theorem setPort_now (s : State) (p : Nat) (x : Port) : (setPort s p x).now = s.now := rfl
@[simp] theorem setPort_dieDown (s : State) (p : Nat) (x : Port) : (setPort s p x).dieDown = s.dieDown := rfl
@[simp] theorem setPort_ctxs (s : State) (p : Nat) (x : Port) : (setPort s p x).ctxs = s.ctxs := rfl
@[simp] theorem setPort_hosts (s : State) (p : Nat) (x : Port) : (setPort s p x).hosts = s.hosts := rfl
@[simp] theorem setPort_out (s : State) (p : Nat) (x : Port) : (setPort s p x).out = s.out := rfl
@[simp] theorem setPort_crm (s : State) (p : Nat) (x : Port) : (setPort s p x).crm = s.crm := rfl
@[simp] theorem setPort_culture (s : State) (p : Nat) (x : Port) : (setPort s p x).culture = s.culture := rfl
@[simp] theorem setPort_order (s : State) (p : Nat) (x : Port) : (setPort s p x).order = s.order := rfl
@[simp] theorem setPort_offer (s : State) (p : Nat) (x : Port) : (setPort s p x).offer = s.offer := rfl
@[simp] theorem setPort_assign (s : State) (p : Nat) (x : Port) : (setPort s p x).assign = s.assign := rfl
@[simp] theorem setPort_adoptMs (s : State) (p : Nat) (x : Port) : (setPort s p x).adoptMs = s.adoptMs := rfl
@[simp] theorem setPort_recovery (s : State) (p : Nat) (x : Port) : (setPort s p x).recovery = s.recovery := rfl
@[simp] theorem setPort_outOfService (s : State) (p : Nat) (x : Port) : (setPort s p x).outOfService = s.outOfService := rfl
@[simp] theorem setPort_node (s : State) (p : Nat) (x : Port) : (setPort s p x).node = s.node := rfl
@[simp] theorem setPort_signedPlans (s : State) (p : Nat) (x : Port) : (setPort s p x).signedPlans = s.signedPlans := rfl
@[simp] theorem setPort_migs (s : State) (p : Nat) (x : Port) : (setPort s p x).migs = s.migs := rfl
@[simp] theorem setPort_migrEn (s : State) (p : Nat) (x : Port) : (setPort s p x).migrEn = s.migrEn := rfl
@[simp] theorem setPort_migrImbal (s : State) (p : Nat) (x : Port) : (setPort s p x).migrImbal = s.migrImbal := rfl
@[simp] theorem setPort_serial (s : State) (p : Nat) (x : Port) : (setPort s p x).serial = s.serial := rfl
@[simp] theorem setPort_unwashedFlash (s : State) (p : Nat) (x : Port) : (setPort s p x).unwashedFlash = s.unwashedFlash := rfl
@[simp] theorem setPort_rst (s : State) (p : Nat) (x : Port) : (setPort s p x).rst = s.rst := rfl
@[simp] theorem setPort_clks (s : State) (p : Nat) (x : Port) : (setPort s p x).clks = s.clks := rfl
@[simp] theorem setPort_cul (s : State) (p : Nat) (x : Port) : (setPort s p x).cul = s.cul := rfl
@[simp] theorem setPort_sea (s : State) (p : Nat) (x : Port) : (setPort s p x).sea = s.sea := rfl
@[simp] theorem setPort_pwr (s : State) (p : Nat) (x : Port) : (setPort s p x).pwr = s.pwr := rfl
@[simp] theorem setPort_rdVal (s : State) (p : Nat) (x : Port) : (setPort s p x).rdVal = s.rdVal := rfl
@[simp] theorem setPort_rdBytes (s : State) (p : Nat) (x : Port) : (setPort s p x).rdBytes = s.rdBytes := rfl
@[simp] theorem setPort_rdCode (s : State) (p : Nat) (x : Port) : (setPort s p x).rdCode = s.rdCode := rfl

@[simp] theorem onPort_pending (s : State) (p : Nat) (f : Port → Port) : (onPort s p f).pending = s.pending := rfl
@[simp] theorem onPort_wheels (s : State) (p : Nat) (f : Port → Port) : (onPort s p f).wheels = s.wheels := rfl
@[simp] theorem onPort_mesh (s : State) (p : Nat) (f : Port → Port) : (onPort s p f).mesh = s.mesh := rfl
@[simp] theorem onPort_free (s : State) (p : Nat) (f : Port → Port) : (onPort s p f).free = s.free := rfl
@[simp] theorem onPort_small (s : State) (p : Nat) (f : Port → Port) : (onPort s p f).small = s.small := rfl
@[simp] theorem onPort_now (s : State) (p : Nat) (f : Port → Port) : (onPort s p f).now = s.now := rfl
@[simp] theorem onPort_dieDown (s : State) (p : Nat) (f : Port → Port) : (onPort s p f).dieDown = s.dieDown := rfl
@[simp] theorem onPort_ctxs (s : State) (p : Nat) (f : Port → Port) : (onPort s p f).ctxs = s.ctxs := rfl
@[simp] theorem onPort_hosts (s : State) (p : Nat) (f : Port → Port) : (onPort s p f).hosts = s.hosts := rfl
@[simp] theorem onPort_out (s : State) (p : Nat) (f : Port → Port) : (onPort s p f).out = s.out := rfl
@[simp] theorem onPort_crm (s : State) (p : Nat) (f : Port → Port) : (onPort s p f).crm = s.crm := rfl
@[simp] theorem onPort_culture (s : State) (p : Nat) (f : Port → Port) : (onPort s p f).culture = s.culture := rfl
@[simp] theorem onPort_order (s : State) (p : Nat) (f : Port → Port) : (onPort s p f).order = s.order := rfl
@[simp] theorem onPort_offer (s : State) (p : Nat) (f : Port → Port) : (onPort s p f).offer = s.offer := rfl
@[simp] theorem onPort_assign (s : State) (p : Nat) (f : Port → Port) : (onPort s p f).assign = s.assign := rfl
@[simp] theorem onPort_adoptMs (s : State) (p : Nat) (f : Port → Port) : (onPort s p f).adoptMs = s.adoptMs := rfl
@[simp] theorem onPort_recovery (s : State) (p : Nat) (f : Port → Port) : (onPort s p f).recovery = s.recovery := rfl
@[simp] theorem onPort_outOfService (s : State) (p : Nat) (f : Port → Port) : (onPort s p f).outOfService = s.outOfService := rfl
@[simp] theorem onPort_node (s : State) (p : Nat) (f : Port → Port) : (onPort s p f).node = s.node := rfl
@[simp] theorem onPort_signedPlans (s : State) (p : Nat) (f : Port → Port) : (onPort s p f).signedPlans = s.signedPlans := rfl
@[simp] theorem onPort_migs (s : State) (p : Nat) (f : Port → Port) : (onPort s p f).migs = s.migs := rfl
@[simp] theorem onPort_migrEn (s : State) (p : Nat) (f : Port → Port) : (onPort s p f).migrEn = s.migrEn := rfl
@[simp] theorem onPort_migrImbal (s : State) (p : Nat) (f : Port → Port) : (onPort s p f).migrImbal = s.migrImbal := rfl
@[simp] theorem onPort_serial (s : State) (p : Nat) (f : Port → Port) : (onPort s p f).serial = s.serial := rfl
@[simp] theorem onPort_unwashedFlash (s : State) (p : Nat) (f : Port → Port) : (onPort s p f).unwashedFlash = s.unwashedFlash := rfl
@[simp] theorem onPort_rst (s : State) (p : Nat) (f : Port → Port) : (onPort s p f).rst = s.rst := rfl
@[simp] theorem onPort_clks (s : State) (p : Nat) (f : Port → Port) : (onPort s p f).clks = s.clks := rfl
@[simp] theorem onPort_cul (s : State) (p : Nat) (f : Port → Port) : (onPort s p f).cul = s.cul := rfl
@[simp] theorem onPort_sea (s : State) (p : Nat) (f : Port → Port) : (onPort s p f).sea = s.sea := rfl
@[simp] theorem onPort_pwr (s : State) (p : Nat) (f : Port → Port) : (onPort s p f).pwr = s.pwr := rfl
@[simp] theorem onPort_rdVal (s : State) (p : Nat) (f : Port → Port) : (onPort s p f).rdVal = s.rdVal := rfl
@[simp] theorem onPort_rdBytes (s : State) (p : Nat) (f : Port → Port) : (onPort s p f).rdBytes = s.rdBytes := rfl
@[simp] theorem onPort_rdCode (s : State) (p : Nat) (f : Port → Port) : (onPort s p f).rdCode = s.rdCode := rfl

@[simp] theorem setCtx_pending (s : State) (c : Nat) (x : Ctx) : (setCtx s c x).pending = s.pending := rfl
@[simp] theorem setCtx_wheels (s : State) (c : Nat) (x : Ctx) : (setCtx s c x).wheels = s.wheels := rfl
@[simp] theorem setCtx_mesh (s : State) (c : Nat) (x : Ctx) : (setCtx s c x).mesh = s.mesh := rfl
@[simp] theorem setCtx_free (s : State) (c : Nat) (x : Ctx) : (setCtx s c x).free = s.free := rfl
@[simp] theorem setCtx_small (s : State) (c : Nat) (x : Ctx) : (setCtx s c x).small = s.small := rfl
@[simp] theorem setCtx_now (s : State) (c : Nat) (x : Ctx) : (setCtx s c x).now = s.now := rfl
@[simp] theorem setCtx_dieDown (s : State) (c : Nat) (x : Ctx) : (setCtx s c x).dieDown = s.dieDown := rfl
@[simp] theorem setCtx_ports (s : State) (c : Nat) (x : Ctx) : (setCtx s c x).ports = s.ports := rfl
@[simp] theorem setCtx_hosts (s : State) (c : Nat) (x : Ctx) : (setCtx s c x).hosts = s.hosts := rfl
@[simp] theorem setCtx_out (s : State) (c : Nat) (x : Ctx) : (setCtx s c x).out = s.out := rfl
@[simp] theorem setCtx_crm (s : State) (c : Nat) (x : Ctx) : (setCtx s c x).crm = s.crm := rfl
@[simp] theorem setCtx_culture (s : State) (c : Nat) (x : Ctx) : (setCtx s c x).culture = s.culture := rfl
@[simp] theorem setCtx_order (s : State) (c : Nat) (x : Ctx) : (setCtx s c x).order = s.order := rfl
@[simp] theorem setCtx_offer (s : State) (c : Nat) (x : Ctx) : (setCtx s c x).offer = s.offer := rfl
@[simp] theorem setCtx_assign (s : State) (c : Nat) (x : Ctx) : (setCtx s c x).assign = s.assign := rfl
@[simp] theorem setCtx_adoptMs (s : State) (c : Nat) (x : Ctx) : (setCtx s c x).adoptMs = s.adoptMs := rfl
@[simp] theorem setCtx_recovery (s : State) (c : Nat) (x : Ctx) : (setCtx s c x).recovery = s.recovery := rfl
@[simp] theorem setCtx_outOfService (s : State) (c : Nat) (x : Ctx) : (setCtx s c x).outOfService = s.outOfService := rfl
@[simp] theorem setCtx_node (s : State) (c : Nat) (x : Ctx) : (setCtx s c x).node = s.node := rfl
@[simp] theorem setCtx_signedPlans (s : State) (c : Nat) (x : Ctx) : (setCtx s c x).signedPlans = s.signedPlans := rfl
@[simp] theorem setCtx_migs (s : State) (c : Nat) (x : Ctx) : (setCtx s c x).migs = s.migs := rfl
@[simp] theorem setCtx_migrEn (s : State) (c : Nat) (x : Ctx) : (setCtx s c x).migrEn = s.migrEn := rfl
@[simp] theorem setCtx_migrImbal (s : State) (c : Nat) (x : Ctx) : (setCtx s c x).migrImbal = s.migrImbal := rfl
@[simp] theorem setCtx_serial (s : State) (c : Nat) (x : Ctx) : (setCtx s c x).serial = s.serial := rfl
@[simp] theorem setCtx_unwashedFlash (s : State) (c : Nat) (x : Ctx) : (setCtx s c x).unwashedFlash = s.unwashedFlash := rfl
@[simp] theorem setCtx_rst (s : State) (c : Nat) (x : Ctx) : (setCtx s c x).rst = s.rst := rfl
@[simp] theorem setCtx_clks (s : State) (c : Nat) (x : Ctx) : (setCtx s c x).clks = s.clks := rfl
@[simp] theorem setCtx_cul (s : State) (c : Nat) (x : Ctx) : (setCtx s c x).cul = s.cul := rfl
@[simp] theorem setCtx_sea (s : State) (c : Nat) (x : Ctx) : (setCtx s c x).sea = s.sea := rfl
@[simp] theorem setCtx_pwr (s : State) (c : Nat) (x : Ctx) : (setCtx s c x).pwr = s.pwr := rfl
@[simp] theorem setCtx_rdVal (s : State) (c : Nat) (x : Ctx) : (setCtx s c x).rdVal = s.rdVal := rfl
@[simp] theorem setCtx_rdBytes (s : State) (c : Nat) (x : Ctx) : (setCtx s c x).rdBytes = s.rdBytes := rfl
@[simp] theorem setCtx_rdCode (s : State) (c : Nat) (x : Ctx) : (setCtx s c x).rdCode = s.rdCode := rfl

@[simp] theorem onCtx_pending (s : State) (c : Nat) (f : Ctx → Ctx) : (onCtx s c f).pending = s.pending := rfl
@[simp] theorem onCtx_wheels (s : State) (c : Nat) (f : Ctx → Ctx) : (onCtx s c f).wheels = s.wheels := rfl
@[simp] theorem onCtx_mesh (s : State) (c : Nat) (f : Ctx → Ctx) : (onCtx s c f).mesh = s.mesh := rfl
@[simp] theorem onCtx_free (s : State) (c : Nat) (f : Ctx → Ctx) : (onCtx s c f).free = s.free := rfl
@[simp] theorem onCtx_small (s : State) (c : Nat) (f : Ctx → Ctx) : (onCtx s c f).small = s.small := rfl
@[simp] theorem onCtx_now (s : State) (c : Nat) (f : Ctx → Ctx) : (onCtx s c f).now = s.now := rfl
@[simp] theorem onCtx_dieDown (s : State) (c : Nat) (f : Ctx → Ctx) : (onCtx s c f).dieDown = s.dieDown := rfl
@[simp] theorem onCtx_ports (s : State) (c : Nat) (f : Ctx → Ctx) : (onCtx s c f).ports = s.ports := rfl
@[simp] theorem onCtx_hosts (s : State) (c : Nat) (f : Ctx → Ctx) : (onCtx s c f).hosts = s.hosts := rfl
@[simp] theorem onCtx_out (s : State) (c : Nat) (f : Ctx → Ctx) : (onCtx s c f).out = s.out := rfl
@[simp] theorem onCtx_crm (s : State) (c : Nat) (f : Ctx → Ctx) : (onCtx s c f).crm = s.crm := rfl
@[simp] theorem onCtx_culture (s : State) (c : Nat) (f : Ctx → Ctx) : (onCtx s c f).culture = s.culture := rfl
@[simp] theorem onCtx_order (s : State) (c : Nat) (f : Ctx → Ctx) : (onCtx s c f).order = s.order := rfl
@[simp] theorem onCtx_offer (s : State) (c : Nat) (f : Ctx → Ctx) : (onCtx s c f).offer = s.offer := rfl
@[simp] theorem onCtx_assign (s : State) (c : Nat) (f : Ctx → Ctx) : (onCtx s c f).assign = s.assign := rfl
@[simp] theorem onCtx_adoptMs (s : State) (c : Nat) (f : Ctx → Ctx) : (onCtx s c f).adoptMs = s.adoptMs := rfl
@[simp] theorem onCtx_recovery (s : State) (c : Nat) (f : Ctx → Ctx) : (onCtx s c f).recovery = s.recovery := rfl
@[simp] theorem onCtx_outOfService (s : State) (c : Nat) (f : Ctx → Ctx) : (onCtx s c f).outOfService = s.outOfService := rfl
@[simp] theorem onCtx_node (s : State) (c : Nat) (f : Ctx → Ctx) : (onCtx s c f).node = s.node := rfl
@[simp] theorem onCtx_signedPlans (s : State) (c : Nat) (f : Ctx → Ctx) : (onCtx s c f).signedPlans = s.signedPlans := rfl
@[simp] theorem onCtx_migs (s : State) (c : Nat) (f : Ctx → Ctx) : (onCtx s c f).migs = s.migs := rfl
@[simp] theorem onCtx_migrEn (s : State) (c : Nat) (f : Ctx → Ctx) : (onCtx s c f).migrEn = s.migrEn := rfl
@[simp] theorem onCtx_migrImbal (s : State) (c : Nat) (f : Ctx → Ctx) : (onCtx s c f).migrImbal = s.migrImbal := rfl
@[simp] theorem onCtx_serial (s : State) (c : Nat) (f : Ctx → Ctx) : (onCtx s c f).serial = s.serial := rfl
@[simp] theorem onCtx_unwashedFlash (s : State) (c : Nat) (f : Ctx → Ctx) : (onCtx s c f).unwashedFlash = s.unwashedFlash := rfl
@[simp] theorem onCtx_rst (s : State) (c : Nat) (f : Ctx → Ctx) : (onCtx s c f).rst = s.rst := rfl
@[simp] theorem onCtx_clks (s : State) (c : Nat) (f : Ctx → Ctx) : (onCtx s c f).clks = s.clks := rfl
@[simp] theorem onCtx_cul (s : State) (c : Nat) (f : Ctx → Ctx) : (onCtx s c f).cul = s.cul := rfl
@[simp] theorem onCtx_sea (s : State) (c : Nat) (f : Ctx → Ctx) : (onCtx s c f).sea = s.sea := rfl
@[simp] theorem onCtx_pwr (s : State) (c : Nat) (f : Ctx → Ctx) : (onCtx s c f).pwr = s.pwr := rfl
@[simp] theorem onCtx_rdVal (s : State) (c : Nat) (f : Ctx → Ctx) : (onCtx s c f).rdVal = s.rdVal := rfl
@[simp] theorem onCtx_rdBytes (s : State) (c : Nat) (f : Ctx → Ctx) : (onCtx s c f).rdBytes = s.rdBytes := rfl
@[simp] theorem onCtx_rdCode (s : State) (c : Nat) (f : Ctx → Ctx) : (onCtx s c f).rdCode = s.rdCode := rfl

@[simp] theorem onCrm_pending (s : State) (f : Crm → Crm) : (onCrm s f).pending = s.pending := rfl
@[simp] theorem onCrm_wheels (s : State) (f : Crm → Crm) : (onCrm s f).wheels = s.wheels := rfl
@[simp] theorem onCrm_mesh (s : State) (f : Crm → Crm) : (onCrm s f).mesh = s.mesh := rfl
@[simp] theorem onCrm_free (s : State) (f : Crm → Crm) : (onCrm s f).free = s.free := rfl
@[simp] theorem onCrm_small (s : State) (f : Crm → Crm) : (onCrm s f).small = s.small := rfl
@[simp] theorem onCrm_now (s : State) (f : Crm → Crm) : (onCrm s f).now = s.now := rfl
@[simp] theorem onCrm_dieDown (s : State) (f : Crm → Crm) : (onCrm s f).dieDown = s.dieDown := rfl
@[simp] theorem onCrm_ctxs (s : State) (f : Crm → Crm) : (onCrm s f).ctxs = s.ctxs := rfl
@[simp] theorem onCrm_ports (s : State) (f : Crm → Crm) : (onCrm s f).ports = s.ports := rfl
@[simp] theorem onCrm_hosts (s : State) (f : Crm → Crm) : (onCrm s f).hosts = s.hosts := rfl
@[simp] theorem onCrm_out (s : State) (f : Crm → Crm) : (onCrm s f).out = s.out := rfl
@[simp] theorem onCrm_culture (s : State) (f : Crm → Crm) : (onCrm s f).culture = s.culture := rfl
@[simp] theorem onCrm_order (s : State) (f : Crm → Crm) : (onCrm s f).order = s.order := rfl
@[simp] theorem onCrm_offer (s : State) (f : Crm → Crm) : (onCrm s f).offer = s.offer := rfl
@[simp] theorem onCrm_assign (s : State) (f : Crm → Crm) : (onCrm s f).assign = s.assign := rfl
@[simp] theorem onCrm_adoptMs (s : State) (f : Crm → Crm) : (onCrm s f).adoptMs = s.adoptMs := rfl
@[simp] theorem onCrm_recovery (s : State) (f : Crm → Crm) : (onCrm s f).recovery = s.recovery := rfl
@[simp] theorem onCrm_outOfService (s : State) (f : Crm → Crm) : (onCrm s f).outOfService = s.outOfService := rfl
@[simp] theorem onCrm_node (s : State) (f : Crm → Crm) : (onCrm s f).node = s.node := rfl
@[simp] theorem onCrm_signedPlans (s : State) (f : Crm → Crm) : (onCrm s f).signedPlans = s.signedPlans := rfl
@[simp] theorem onCrm_migs (s : State) (f : Crm → Crm) : (onCrm s f).migs = s.migs := rfl
@[simp] theorem onCrm_migrEn (s : State) (f : Crm → Crm) : (onCrm s f).migrEn = s.migrEn := rfl
@[simp] theorem onCrm_migrImbal (s : State) (f : Crm → Crm) : (onCrm s f).migrImbal = s.migrImbal := rfl
@[simp] theorem onCrm_serial (s : State) (f : Crm → Crm) : (onCrm s f).serial = s.serial := rfl
@[simp] theorem onCrm_unwashedFlash (s : State) (f : Crm → Crm) : (onCrm s f).unwashedFlash = s.unwashedFlash := rfl
@[simp] theorem onCrm_rst (s : State) (f : Crm → Crm) : (onCrm s f).rst = s.rst := rfl
@[simp] theorem onCrm_clks (s : State) (f : Crm → Crm) : (onCrm s f).clks = s.clks := rfl
@[simp] theorem onCrm_cul (s : State) (f : Crm → Crm) : (onCrm s f).cul = s.cul := rfl
@[simp] theorem onCrm_sea (s : State) (f : Crm → Crm) : (onCrm s f).sea = s.sea := rfl
@[simp] theorem onCrm_pwr (s : State) (f : Crm → Crm) : (onCrm s f).pwr = s.pwr := rfl
@[simp] theorem onCrm_rdVal (s : State) (f : Crm → Crm) : (onCrm s f).rdVal = s.rdVal := rfl
@[simp] theorem onCrm_rdBytes (s : State) (f : Crm → Crm) : (onCrm s f).rdBytes = s.rdBytes := rfl
@[simp] theorem onCrm_rdCode (s : State) (f : Crm → Crm) : (onCrm s f).rdCode = s.rdCode := rfl

@[simp] theorem onRst_pending (s : State) (f : Rst → Rst) : (onRst s f).pending = s.pending := rfl
@[simp] theorem onRst_wheels (s : State) (f : Rst → Rst) : (onRst s f).wheels = s.wheels := rfl
@[simp] theorem onRst_mesh (s : State) (f : Rst → Rst) : (onRst s f).mesh = s.mesh := rfl
@[simp] theorem onRst_free (s : State) (f : Rst → Rst) : (onRst s f).free = s.free := rfl
@[simp] theorem onRst_small (s : State) (f : Rst → Rst) : (onRst s f).small = s.small := rfl
@[simp] theorem onRst_now (s : State) (f : Rst → Rst) : (onRst s f).now = s.now := rfl
@[simp] theorem onRst_dieDown (s : State) (f : Rst → Rst) : (onRst s f).dieDown = s.dieDown := rfl
@[simp] theorem onRst_ctxs (s : State) (f : Rst → Rst) : (onRst s f).ctxs = s.ctxs := rfl
@[simp] theorem onRst_ports (s : State) (f : Rst → Rst) : (onRst s f).ports = s.ports := rfl
@[simp] theorem onRst_hosts (s : State) (f : Rst → Rst) : (onRst s f).hosts = s.hosts := rfl
@[simp] theorem onRst_out (s : State) (f : Rst → Rst) : (onRst s f).out = s.out := rfl
@[simp] theorem onRst_crm (s : State) (f : Rst → Rst) : (onRst s f).crm = s.crm := rfl
@[simp] theorem onRst_culture (s : State) (f : Rst → Rst) : (onRst s f).culture = s.culture := rfl
@[simp] theorem onRst_order (s : State) (f : Rst → Rst) : (onRst s f).order = s.order := rfl
@[simp] theorem onRst_offer (s : State) (f : Rst → Rst) : (onRst s f).offer = s.offer := rfl
@[simp] theorem onRst_assign (s : State) (f : Rst → Rst) : (onRst s f).assign = s.assign := rfl
@[simp] theorem onRst_adoptMs (s : State) (f : Rst → Rst) : (onRst s f).adoptMs = s.adoptMs := rfl
@[simp] theorem onRst_recovery (s : State) (f : Rst → Rst) : (onRst s f).recovery = s.recovery := rfl
@[simp] theorem onRst_outOfService (s : State) (f : Rst → Rst) : (onRst s f).outOfService = s.outOfService := rfl
@[simp] theorem onRst_node (s : State) (f : Rst → Rst) : (onRst s f).node = s.node := rfl
@[simp] theorem onRst_signedPlans (s : State) (f : Rst → Rst) : (onRst s f).signedPlans = s.signedPlans := rfl
@[simp] theorem onRst_migs (s : State) (f : Rst → Rst) : (onRst s f).migs = s.migs := rfl
@[simp] theorem onRst_migrEn (s : State) (f : Rst → Rst) : (onRst s f).migrEn = s.migrEn := rfl
@[simp] theorem onRst_migrImbal (s : State) (f : Rst → Rst) : (onRst s f).migrImbal = s.migrImbal := rfl
@[simp] theorem onRst_serial (s : State) (f : Rst → Rst) : (onRst s f).serial = s.serial := rfl
@[simp] theorem onRst_unwashedFlash (s : State) (f : Rst → Rst) : (onRst s f).unwashedFlash = s.unwashedFlash := rfl
@[simp] theorem onRst_clks (s : State) (f : Rst → Rst) : (onRst s f).clks = s.clks := rfl
@[simp] theorem onRst_cul (s : State) (f : Rst → Rst) : (onRst s f).cul = s.cul := rfl
@[simp] theorem onRst_sea (s : State) (f : Rst → Rst) : (onRst s f).sea = s.sea := rfl
@[simp] theorem onRst_pwr (s : State) (f : Rst → Rst) : (onRst s f).pwr = s.pwr := rfl
@[simp] theorem onRst_rdVal (s : State) (f : Rst → Rst) : (onRst s f).rdVal = s.rdVal := rfl
@[simp] theorem onRst_rdBytes (s : State) (f : Rst → Rst) : (onRst s f).rdBytes = s.rdBytes := rfl
@[simp] theorem onRst_rdCode (s : State) (f : Rst → Rst) : (onRst s f).rdCode = s.rdCode := rfl

@[simp] theorem onClk_pending (s : State) (d : Nat) (f : Clk → Clk) : (onClk s d f).pending = s.pending := rfl
@[simp] theorem onClk_wheels (s : State) (d : Nat) (f : Clk → Clk) : (onClk s d f).wheels = s.wheels := rfl
@[simp] theorem onClk_mesh (s : State) (d : Nat) (f : Clk → Clk) : (onClk s d f).mesh = s.mesh := rfl
@[simp] theorem onClk_free (s : State) (d : Nat) (f : Clk → Clk) : (onClk s d f).free = s.free := rfl
@[simp] theorem onClk_small (s : State) (d : Nat) (f : Clk → Clk) : (onClk s d f).small = s.small := rfl
@[simp] theorem onClk_now (s : State) (d : Nat) (f : Clk → Clk) : (onClk s d f).now = s.now := rfl
@[simp] theorem onClk_dieDown (s : State) (d : Nat) (f : Clk → Clk) : (onClk s d f).dieDown = s.dieDown := rfl
@[simp] theorem onClk_ctxs (s : State) (d : Nat) (f : Clk → Clk) : (onClk s d f).ctxs = s.ctxs := rfl
@[simp] theorem onClk_ports (s : State) (d : Nat) (f : Clk → Clk) : (onClk s d f).ports = s.ports := rfl
@[simp] theorem onClk_hosts (s : State) (d : Nat) (f : Clk → Clk) : (onClk s d f).hosts = s.hosts := rfl
@[simp] theorem onClk_out (s : State) (d : Nat) (f : Clk → Clk) : (onClk s d f).out = s.out := rfl
@[simp] theorem onClk_crm (s : State) (d : Nat) (f : Clk → Clk) : (onClk s d f).crm = s.crm := rfl
@[simp] theorem onClk_culture (s : State) (d : Nat) (f : Clk → Clk) : (onClk s d f).culture = s.culture := rfl
@[simp] theorem onClk_order (s : State) (d : Nat) (f : Clk → Clk) : (onClk s d f).order = s.order := rfl
@[simp] theorem onClk_offer (s : State) (d : Nat) (f : Clk → Clk) : (onClk s d f).offer = s.offer := rfl
@[simp] theorem onClk_assign (s : State) (d : Nat) (f : Clk → Clk) : (onClk s d f).assign = s.assign := rfl
@[simp] theorem onClk_adoptMs (s : State) (d : Nat) (f : Clk → Clk) : (onClk s d f).adoptMs = s.adoptMs := rfl
@[simp] theorem onClk_recovery (s : State) (d : Nat) (f : Clk → Clk) : (onClk s d f).recovery = s.recovery := rfl
@[simp] theorem onClk_outOfService (s : State) (d : Nat) (f : Clk → Clk) : (onClk s d f).outOfService = s.outOfService := rfl
@[simp] theorem onClk_node (s : State) (d : Nat) (f : Clk → Clk) : (onClk s d f).node = s.node := rfl
@[simp] theorem onClk_signedPlans (s : State) (d : Nat) (f : Clk → Clk) : (onClk s d f).signedPlans = s.signedPlans := rfl
@[simp] theorem onClk_migs (s : State) (d : Nat) (f : Clk → Clk) : (onClk s d f).migs = s.migs := rfl
@[simp] theorem onClk_migrEn (s : State) (d : Nat) (f : Clk → Clk) : (onClk s d f).migrEn = s.migrEn := rfl
@[simp] theorem onClk_migrImbal (s : State) (d : Nat) (f : Clk → Clk) : (onClk s d f).migrImbal = s.migrImbal := rfl
@[simp] theorem onClk_serial (s : State) (d : Nat) (f : Clk → Clk) : (onClk s d f).serial = s.serial := rfl
@[simp] theorem onClk_unwashedFlash (s : State) (d : Nat) (f : Clk → Clk) : (onClk s d f).unwashedFlash = s.unwashedFlash := rfl
@[simp] theorem onClk_rst (s : State) (d : Nat) (f : Clk → Clk) : (onClk s d f).rst = s.rst := rfl
@[simp] theorem onClk_cul (s : State) (d : Nat) (f : Clk → Clk) : (onClk s d f).cul = s.cul := rfl
@[simp] theorem onClk_sea (s : State) (d : Nat) (f : Clk → Clk) : (onClk s d f).sea = s.sea := rfl
@[simp] theorem onClk_pwr (s : State) (d : Nat) (f : Clk → Clk) : (onClk s d f).pwr = s.pwr := rfl
@[simp] theorem onClk_rdVal (s : State) (d : Nat) (f : Clk → Clk) : (onClk s d f).rdVal = s.rdVal := rfl
@[simp] theorem onClk_rdBytes (s : State) (d : Nat) (f : Clk → Clk) : (onClk s d f).rdBytes = s.rdBytes := rfl
@[simp] theorem onClk_rdCode (s : State) (d : Nat) (f : Clk → Clk) : (onClk s d f).rdCode = s.rdCode := rfl

@[simp] theorem onPwr_pending (s : State) (f : Pwr → Pwr) : (onPwr s f).pending = s.pending := rfl
@[simp] theorem onPwr_wheels (s : State) (f : Pwr → Pwr) : (onPwr s f).wheels = s.wheels := rfl
@[simp] theorem onPwr_mesh (s : State) (f : Pwr → Pwr) : (onPwr s f).mesh = s.mesh := rfl
@[simp] theorem onPwr_free (s : State) (f : Pwr → Pwr) : (onPwr s f).free = s.free := rfl
@[simp] theorem onPwr_small (s : State) (f : Pwr → Pwr) : (onPwr s f).small = s.small := rfl
@[simp] theorem onPwr_now (s : State) (f : Pwr → Pwr) : (onPwr s f).now = s.now := rfl
@[simp] theorem onPwr_dieDown (s : State) (f : Pwr → Pwr) : (onPwr s f).dieDown = s.dieDown := rfl
@[simp] theorem onPwr_ctxs (s : State) (f : Pwr → Pwr) : (onPwr s f).ctxs = s.ctxs := rfl
@[simp] theorem onPwr_ports (s : State) (f : Pwr → Pwr) : (onPwr s f).ports = s.ports := rfl
@[simp] theorem onPwr_hosts (s : State) (f : Pwr → Pwr) : (onPwr s f).hosts = s.hosts := rfl
@[simp] theorem onPwr_out (s : State) (f : Pwr → Pwr) : (onPwr s f).out = s.out := rfl
@[simp] theorem onPwr_crm (s : State) (f : Pwr → Pwr) : (onPwr s f).crm = s.crm := rfl
@[simp] theorem onPwr_culture (s : State) (f : Pwr → Pwr) : (onPwr s f).culture = s.culture := rfl
@[simp] theorem onPwr_order (s : State) (f : Pwr → Pwr) : (onPwr s f).order = s.order := rfl
@[simp] theorem onPwr_offer (s : State) (f : Pwr → Pwr) : (onPwr s f).offer = s.offer := rfl
@[simp] theorem onPwr_assign (s : State) (f : Pwr → Pwr) : (onPwr s f).assign = s.assign := rfl
@[simp] theorem onPwr_adoptMs (s : State) (f : Pwr → Pwr) : (onPwr s f).adoptMs = s.adoptMs := rfl
@[simp] theorem onPwr_recovery (s : State) (f : Pwr → Pwr) : (onPwr s f).recovery = s.recovery := rfl
@[simp] theorem onPwr_outOfService (s : State) (f : Pwr → Pwr) : (onPwr s f).outOfService = s.outOfService := rfl
@[simp] theorem onPwr_node (s : State) (f : Pwr → Pwr) : (onPwr s f).node = s.node := rfl
@[simp] theorem onPwr_signedPlans (s : State) (f : Pwr → Pwr) : (onPwr s f).signedPlans = s.signedPlans := rfl
@[simp] theorem onPwr_migs (s : State) (f : Pwr → Pwr) : (onPwr s f).migs = s.migs := rfl
@[simp] theorem onPwr_migrEn (s : State) (f : Pwr → Pwr) : (onPwr s f).migrEn = s.migrEn := rfl
@[simp] theorem onPwr_migrImbal (s : State) (f : Pwr → Pwr) : (onPwr s f).migrImbal = s.migrImbal := rfl
@[simp] theorem onPwr_serial (s : State) (f : Pwr → Pwr) : (onPwr s f).serial = s.serial := rfl
@[simp] theorem onPwr_unwashedFlash (s : State) (f : Pwr → Pwr) : (onPwr s f).unwashedFlash = s.unwashedFlash := rfl
@[simp] theorem onPwr_rst (s : State) (f : Pwr → Pwr) : (onPwr s f).rst = s.rst := rfl
@[simp] theorem onPwr_clks (s : State) (f : Pwr → Pwr) : (onPwr s f).clks = s.clks := rfl
@[simp] theorem onPwr_cul (s : State) (f : Pwr → Pwr) : (onPwr s f).cul = s.cul := rfl
@[simp] theorem onPwr_sea (s : State) (f : Pwr → Pwr) : (onPwr s f).sea = s.sea := rfl
@[simp] theorem onPwr_rdVal (s : State) (f : Pwr → Pwr) : (onPwr s f).rdVal = s.rdVal := rfl
@[simp] theorem onPwr_rdBytes (s : State) (f : Pwr → Pwr) : (onPwr s f).rdBytes = s.rdBytes := rfl
@[simp] theorem onPwr_rdCode (s : State) (f : Pwr → Pwr) : (onPwr s f).rdCode = s.rdCode := rfl

@[simp] theorem onSea_pending (s : State) (f : Seal → Seal) : (onSea s f).pending = s.pending := rfl
@[simp] theorem onSea_wheels (s : State) (f : Seal → Seal) : (onSea s f).wheels = s.wheels := rfl
@[simp] theorem onSea_mesh (s : State) (f : Seal → Seal) : (onSea s f).mesh = s.mesh := rfl
@[simp] theorem onSea_free (s : State) (f : Seal → Seal) : (onSea s f).free = s.free := rfl
@[simp] theorem onSea_small (s : State) (f : Seal → Seal) : (onSea s f).small = s.small := rfl
@[simp] theorem onSea_now (s : State) (f : Seal → Seal) : (onSea s f).now = s.now := rfl
@[simp] theorem onSea_dieDown (s : State) (f : Seal → Seal) : (onSea s f).dieDown = s.dieDown := rfl
@[simp] theorem onSea_ctxs (s : State) (f : Seal → Seal) : (onSea s f).ctxs = s.ctxs := rfl
@[simp] theorem onSea_ports (s : State) (f : Seal → Seal) : (onSea s f).ports = s.ports := rfl
@[simp] theorem onSea_hosts (s : State) (f : Seal → Seal) : (onSea s f).hosts = s.hosts := rfl
@[simp] theorem onSea_out (s : State) (f : Seal → Seal) : (onSea s f).out = s.out := rfl
@[simp] theorem onSea_crm (s : State) (f : Seal → Seal) : (onSea s f).crm = s.crm := rfl
@[simp] theorem onSea_culture (s : State) (f : Seal → Seal) : (onSea s f).culture = s.culture := rfl
@[simp] theorem onSea_order (s : State) (f : Seal → Seal) : (onSea s f).order = s.order := rfl
@[simp] theorem onSea_offer (s : State) (f : Seal → Seal) : (onSea s f).offer = s.offer := rfl
@[simp] theorem onSea_assign (s : State) (f : Seal → Seal) : (onSea s f).assign = s.assign := rfl
@[simp] theorem onSea_adoptMs (s : State) (f : Seal → Seal) : (onSea s f).adoptMs = s.adoptMs := rfl
@[simp] theorem onSea_recovery (s : State) (f : Seal → Seal) : (onSea s f).recovery = s.recovery := rfl
@[simp] theorem onSea_outOfService (s : State) (f : Seal → Seal) : (onSea s f).outOfService = s.outOfService := rfl
@[simp] theorem onSea_node (s : State) (f : Seal → Seal) : (onSea s f).node = s.node := rfl
@[simp] theorem onSea_signedPlans (s : State) (f : Seal → Seal) : (onSea s f).signedPlans = s.signedPlans := rfl
@[simp] theorem onSea_migs (s : State) (f : Seal → Seal) : (onSea s f).migs = s.migs := rfl
@[simp] theorem onSea_migrEn (s : State) (f : Seal → Seal) : (onSea s f).migrEn = s.migrEn := rfl
@[simp] theorem onSea_migrImbal (s : State) (f : Seal → Seal) : (onSea s f).migrImbal = s.migrImbal := rfl
@[simp] theorem onSea_serial (s : State) (f : Seal → Seal) : (onSea s f).serial = s.serial := rfl
@[simp] theorem onSea_unwashedFlash (s : State) (f : Seal → Seal) : (onSea s f).unwashedFlash = s.unwashedFlash := rfl
@[simp] theorem onSea_rst (s : State) (f : Seal → Seal) : (onSea s f).rst = s.rst := rfl
@[simp] theorem onSea_clks (s : State) (f : Seal → Seal) : (onSea s f).clks = s.clks := rfl
@[simp] theorem onSea_cul (s : State) (f : Seal → Seal) : (onSea s f).cul = s.cul := rfl
@[simp] theorem onSea_pwr (s : State) (f : Seal → Seal) : (onSea s f).pwr = s.pwr := rfl
@[simp] theorem onSea_rdVal (s : State) (f : Seal → Seal) : (onSea s f).rdVal = s.rdVal := rfl
@[simp] theorem onSea_rdBytes (s : State) (f : Seal → Seal) : (onSea s f).rdBytes = s.rdBytes := rfl
@[simp] theorem onSea_rdCode (s : State) (f : Seal → Seal) : (onSea s f).rdCode = s.rdCode := rfl

@[simp] theorem onCul_pending (s : State) (f : Cul → Cul) : (onCul s f).pending = s.pending := rfl
@[simp] theorem onCul_wheels (s : State) (f : Cul → Cul) : (onCul s f).wheels = s.wheels := rfl
@[simp] theorem onCul_mesh (s : State) (f : Cul → Cul) : (onCul s f).mesh = s.mesh := rfl
@[simp] theorem onCul_free (s : State) (f : Cul → Cul) : (onCul s f).free = s.free := rfl
@[simp] theorem onCul_small (s : State) (f : Cul → Cul) : (onCul s f).small = s.small := rfl
@[simp] theorem onCul_now (s : State) (f : Cul → Cul) : (onCul s f).now = s.now := rfl
@[simp] theorem onCul_dieDown (s : State) (f : Cul → Cul) : (onCul s f).dieDown = s.dieDown := rfl
@[simp] theorem onCul_ctxs (s : State) (f : Cul → Cul) : (onCul s f).ctxs = s.ctxs := rfl
@[simp] theorem onCul_ports (s : State) (f : Cul → Cul) : (onCul s f).ports = s.ports := rfl
@[simp] theorem onCul_hosts (s : State) (f : Cul → Cul) : (onCul s f).hosts = s.hosts := rfl
@[simp] theorem onCul_out (s : State) (f : Cul → Cul) : (onCul s f).out = s.out := rfl
@[simp] theorem onCul_crm (s : State) (f : Cul → Cul) : (onCul s f).crm = s.crm := rfl
@[simp] theorem onCul_culture (s : State) (f : Cul → Cul) : (onCul s f).culture = s.culture := rfl
@[simp] theorem onCul_order (s : State) (f : Cul → Cul) : (onCul s f).order = s.order := rfl
@[simp] theorem onCul_offer (s : State) (f : Cul → Cul) : (onCul s f).offer = s.offer := rfl
@[simp] theorem onCul_assign (s : State) (f : Cul → Cul) : (onCul s f).assign = s.assign := rfl
@[simp] theorem onCul_adoptMs (s : State) (f : Cul → Cul) : (onCul s f).adoptMs = s.adoptMs := rfl
@[simp] theorem onCul_recovery (s : State) (f : Cul → Cul) : (onCul s f).recovery = s.recovery := rfl
@[simp] theorem onCul_outOfService (s : State) (f : Cul → Cul) : (onCul s f).outOfService = s.outOfService := rfl
@[simp] theorem onCul_node (s : State) (f : Cul → Cul) : (onCul s f).node = s.node := rfl
@[simp] theorem onCul_signedPlans (s : State) (f : Cul → Cul) : (onCul s f).signedPlans = s.signedPlans := rfl
@[simp] theorem onCul_migs (s : State) (f : Cul → Cul) : (onCul s f).migs = s.migs := rfl
@[simp] theorem onCul_migrEn (s : State) (f : Cul → Cul) : (onCul s f).migrEn = s.migrEn := rfl
@[simp] theorem onCul_migrImbal (s : State) (f : Cul → Cul) : (onCul s f).migrImbal = s.migrImbal := rfl
@[simp] theorem onCul_serial (s : State) (f : Cul → Cul) : (onCul s f).serial = s.serial := rfl
@[simp] theorem onCul_unwashedFlash (s : State) (f : Cul → Cul) : (onCul s f).unwashedFlash = s.unwashedFlash := rfl
@[simp] theorem onCul_rst (s : State) (f : Cul → Cul) : (onCul s f).rst = s.rst := rfl
@[simp] theorem onCul_clks (s : State) (f : Cul → Cul) : (onCul s f).clks = s.clks := rfl
@[simp] theorem onCul_sea (s : State) (f : Cul → Cul) : (onCul s f).sea = s.sea := rfl
@[simp] theorem onCul_pwr (s : State) (f : Cul → Cul) : (onCul s f).pwr = s.pwr := rfl
@[simp] theorem onCul_rdVal (s : State) (f : Cul → Cul) : (onCul s f).rdVal = s.rdVal := rfl
@[simp] theorem onCul_rdBytes (s : State) (f : Cul → Cul) : (onCul s f).rdBytes = s.rdBytes := rfl
@[simp] theorem onCul_rdCode (s : State) (f : Cul → Cul) : (onCul s f).rdCode = s.rdCode := rfl

@[simp] theorem send_pending (s : State) (o : Out) : (send s o).pending = s.pending := rfl
@[simp] theorem send_wheels (s : State) (o : Out) : (send s o).wheels = s.wheels := rfl
@[simp] theorem send_mesh (s : State) (o : Out) : (send s o).mesh = s.mesh := rfl
@[simp] theorem send_free (s : State) (o : Out) : (send s o).free = s.free := rfl
@[simp] theorem send_small (s : State) (o : Out) : (send s o).small = s.small := rfl
@[simp] theorem send_now (s : State) (o : Out) : (send s o).now = s.now := rfl
@[simp] theorem send_dieDown (s : State) (o : Out) : (send s o).dieDown = s.dieDown := rfl
@[simp] theorem send_ctxs (s : State) (o : Out) : (send s o).ctxs = s.ctxs := rfl
@[simp] theorem send_ports (s : State) (o : Out) : (send s o).ports = s.ports := rfl
@[simp] theorem send_hosts (s : State) (o : Out) : (send s o).hosts = s.hosts := rfl
@[simp] theorem send_crm (s : State) (o : Out) : (send s o).crm = s.crm := rfl
@[simp] theorem send_culture (s : State) (o : Out) : (send s o).culture = s.culture := rfl
@[simp] theorem send_order (s : State) (o : Out) : (send s o).order = s.order := rfl
@[simp] theorem send_offer (s : State) (o : Out) : (send s o).offer = s.offer := rfl
@[simp] theorem send_assign (s : State) (o : Out) : (send s o).assign = s.assign := rfl
@[simp] theorem send_adoptMs (s : State) (o : Out) : (send s o).adoptMs = s.adoptMs := rfl
@[simp] theorem send_recovery (s : State) (o : Out) : (send s o).recovery = s.recovery := rfl
@[simp] theorem send_outOfService (s : State) (o : Out) : (send s o).outOfService = s.outOfService := rfl
@[simp] theorem send_node (s : State) (o : Out) : (send s o).node = s.node := rfl
@[simp] theorem send_signedPlans (s : State) (o : Out) : (send s o).signedPlans = s.signedPlans := rfl
@[simp] theorem send_migs (s : State) (o : Out) : (send s o).migs = s.migs := rfl
@[simp] theorem send_migrEn (s : State) (o : Out) : (send s o).migrEn = s.migrEn := rfl
@[simp] theorem send_migrImbal (s : State) (o : Out) : (send s o).migrImbal = s.migrImbal := rfl
@[simp] theorem send_serial (s : State) (o : Out) : (send s o).serial = s.serial := rfl
@[simp] theorem send_unwashedFlash (s : State) (o : Out) : (send s o).unwashedFlash = s.unwashedFlash := rfl
@[simp] theorem send_rst (s : State) (o : Out) : (send s o).rst = s.rst := rfl
@[simp] theorem send_clks (s : State) (o : Out) : (send s o).clks = s.clks := rfl
@[simp] theorem send_cul (s : State) (o : Out) : (send s o).cul = s.cul := rfl
@[simp] theorem send_sea (s : State) (o : Out) : (send s o).sea = s.sea := rfl
@[simp] theorem send_pwr (s : State) (o : Out) : (send s o).pwr = s.pwr := rfl
@[simp] theorem send_rdVal (s : State) (o : Out) : (send s o).rdVal = s.rdVal := rfl
@[simp] theorem send_rdBytes (s : State) (o : Out) : (send s o).rdBytes = s.rdBytes := rfl
@[simp] theorem send_rdCode (s : State) (o : Out) : (send s o).rdCode = s.rdCode := rfl

@[simp] theorem flashWrite_pending (s : State) (a : Nat) (bs : List Byte) : (flashWrite s a bs).pending = s.pending := rfl
@[simp] theorem flashWrite_wheels (s : State) (a : Nat) (bs : List Byte) : (flashWrite s a bs).wheels = s.wheels := rfl
@[simp] theorem flashWrite_mesh (s : State) (a : Nat) (bs : List Byte) : (flashWrite s a bs).mesh = s.mesh := rfl
@[simp] theorem flashWrite_free (s : State) (a : Nat) (bs : List Byte) : (flashWrite s a bs).free = s.free := rfl
@[simp] theorem flashWrite_small (s : State) (a : Nat) (bs : List Byte) : (flashWrite s a bs).small = s.small := rfl
@[simp] theorem flashWrite_now (s : State) (a : Nat) (bs : List Byte) : (flashWrite s a bs).now = s.now := rfl
@[simp] theorem flashWrite_dieDown (s : State) (a : Nat) (bs : List Byte) : (flashWrite s a bs).dieDown = s.dieDown := rfl
@[simp] theorem flashWrite_ctxs (s : State) (a : Nat) (bs : List Byte) : (flashWrite s a bs).ctxs = s.ctxs := rfl
@[simp] theorem flashWrite_ports (s : State) (a : Nat) (bs : List Byte) : (flashWrite s a bs).ports = s.ports := rfl
@[simp] theorem flashWrite_hosts (s : State) (a : Nat) (bs : List Byte) : (flashWrite s a bs).hosts = s.hosts := rfl
@[simp] theorem flashWrite_out (s : State) (a : Nat) (bs : List Byte) : (flashWrite s a bs).out = s.out := rfl
@[simp] theorem flashWrite_crm (s : State) (a : Nat) (bs : List Byte) : (flashWrite s a bs).crm = s.crm := rfl
@[simp] theorem flashWrite_culture (s : State) (a : Nat) (bs : List Byte) : (flashWrite s a bs).culture = s.culture := rfl
@[simp] theorem flashWrite_order (s : State) (a : Nat) (bs : List Byte) : (flashWrite s a bs).order = s.order := rfl
@[simp] theorem flashWrite_offer (s : State) (a : Nat) (bs : List Byte) : (flashWrite s a bs).offer = s.offer := rfl
@[simp] theorem flashWrite_assign (s : State) (a : Nat) (bs : List Byte) : (flashWrite s a bs).assign = s.assign := rfl
@[simp] theorem flashWrite_adoptMs (s : State) (a : Nat) (bs : List Byte) : (flashWrite s a bs).adoptMs = s.adoptMs := rfl
@[simp] theorem flashWrite_recovery (s : State) (a : Nat) (bs : List Byte) : (flashWrite s a bs).recovery = s.recovery := rfl
@[simp] theorem flashWrite_outOfService (s : State) (a : Nat) (bs : List Byte) : (flashWrite s a bs).outOfService = s.outOfService := rfl
@[simp] theorem flashWrite_node (s : State) (a : Nat) (bs : List Byte) : (flashWrite s a bs).node = s.node := rfl
@[simp] theorem flashWrite_signedPlans (s : State) (a : Nat) (bs : List Byte) : (flashWrite s a bs).signedPlans = s.signedPlans := rfl
@[simp] theorem flashWrite_migs (s : State) (a : Nat) (bs : List Byte) : (flashWrite s a bs).migs = s.migs := rfl
@[simp] theorem flashWrite_migrEn (s : State) (a : Nat) (bs : List Byte) : (flashWrite s a bs).migrEn = s.migrEn := rfl
@[simp] theorem flashWrite_migrImbal (s : State) (a : Nat) (bs : List Byte) : (flashWrite s a bs).migrImbal = s.migrImbal := rfl
@[simp] theorem flashWrite_serial (s : State) (a : Nat) (bs : List Byte) : (flashWrite s a bs).serial = s.serial := rfl
@[simp] theorem flashWrite_unwashedFlash (s : State) (a : Nat) (bs : List Byte) : (flashWrite s a bs).unwashedFlash = s.unwashedFlash := rfl
@[simp] theorem flashWrite_rst (s : State) (a : Nat) (bs : List Byte) : (flashWrite s a bs).rst = s.rst := rfl
@[simp] theorem flashWrite_clks (s : State) (a : Nat) (bs : List Byte) : (flashWrite s a bs).clks = s.clks := rfl
@[simp] theorem flashWrite_sea (s : State) (a : Nat) (bs : List Byte) : (flashWrite s a bs).sea = s.sea := rfl
@[simp] theorem flashWrite_pwr (s : State) (a : Nat) (bs : List Byte) : (flashWrite s a bs).pwr = s.pwr := rfl
@[simp] theorem flashWrite_rdVal (s : State) (a : Nat) (bs : List Byte) : (flashWrite s a bs).rdVal = s.rdVal := rfl
@[simp] theorem flashWrite_rdBytes (s : State) (a : Nat) (bs : List Byte) : (flashWrite s a bs).rdBytes = s.rdBytes := rfl
@[simp] theorem flashWrite_rdCode (s : State) (a : Nat) (bs : List Byte) : (flashWrite s a bs).rdCode = s.rdCode := rfl

/-! ## Updates of a wheel -/

@[simp] theorem setVat_svc (x : Wheel) (v : Nat) (y : Vat) : (setVat x v y).svc = x.svc := rfl
@[simp] theorem setVat_saveSlots (x : Wheel) (v : Nat) (y : Vat) : (setVat x v y).saveSlots = x.saveSlots := rfl
@[simp] theorem setVat_yieldWait (x : Wheel) (v : Nat) (y : Vat) : (setVat x v y).yieldWait = x.yieldWait := rfl
@[simp] theorem setVat_cave (x : Wheel) (v : Nat) (y : Vat) : (setVat x v y).cave = x.cave := rfl
@[simp] theorem setVat_caveBad (x : Wheel) (v : Nat) (y : Vat) : (setVat x v y).caveBad = x.caveBad := rfl
@[simp] theorem setVat_unseen (x : Wheel) (v : Nat) (y : Vat) : (setVat x v y).unseen = x.unseen := rfl
@[simp] theorem setVat_presses (x : Wheel) (v : Nat) (y : Vat) : (setVat x v y).presses = x.presses := rfl
@[simp] theorem setVat_ladles (x : Wheel) (v : Nat) (y : Vat) : (setVat x v y).ladles = x.ladles := rfl
@[simp] theorem setVat_graders (x : Wheel) (v : Nat) (y : Vat) : (setVat x v y).graders = x.graders := rfl
@[simp] theorem setVat_hoops (x : Wheel) (v : Nat) (y : Vat) : (setVat x v y).hoops = x.hoops := rfl
@[simp] theorem setVat_whey (x : Wheel) (v : Nat) (y : Vat) : (setVat x v y).whey = x.whey := rfl
@[simp] theorem setVat_rnt (x : Wheel) (v : Nat) (y : Vat) : (setVat x v y).rnt = x.rnt := rfl
@[simp] theorem setVat_mld (x : Wheel) (v : Nat) (y : Vat) : (setVat x v y).mld = x.mld := rfl
@[simp] theorem setVat_mem (x : Wheel) (v : Nat) (y : Vat) : (setVat x v y).mem = x.mem := rfl
@[simp] theorem setVat_ldl (x : Wheel) (v : Nat) (y : Vat) : (setVat x v y).ldl = x.ldl := rfl
@[simp] theorem setVat_prec (x : Wheel) (v : Nat) (y : Vat) : (setVat x v y).prec = x.prec := rfl
@[simp] theorem setVat_aggHi (x : Wheel) (v : Nat) (y : Vat) : (setVat x v y).aggHi = x.aggHi := rfl

@[simp] theorem onVat_svc (x : Wheel) (v : Nat) (f : Vat → Vat) : (onVat x v f).svc = x.svc := rfl
@[simp] theorem onVat_saveSlots (x : Wheel) (v : Nat) (f : Vat → Vat) : (onVat x v f).saveSlots = x.saveSlots := rfl
@[simp] theorem onVat_yieldWait (x : Wheel) (v : Nat) (f : Vat → Vat) : (onVat x v f).yieldWait = x.yieldWait := rfl
@[simp] theorem onVat_cave (x : Wheel) (v : Nat) (f : Vat → Vat) : (onVat x v f).cave = x.cave := rfl
@[simp] theorem onVat_caveBad (x : Wheel) (v : Nat) (f : Vat → Vat) : (onVat x v f).caveBad = x.caveBad := rfl
@[simp] theorem onVat_unseen (x : Wheel) (v : Nat) (f : Vat → Vat) : (onVat x v f).unseen = x.unseen := rfl
@[simp] theorem onVat_presses (x : Wheel) (v : Nat) (f : Vat → Vat) : (onVat x v f).presses = x.presses := rfl
@[simp] theorem onVat_ladles (x : Wheel) (v : Nat) (f : Vat → Vat) : (onVat x v f).ladles = x.ladles := rfl
@[simp] theorem onVat_graders (x : Wheel) (v : Nat) (f : Vat → Vat) : (onVat x v f).graders = x.graders := rfl
@[simp] theorem onVat_hoops (x : Wheel) (v : Nat) (f : Vat → Vat) : (onVat x v f).hoops = x.hoops := rfl
@[simp] theorem onVat_whey (x : Wheel) (v : Nat) (f : Vat → Vat) : (onVat x v f).whey = x.whey := rfl
@[simp] theorem onVat_rnt (x : Wheel) (v : Nat) (f : Vat → Vat) : (onVat x v f).rnt = x.rnt := rfl
@[simp] theorem onVat_mld (x : Wheel) (v : Nat) (f : Vat → Vat) : (onVat x v f).mld = x.mld := rfl
@[simp] theorem onVat_mem (x : Wheel) (v : Nat) (f : Vat → Vat) : (onVat x v f).mem = x.mem := rfl
@[simp] theorem onVat_ldl (x : Wheel) (v : Nat) (f : Vat → Vat) : (onVat x v f).ldl = x.ldl := rfl
@[simp] theorem onVat_prec (x : Wheel) (v : Nat) (f : Vat → Vat) : (onVat x v f).prec = x.prec := rfl
@[simp] theorem onVat_aggHi (x : Wheel) (v : Nat) (f : Vat → Vat) : (onVat x v f).aggHi = x.aggHi := rfl

@[simp] theorem setPress_svc (x : Wheel) (p : Nat) (e : Eng) : (setPress x p e).svc = x.svc := rfl
@[simp] theorem setPress_saveSlots (x : Wheel) (p : Nat) (e : Eng) : (setPress x p e).saveSlots = x.saveSlots := rfl
@[simp] theorem setPress_yieldWait (x : Wheel) (p : Nat) (e : Eng) : (setPress x p e).yieldWait = x.yieldWait := rfl
@[simp] theorem setPress_cave (x : Wheel) (p : Nat) (e : Eng) : (setPress x p e).cave = x.cave := rfl
@[simp] theorem setPress_caveBad (x : Wheel) (p : Nat) (e : Eng) : (setPress x p e).caveBad = x.caveBad := rfl
@[simp] theorem setPress_unseen (x : Wheel) (p : Nat) (e : Eng) : (setPress x p e).unseen = x.unseen := rfl
@[simp] theorem setPress_vats (x : Wheel) (p : Nat) (e : Eng) : (setPress x p e).vats = x.vats := rfl
@[simp] theorem setPress_ladles (x : Wheel) (p : Nat) (e : Eng) : (setPress x p e).ladles = x.ladles := rfl
@[simp] theorem setPress_graders (x : Wheel) (p : Nat) (e : Eng) : (setPress x p e).graders = x.graders := rfl
@[simp] theorem setPress_hoops (x : Wheel) (p : Nat) (e : Eng) : (setPress x p e).hoops = x.hoops := rfl
@[simp] theorem setPress_whey (x : Wheel) (p : Nat) (e : Eng) : (setPress x p e).whey = x.whey := rfl
@[simp] theorem setPress_rnt (x : Wheel) (p : Nat) (e : Eng) : (setPress x p e).rnt = x.rnt := rfl
@[simp] theorem setPress_mld (x : Wheel) (p : Nat) (e : Eng) : (setPress x p e).mld = x.mld := rfl
@[simp] theorem setPress_mem (x : Wheel) (p : Nat) (e : Eng) : (setPress x p e).mem = x.mem := rfl
@[simp] theorem setPress_ldl (x : Wheel) (p : Nat) (e : Eng) : (setPress x p e).ldl = x.ldl := rfl
@[simp] theorem setPress_prec (x : Wheel) (p : Nat) (e : Eng) : (setPress x p e).prec = x.prec := rfl
@[simp] theorem setPress_aggHi (x : Wheel) (p : Nat) (e : Eng) : (setPress x p e).aggHi = x.aggHi := rfl

@[simp] theorem setLadle_svc (x : Wheel) (p : Nat) (e : Eng) : (setLadle x p e).svc = x.svc := rfl
@[simp] theorem setLadle_saveSlots (x : Wheel) (p : Nat) (e : Eng) : (setLadle x p e).saveSlots = x.saveSlots := rfl
@[simp] theorem setLadle_yieldWait (x : Wheel) (p : Nat) (e : Eng) : (setLadle x p e).yieldWait = x.yieldWait := rfl
@[simp] theorem setLadle_cave (x : Wheel) (p : Nat) (e : Eng) : (setLadle x p e).cave = x.cave := rfl
@[simp] theorem setLadle_caveBad (x : Wheel) (p : Nat) (e : Eng) : (setLadle x p e).caveBad = x.caveBad := rfl
@[simp] theorem setLadle_unseen (x : Wheel) (p : Nat) (e : Eng) : (setLadle x p e).unseen = x.unseen := rfl
@[simp] theorem setLadle_vats (x : Wheel) (p : Nat) (e : Eng) : (setLadle x p e).vats = x.vats := rfl
@[simp] theorem setLadle_presses (x : Wheel) (p : Nat) (e : Eng) : (setLadle x p e).presses = x.presses := rfl
@[simp] theorem setLadle_graders (x : Wheel) (p : Nat) (e : Eng) : (setLadle x p e).graders = x.graders := rfl
@[simp] theorem setLadle_hoops (x : Wheel) (p : Nat) (e : Eng) : (setLadle x p e).hoops = x.hoops := rfl
@[simp] theorem setLadle_whey (x : Wheel) (p : Nat) (e : Eng) : (setLadle x p e).whey = x.whey := rfl
@[simp] theorem setLadle_rnt (x : Wheel) (p : Nat) (e : Eng) : (setLadle x p e).rnt = x.rnt := rfl
@[simp] theorem setLadle_mld (x : Wheel) (p : Nat) (e : Eng) : (setLadle x p e).mld = x.mld := rfl
@[simp] theorem setLadle_mem (x : Wheel) (p : Nat) (e : Eng) : (setLadle x p e).mem = x.mem := rfl
@[simp] theorem setLadle_ldl (x : Wheel) (p : Nat) (e : Eng) : (setLadle x p e).ldl = x.ldl := rfl
@[simp] theorem setLadle_prec (x : Wheel) (p : Nat) (e : Eng) : (setLadle x p e).prec = x.prec := rfl
@[simp] theorem setLadle_aggHi (x : Wheel) (p : Nat) (e : Eng) : (setLadle x p e).aggHi = x.aggHi := rfl

@[simp] theorem setGrader_svc (x : Wheel) (p : Nat) (e : Eng) : (setGrader x p e).svc = x.svc := rfl
@[simp] theorem setGrader_saveSlots (x : Wheel) (p : Nat) (e : Eng) : (setGrader x p e).saveSlots = x.saveSlots := rfl
@[simp] theorem setGrader_yieldWait (x : Wheel) (p : Nat) (e : Eng) : (setGrader x p e).yieldWait = x.yieldWait := rfl
@[simp] theorem setGrader_cave (x : Wheel) (p : Nat) (e : Eng) : (setGrader x p e).cave = x.cave := rfl
@[simp] theorem setGrader_caveBad (x : Wheel) (p : Nat) (e : Eng) : (setGrader x p e).caveBad = x.caveBad := rfl
@[simp] theorem setGrader_unseen (x : Wheel) (p : Nat) (e : Eng) : (setGrader x p e).unseen = x.unseen := rfl
@[simp] theorem setGrader_vats (x : Wheel) (p : Nat) (e : Eng) : (setGrader x p e).vats = x.vats := rfl
@[simp] theorem setGrader_presses (x : Wheel) (p : Nat) (e : Eng) : (setGrader x p e).presses = x.presses := rfl
@[simp] theorem setGrader_ladles (x : Wheel) (p : Nat) (e : Eng) : (setGrader x p e).ladles = x.ladles := rfl
@[simp] theorem setGrader_hoops (x : Wheel) (p : Nat) (e : Eng) : (setGrader x p e).hoops = x.hoops := rfl
@[simp] theorem setGrader_whey (x : Wheel) (p : Nat) (e : Eng) : (setGrader x p e).whey = x.whey := rfl
@[simp] theorem setGrader_rnt (x : Wheel) (p : Nat) (e : Eng) : (setGrader x p e).rnt = x.rnt := rfl
@[simp] theorem setGrader_mld (x : Wheel) (p : Nat) (e : Eng) : (setGrader x p e).mld = x.mld := rfl
@[simp] theorem setGrader_mem (x : Wheel) (p : Nat) (e : Eng) : (setGrader x p e).mem = x.mem := rfl
@[simp] theorem setGrader_ldl (x : Wheel) (p : Nat) (e : Eng) : (setGrader x p e).ldl = x.ldl := rfl
@[simp] theorem setGrader_prec (x : Wheel) (p : Nat) (e : Eng) : (setGrader x p e).prec = x.prec := rfl
@[simp] theorem setGrader_aggHi (x : Wheel) (p : Nat) (e : Eng) : (setGrader x p e).aggHi = x.aggHi := rfl

@[simp] theorem setChan_svc (x : Wheel) (c : Nat) (y : Chan) : (setChan x c y).svc = x.svc := rfl
@[simp] theorem setChan_saveSlots (x : Wheel) (c : Nat) (y : Chan) : (setChan x c y).saveSlots = x.saveSlots := rfl
@[simp] theorem setChan_yieldWait (x : Wheel) (c : Nat) (y : Chan) : (setChan x c y).yieldWait = x.yieldWait := rfl
@[simp] theorem setChan_cave (x : Wheel) (c : Nat) (y : Chan) : (setChan x c y).cave = x.cave := rfl
@[simp] theorem setChan_caveBad (x : Wheel) (c : Nat) (y : Chan) : (setChan x c y).caveBad = x.caveBad := rfl
@[simp] theorem setChan_unseen (x : Wheel) (c : Nat) (y : Chan) : (setChan x c y).unseen = x.unseen := rfl
@[simp] theorem setChan_vats (x : Wheel) (c : Nat) (y : Chan) : (setChan x c y).vats = x.vats := rfl
@[simp] theorem setChan_presses (x : Wheel) (c : Nat) (y : Chan) : (setChan x c y).presses = x.presses := rfl
@[simp] theorem setChan_ladles (x : Wheel) (c : Nat) (y : Chan) : (setChan x c y).ladles = x.ladles := rfl
@[simp] theorem setChan_graders (x : Wheel) (c : Nat) (y : Chan) : (setChan x c y).graders = x.graders := rfl
@[simp] theorem setChan_hoops (x : Wheel) (c : Nat) (y : Chan) : (setChan x c y).hoops = x.hoops := rfl
@[simp] theorem setChan_rnt (x : Wheel) (c : Nat) (y : Chan) : (setChan x c y).rnt = x.rnt := rfl
@[simp] theorem setChan_mld (x : Wheel) (c : Nat) (y : Chan) : (setChan x c y).mld = x.mld := rfl
@[simp] theorem setChan_mem (x : Wheel) (c : Nat) (y : Chan) : (setChan x c y).mem = x.mem := rfl
@[simp] theorem setChan_ldl (x : Wheel) (c : Nat) (y : Chan) : (setChan x c y).ldl = x.ldl := rfl
@[simp] theorem setChan_prec (x : Wheel) (c : Nat) (y : Chan) : (setChan x c y).prec = x.prec := rfl
@[simp] theorem setChan_aggHi (x : Wheel) (c : Nat) (y : Chan) : (setChan x c y).aggHi = x.aggHi := rfl

@[simp] theorem setHoop_svc (x : Wheel) (h : Nat) (y : Hoop) : (setHoop x h y).svc = x.svc := rfl
@[simp] theorem setHoop_saveSlots (x : Wheel) (h : Nat) (y : Hoop) : (setHoop x h y).saveSlots = x.saveSlots := rfl
@[simp] theorem setHoop_yieldWait (x : Wheel) (h : Nat) (y : Hoop) : (setHoop x h y).yieldWait = x.yieldWait := rfl
@[simp] theorem setHoop_cave (x : Wheel) (h : Nat) (y : Hoop) : (setHoop x h y).cave = x.cave := rfl
@[simp] theorem setHoop_caveBad (x : Wheel) (h : Nat) (y : Hoop) : (setHoop x h y).caveBad = x.caveBad := rfl
@[simp] theorem setHoop_unseen (x : Wheel) (h : Nat) (y : Hoop) : (setHoop x h y).unseen = x.unseen := rfl
@[simp] theorem setHoop_vats (x : Wheel) (h : Nat) (y : Hoop) : (setHoop x h y).vats = x.vats := rfl
@[simp] theorem setHoop_presses (x : Wheel) (h : Nat) (y : Hoop) : (setHoop x h y).presses = x.presses := rfl
@[simp] theorem setHoop_ladles (x : Wheel) (h : Nat) (y : Hoop) : (setHoop x h y).ladles = x.ladles := rfl
@[simp] theorem setHoop_graders (x : Wheel) (h : Nat) (y : Hoop) : (setHoop x h y).graders = x.graders := rfl
@[simp] theorem setHoop_whey (x : Wheel) (h : Nat) (y : Hoop) : (setHoop x h y).whey = x.whey := rfl
@[simp] theorem setHoop_rnt (x : Wheel) (h : Nat) (y : Hoop) : (setHoop x h y).rnt = x.rnt := rfl
@[simp] theorem setHoop_mld (x : Wheel) (h : Nat) (y : Hoop) : (setHoop x h y).mld = x.mld := rfl
@[simp] theorem setHoop_mem (x : Wheel) (h : Nat) (y : Hoop) : (setHoop x h y).mem = x.mem := rfl
@[simp] theorem setHoop_ldl (x : Wheel) (h : Nat) (y : Hoop) : (setHoop x h y).ldl = x.ldl := rfl
@[simp] theorem setHoop_prec (x : Wheel) (h : Nat) (y : Hoop) : (setHoop x h y).prec = x.prec := rfl
@[simp] theorem setHoop_aggHi (x : Wheel) (h : Nat) (y : Hoop) : (setHoop x h y).aggHi = x.aggHi := rfl

@[simp] theorem onHoop_svc (x : Wheel) (h : Nat) (f : Hoop → Hoop) : (onHoop x h f).svc = x.svc := rfl
@[simp] theorem onHoop_saveSlots (x : Wheel) (h : Nat) (f : Hoop → Hoop) : (onHoop x h f).saveSlots = x.saveSlots := rfl
@[simp] theorem onHoop_yieldWait (x : Wheel) (h : Nat) (f : Hoop → Hoop) : (onHoop x h f).yieldWait = x.yieldWait := rfl
@[simp] theorem onHoop_cave (x : Wheel) (h : Nat) (f : Hoop → Hoop) : (onHoop x h f).cave = x.cave := rfl
@[simp] theorem onHoop_caveBad (x : Wheel) (h : Nat) (f : Hoop → Hoop) : (onHoop x h f).caveBad = x.caveBad := rfl
@[simp] theorem onHoop_unseen (x : Wheel) (h : Nat) (f : Hoop → Hoop) : (onHoop x h f).unseen = x.unseen := rfl
@[simp] theorem onHoop_vats (x : Wheel) (h : Nat) (f : Hoop → Hoop) : (onHoop x h f).vats = x.vats := rfl
@[simp] theorem onHoop_presses (x : Wheel) (h : Nat) (f : Hoop → Hoop) : (onHoop x h f).presses = x.presses := rfl
@[simp] theorem onHoop_ladles (x : Wheel) (h : Nat) (f : Hoop → Hoop) : (onHoop x h f).ladles = x.ladles := rfl
@[simp] theorem onHoop_graders (x : Wheel) (h : Nat) (f : Hoop → Hoop) : (onHoop x h f).graders = x.graders := rfl
@[simp] theorem onHoop_whey (x : Wheel) (h : Nat) (f : Hoop → Hoop) : (onHoop x h f).whey = x.whey := rfl
@[simp] theorem onHoop_rnt (x : Wheel) (h : Nat) (f : Hoop → Hoop) : (onHoop x h f).rnt = x.rnt := rfl
@[simp] theorem onHoop_mld (x : Wheel) (h : Nat) (f : Hoop → Hoop) : (onHoop x h f).mld = x.mld := rfl
@[simp] theorem onHoop_mem (x : Wheel) (h : Nat) (f : Hoop → Hoop) : (onHoop x h f).mem = x.mem := rfl
@[simp] theorem onHoop_ldl (x : Wheel) (h : Nat) (f : Hoop → Hoop) : (onHoop x h f).ldl = x.ldl := rfl
@[simp] theorem onHoop_prec (x : Wheel) (h : Nat) (f : Hoop → Hoop) : (onHoop x h f).prec = x.prec := rfl
@[simp] theorem onHoop_aggHi (x : Wheel) (h : Nat) (f : Hoop → Hoop) : (onHoop x h f).aggHi = x.aggHi := rfl

@[simp] theorem onMld_svc (x : Wheel) (f : Mould → Mould) : (onMld x f).svc = x.svc := rfl
@[simp] theorem onMld_saveSlots (x : Wheel) (f : Mould → Mould) : (onMld x f).saveSlots = x.saveSlots := rfl
@[simp] theorem onMld_yieldWait (x : Wheel) (f : Mould → Mould) : (onMld x f).yieldWait = x.yieldWait := rfl
@[simp] theorem onMld_cave (x : Wheel) (f : Mould → Mould) : (onMld x f).cave = x.cave := rfl
@[simp] theorem onMld_caveBad (x : Wheel) (f : Mould → Mould) : (onMld x f).caveBad = x.caveBad := rfl
@[simp] theorem onMld_unseen (x : Wheel) (f : Mould → Mould) : (onMld x f).unseen = x.unseen := rfl
@[simp] theorem onMld_vats (x : Wheel) (f : Mould → Mould) : (onMld x f).vats = x.vats := rfl
@[simp] theorem onMld_presses (x : Wheel) (f : Mould → Mould) : (onMld x f).presses = x.presses := rfl
@[simp] theorem onMld_ladles (x : Wheel) (f : Mould → Mould) : (onMld x f).ladles = x.ladles := rfl
@[simp] theorem onMld_graders (x : Wheel) (f : Mould → Mould) : (onMld x f).graders = x.graders := rfl
@[simp] theorem onMld_hoops (x : Wheel) (f : Mould → Mould) : (onMld x f).hoops = x.hoops := rfl
@[simp] theorem onMld_whey (x : Wheel) (f : Mould → Mould) : (onMld x f).whey = x.whey := rfl
@[simp] theorem onMld_rnt (x : Wheel) (f : Mould → Mould) : (onMld x f).rnt = x.rnt := rfl
@[simp] theorem onMld_mem (x : Wheel) (f : Mould → Mould) : (onMld x f).mem = x.mem := rfl
@[simp] theorem onMld_ldl (x : Wheel) (f : Mould → Mould) : (onMld x f).ldl = x.ldl := rfl
@[simp] theorem onMld_prec (x : Wheel) (f : Mould → Mould) : (onMld x f).prec = x.prec := rfl
@[simp] theorem onMld_aggHi (x : Wheel) (f : Mould → Mould) : (onMld x f).aggHi = x.aggHi := rfl

@[simp] theorem onMem_svc (x : Wheel) (f : Mem → Mem) : (onMem x f).svc = x.svc := rfl
@[simp] theorem onMem_saveSlots (x : Wheel) (f : Mem → Mem) : (onMem x f).saveSlots = x.saveSlots := rfl
@[simp] theorem onMem_yieldWait (x : Wheel) (f : Mem → Mem) : (onMem x f).yieldWait = x.yieldWait := rfl
@[simp] theorem onMem_cave (x : Wheel) (f : Mem → Mem) : (onMem x f).cave = x.cave := rfl
@[simp] theorem onMem_caveBad (x : Wheel) (f : Mem → Mem) : (onMem x f).caveBad = x.caveBad := rfl
@[simp] theorem onMem_unseen (x : Wheel) (f : Mem → Mem) : (onMem x f).unseen = x.unseen := rfl
@[simp] theorem onMem_vats (x : Wheel) (f : Mem → Mem) : (onMem x f).vats = x.vats := rfl
@[simp] theorem onMem_presses (x : Wheel) (f : Mem → Mem) : (onMem x f).presses = x.presses := rfl
@[simp] theorem onMem_ladles (x : Wheel) (f : Mem → Mem) : (onMem x f).ladles = x.ladles := rfl
@[simp] theorem onMem_graders (x : Wheel) (f : Mem → Mem) : (onMem x f).graders = x.graders := rfl
@[simp] theorem onMem_hoops (x : Wheel) (f : Mem → Mem) : (onMem x f).hoops = x.hoops := rfl
@[simp] theorem onMem_whey (x : Wheel) (f : Mem → Mem) : (onMem x f).whey = x.whey := rfl
@[simp] theorem onMem_rnt (x : Wheel) (f : Mem → Mem) : (onMem x f).rnt = x.rnt := rfl
@[simp] theorem onMem_mld (x : Wheel) (f : Mem → Mem) : (onMem x f).mld = x.mld := rfl
@[simp] theorem onMem_ldl (x : Wheel) (f : Mem → Mem) : (onMem x f).ldl = x.ldl := rfl
@[simp] theorem onMem_prec (x : Wheel) (f : Mem → Mem) : (onMem x f).prec = x.prec := rfl
@[simp] theorem onMem_aggHi (x : Wheel) (f : Mem → Mem) : (onMem x f).aggHi = x.aggHi := rfl

@[simp] theorem caveStore_svc (x : Wheel) (a : Nat) (bs : List Byte) : (caveStore x a bs).svc = x.svc := rfl
@[simp] theorem caveStore_saveSlots (x : Wheel) (a : Nat) (bs : List Byte) : (caveStore x a bs).saveSlots = x.saveSlots := rfl
@[simp] theorem caveStore_yieldWait (x : Wheel) (a : Nat) (bs : List Byte) : (caveStore x a bs).yieldWait = x.yieldWait := rfl
@[simp] theorem caveStore_vats (x : Wheel) (a : Nat) (bs : List Byte) : (caveStore x a bs).vats = x.vats := rfl
@[simp] theorem caveStore_presses (x : Wheel) (a : Nat) (bs : List Byte) : (caveStore x a bs).presses = x.presses := rfl
@[simp] theorem caveStore_ladles (x : Wheel) (a : Nat) (bs : List Byte) : (caveStore x a bs).ladles = x.ladles := rfl
@[simp] theorem caveStore_graders (x : Wheel) (a : Nat) (bs : List Byte) : (caveStore x a bs).graders = x.graders := rfl
@[simp] theorem caveStore_hoops (x : Wheel) (a : Nat) (bs : List Byte) : (caveStore x a bs).hoops = x.hoops := rfl
@[simp] theorem caveStore_whey (x : Wheel) (a : Nat) (bs : List Byte) : (caveStore x a bs).whey = x.whey := rfl
@[simp] theorem caveStore_rnt (x : Wheel) (a : Nat) (bs : List Byte) : (caveStore x a bs).rnt = x.rnt := rfl
@[simp] theorem caveStore_mld (x : Wheel) (a : Nat) (bs : List Byte) : (caveStore x a bs).mld = x.mld := rfl
@[simp] theorem caveStore_mem (x : Wheel) (a : Nat) (bs : List Byte) : (caveStore x a bs).mem = x.mem := rfl
@[simp] theorem caveStore_ldl (x : Wheel) (a : Nat) (bs : List Byte) : (caveStore x a bs).ldl = x.ldl := rfl
@[simp] theorem caveStore_prec (x : Wheel) (a : Nat) (bs : List Byte) : (caveStore x a bs).prec = x.prec := rfl
@[simp] theorem caveStore_aggHi (x : Wheel) (a : Nat) (bs : List Byte) : (caveStore x a bs).aggHi = x.aggHi := rfl

@[simp] theorem caveShow_svc (x : Wheel) (a n : Nat) : (caveShow x a n).svc = x.svc := rfl
@[simp] theorem caveShow_saveSlots (x : Wheel) (a n : Nat) : (caveShow x a n).saveSlots = x.saveSlots := rfl
@[simp] theorem caveShow_yieldWait (x : Wheel) (a n : Nat) : (caveShow x a n).yieldWait = x.yieldWait := rfl
@[simp] theorem caveShow_cave (x : Wheel) (a n : Nat) : (caveShow x a n).cave = x.cave := rfl
@[simp] theorem caveShow_caveBad (x : Wheel) (a n : Nat) : (caveShow x a n).caveBad = x.caveBad := rfl
@[simp] theorem caveShow_vats (x : Wheel) (a n : Nat) : (caveShow x a n).vats = x.vats := rfl
@[simp] theorem caveShow_presses (x : Wheel) (a n : Nat) : (caveShow x a n).presses = x.presses := rfl
@[simp] theorem caveShow_ladles (x : Wheel) (a n : Nat) : (caveShow x a n).ladles = x.ladles := rfl
@[simp] theorem caveShow_graders (x : Wheel) (a n : Nat) : (caveShow x a n).graders = x.graders := rfl
@[simp] theorem caveShow_hoops (x : Wheel) (a n : Nat) : (caveShow x a n).hoops = x.hoops := rfl
@[simp] theorem caveShow_whey (x : Wheel) (a n : Nat) : (caveShow x a n).whey = x.whey := rfl
@[simp] theorem caveShow_rnt (x : Wheel) (a n : Nat) : (caveShow x a n).rnt = x.rnt := rfl
@[simp] theorem caveShow_mld (x : Wheel) (a n : Nat) : (caveShow x a n).mld = x.mld := rfl
@[simp] theorem caveShow_mem (x : Wheel) (a n : Nat) : (caveShow x a n).mem = x.mem := rfl
@[simp] theorem caveShow_ldl (x : Wheel) (a n : Nat) : (caveShow x a n).ldl = x.ldl := rfl
@[simp] theorem caveShow_prec (x : Wheel) (a n : Nat) : (caveShow x a n).prec = x.prec := rfl
@[simp] theorem caveShow_aggHi (x : Wheel) (a n : Nat) : (caveShow x a n).aggHi = x.aggHi := rfl

@[simp] theorem caveWrite_svc (x : Wheel) (a : Nat) (bs : List Byte) : (caveWrite x a bs).svc = x.svc := rfl
@[simp] theorem caveWrite_saveSlots (x : Wheel) (a : Nat) (bs : List Byte) : (caveWrite x a bs).saveSlots = x.saveSlots := rfl
@[simp] theorem caveWrite_yieldWait (x : Wheel) (a : Nat) (bs : List Byte) : (caveWrite x a bs).yieldWait = x.yieldWait := rfl
@[simp] theorem caveWrite_vats (x : Wheel) (a : Nat) (bs : List Byte) : (caveWrite x a bs).vats = x.vats := rfl
@[simp] theorem caveWrite_presses (x : Wheel) (a : Nat) (bs : List Byte) : (caveWrite x a bs).presses = x.presses := rfl
@[simp] theorem caveWrite_ladles (x : Wheel) (a : Nat) (bs : List Byte) : (caveWrite x a bs).ladles = x.ladles := rfl
@[simp] theorem caveWrite_graders (x : Wheel) (a : Nat) (bs : List Byte) : (caveWrite x a bs).graders = x.graders := rfl
@[simp] theorem caveWrite_hoops (x : Wheel) (a : Nat) (bs : List Byte) : (caveWrite x a bs).hoops = x.hoops := rfl
@[simp] theorem caveWrite_whey (x : Wheel) (a : Nat) (bs : List Byte) : (caveWrite x a bs).whey = x.whey := rfl
@[simp] theorem caveWrite_rnt (x : Wheel) (a : Nat) (bs : List Byte) : (caveWrite x a bs).rnt = x.rnt := rfl
@[simp] theorem caveWrite_mld (x : Wheel) (a : Nat) (bs : List Byte) : (caveWrite x a bs).mld = x.mld := rfl
@[simp] theorem caveWrite_mem (x : Wheel) (a : Nat) (bs : List Byte) : (caveWrite x a bs).mem = x.mem := rfl
@[simp] theorem caveWrite_ldl (x : Wheel) (a : Nat) (bs : List Byte) : (caveWrite x a bs).ldl = x.ldl := rfl
@[simp] theorem caveWrite_prec (x : Wheel) (a : Nat) (bs : List Byte) : (caveWrite x a bs).prec = x.prec := rfl
@[simp] theorem caveWrite_aggHi (x : Wheel) (a : Nat) (bs : List Byte) : (caveWrite x a bs).aggHi = x.aggHi := rfl

/-! ## Updates of a vat's registers -/

@[simp] theorem sSet_a (r : VatProg) (n : Nat) (y : Word) : (sSet r n y).a = r.a := rfl
@[simp] theorem sSet_v (r : VatProg) (n : Nat) (y : Word) : (sSet r n y).v = r.v := rfl
@[simp] theorem sSet_p (r : VatProg) (n : Nat) (y : Word) : (sSet r n y).p = r.p := rfl
@[simp] theorem sSet_c0 (r : VatProg) (n : Nat) (y : Word) : (sSet r n y).c0 = r.c0 := rfl
@[simp] theorem sSet_c1 (r : VatProg) (n : Nat) (y : Word) : (sSet r n y).c1 = r.c1 := rfl
@[simp] theorem sSet_staging (r : VatProg) (n : Nat) (y : Word) : (sSet r n y).staging = r.staging := rfl
@[simp] theorem sSet_t (r : VatProg) (n : Nat) (y : Word) : (sSet r n y).t = r.t := rfl
@[simp] theorem sSet_inP (r : VatProg) (n : Nat) (y : Word) : (sSet r n y).inP = r.inP := rfl
@[simp] theorem sSet_outP (r : VatProg) (n : Nat) (y : Word) : (sSet r n y).outP = r.outP := rfl
@[simp] theorem sSet_pc (r : VatProg) (n : Nat) (y : Word) : (sSet r n y).pc = r.pc := rfl

@[simp] theorem aSet_s (r : VatProg) (n : Nat) (y : DWord) : (aSet r n y).s = r.s := rfl
@[simp] theorem aSet_v (r : VatProg) (n : Nat) (y : DWord) : (aSet r n y).v = r.v := rfl
@[simp] theorem aSet_p (r : VatProg) (n : Nat) (y : DWord) : (aSet r n y).p = r.p := rfl
@[simp] theorem aSet_c0 (r : VatProg) (n : Nat) (y : DWord) : (aSet r n y).c0 = r.c0 := rfl
@[simp] theorem aSet_c1 (r : VatProg) (n : Nat) (y : DWord) : (aSet r n y).c1 = r.c1 := rfl
@[simp] theorem aSet_staging (r : VatProg) (n : Nat) (y : DWord) : (aSet r n y).staging = r.staging := rfl
@[simp] theorem aSet_t (r : VatProg) (n : Nat) (y : DWord) : (aSet r n y).t = r.t := rfl
@[simp] theorem aSet_inP (r : VatProg) (n : Nat) (y : DWord) : (aSet r n y).inP = r.inP := rfl
@[simp] theorem aSet_outP (r : VatProg) (n : Nat) (y : DWord) : (aSet r n y).outP = r.outP := rfl
@[simp] theorem aSet_pc (r : VatProg) (n : Nat) (y : DWord) : (aSet r n y).pc = r.pc := rfl

@[simp] theorem inPortSet_s (r : VatProg) (q : Nat) (y : VPort) : (inPortSet r q y).s = r.s := rfl
@[simp] theorem inPortSet_a (r : VatProg) (q : Nat) (y : VPort) : (inPortSet r q y).a = r.a := rfl
@[simp] theorem inPortSet_v (r : VatProg) (q : Nat) (y : VPort) : (inPortSet r q y).v = r.v := rfl
@[simp] theorem inPortSet_p (r : VatProg) (q : Nat) (y : VPort) : (inPortSet r q y).p = r.p := rfl
@[simp] theorem inPortSet_c0 (r : VatProg) (q : Nat) (y : VPort) : (inPortSet r q y).c0 = r.c0 := rfl
@[simp] theorem inPortSet_c1 (r : VatProg) (q : Nat) (y : VPort) : (inPortSet r q y).c1 = r.c1 := rfl
@[simp] theorem inPortSet_staging (r : VatProg) (q : Nat) (y : VPort) : (inPortSet r q y).staging = r.staging := rfl
@[simp] theorem inPortSet_t (r : VatProg) (q : Nat) (y : VPort) : (inPortSet r q y).t = r.t := rfl
@[simp] theorem inPortSet_outP (r : VatProg) (q : Nat) (y : VPort) : (inPortSet r q y).outP = r.outP := rfl
@[simp] theorem inPortSet_pc (r : VatProg) (q : Nat) (y : VPort) : (inPortSet r q y).pc = r.pc := rfl

@[simp] theorem outPortSet_s (r : VatProg) (q : Nat) (y : VPort) : (outPortSet r q y).s = r.s := rfl
@[simp] theorem outPortSet_a (r : VatProg) (q : Nat) (y : VPort) : (outPortSet r q y).a = r.a := rfl
@[simp] theorem outPortSet_v (r : VatProg) (q : Nat) (y : VPort) : (outPortSet r q y).v = r.v := rfl
@[simp] theorem outPortSet_p (r : VatProg) (q : Nat) (y : VPort) : (outPortSet r q y).p = r.p := rfl
@[simp] theorem outPortSet_c0 (r : VatProg) (q : Nat) (y : VPort) : (outPortSet r q y).c0 = r.c0 := rfl
@[simp] theorem outPortSet_c1 (r : VatProg) (q : Nat) (y : VPort) : (outPortSet r q y).c1 = r.c1 := rfl
@[simp] theorem outPortSet_staging (r : VatProg) (q : Nat) (y : VPort) : (outPortSet r q y).staging = r.staging := rfl
@[simp] theorem outPortSet_t (r : VatProg) (q : Nat) (y : VPort) : (outPortSet r q y).t = r.t := rfl
@[simp] theorem outPortSet_inP (r : VatProg) (q : Nat) (y : VPort) : (outPortSet r q y).inP = r.inP := rfl
@[simp] theorem outPortSet_pc (r : VatProg) (q : Nat) (y : VPort) : (outPortSet r q y).pc = r.pc := rfl

@[simp] theorem vSetLane_s (r : VatProg) (n i : Nat) (y : Word) : (vSetLane r n i y).s = r.s := rfl
@[simp] theorem vSetLane_a (r : VatProg) (n i : Nat) (y : Word) : (vSetLane r n i y).a = r.a := rfl
@[simp] theorem vSetLane_p (r : VatProg) (n i : Nat) (y : Word) : (vSetLane r n i y).p = r.p := rfl
@[simp] theorem vSetLane_c0 (r : VatProg) (n i : Nat) (y : Word) : (vSetLane r n i y).c0 = r.c0 := rfl
@[simp] theorem vSetLane_c1 (r : VatProg) (n i : Nat) (y : Word) : (vSetLane r n i y).c1 = r.c1 := rfl
@[simp] theorem vSetLane_staging (r : VatProg) (n i : Nat) (y : Word) : (vSetLane r n i y).staging = r.staging := rfl
@[simp] theorem vSetLane_t (r : VatProg) (n i : Nat) (y : Word) : (vSetLane r n i y).t = r.t := rfl
@[simp] theorem vSetLane_inP (r : VatProg) (n i : Nat) (y : Word) : (vSetLane r n i y).inP = r.inP := rfl
@[simp] theorem vSetLane_outP (r : VatProg) (n i : Nat) (y : Word) : (vSetLane r n i y).outP = r.outP := rfl
@[simp] theorem vSetLane_pc (r : VatProg) (n i : Nat) (y : Word) : (vSetLane r n i y).pc = r.pc := rfl

@[simp] theorem pSet_s (r : VatProg) (n : Nat) (y : DWord) : (pSet r n y).s = r.s := by unfold pSet; split <;> rfl
@[simp] theorem pSet_a (r : VatProg) (n : Nat) (y : DWord) : (pSet r n y).a = r.a := by unfold pSet; split <;> rfl
@[simp] theorem pSet_v (r : VatProg) (n : Nat) (y : DWord) : (pSet r n y).v = r.v := by unfold pSet; split <;> rfl
@[simp] theorem pSet_c0 (r : VatProg) (n : Nat) (y : DWord) : (pSet r n y).c0 = r.c0 := by unfold pSet; split <;> rfl
@[simp] theorem pSet_c1 (r : VatProg) (n : Nat) (y : DWord) : (pSet r n y).c1 = r.c1 := by unfold pSet; split <;> rfl
@[simp] theorem pSet_staging (r : VatProg) (n : Nat) (y : DWord) : (pSet r n y).staging = r.staging := by unfold pSet; split <;> rfl
@[simp] theorem pSet_t (r : VatProg) (n : Nat) (y : DWord) : (pSet r n y).t = r.t := by unfold pSet; split <;> rfl
@[simp] theorem pSet_inP (r : VatProg) (n : Nat) (y : DWord) : (pSet r n y).inP = r.inP := by unfold pSet; split <;> rfl
@[simp] theorem pSet_outP (r : VatProg) (n : Nat) (y : DWord) : (pSet r n y).outP = r.outP := by unfold pSet; split <;> rfl
@[simp] theorem pSet_pc (r : VatProg) (n : Nat) (y : DWord) : (pSet r n y).pc = r.pc := by unfold pSet; split <;> rfl
@[simp] theorem tileSet_s (r : VatProg) (n : Nat) (y : Tile) : (tileSet r n y).s = r.s := by unfold tileSet; split <;> rfl
@[simp] theorem tileSet_a (r : VatProg) (n : Nat) (y : Tile) : (tileSet r n y).a = r.a := by unfold tileSet; split <;> rfl
@[simp] theorem tileSet_v (r : VatProg) (n : Nat) (y : Tile) : (tileSet r n y).v = r.v := by unfold tileSet; split <;> rfl
@[simp] theorem tileSet_p (r : VatProg) (n : Nat) (y : Tile) : (tileSet r n y).p = r.p := by unfold tileSet; split <;> rfl
@[simp] theorem tileSet_staging (r : VatProg) (n : Nat) (y : Tile) : (tileSet r n y).staging = r.staging := by unfold tileSet; split <;> rfl
@[simp] theorem tileSet_t (r : VatProg) (n : Nat) (y : Tile) : (tileSet r n y).t = r.t := by unfold tileSet; split <;> rfl
@[simp] theorem tileSet_inP (r : VatProg) (n : Nat) (y : Tile) : (tileSet r n y).inP = r.inP := by unfold tileSet; split <;> rfl
@[simp] theorem tileSet_outP (r : VatProg) (n : Nat) (y : Tile) : (tileSet r n y).outP = r.outP := by unfold tileSet; split <;> rfl
@[simp] theorem tileSet_pc (r : VatProg) (n : Nat) (y : Tile) : (tileSet r n y).pc = r.pc := by unfold tileSet; split <;> rfl

/-! ## What is read back -/

@[simp] theorem wheelOf_setWheel_self (s : State) (k : Nat) (y : Wheel) : wheelOf (setWheel s k y) k = y := by simp [wheelOf, setWheel]
theorem wheelOf_setWheel_ne (s : State) (k j : Nat) (y : Wheel) (h : j ≠ k) : wheelOf (setWheel s k y) j = wheelOf s j := tget_tset_ne _ _ _ h
@[simp] theorem portOf_setPort_self (s : State) (k : Nat) (y : Port) : portOf (setPort s k y) k = y := by simp [portOf, setPort]
theorem portOf_setPort_ne (s : State) (k j : Nat) (y : Port) (h : j ≠ k) : portOf (setPort s k y) j = portOf s j := tget_tset_ne _ _ _ h
@[simp] theorem ctxOf_setCtx_self (s : State) (k : Nat) (y : Ctx) : ctxOf (setCtx s k y) k = y := by simp [ctxOf, setCtx]
theorem ctxOf_setCtx_ne (s : State) (k j : Nat) (y : Ctx) (h : j ≠ k) : ctxOf (setCtx s k y) j = ctxOf s j := tget_tset_ne _ _ _ h
@[simp] theorem vatOf_setVat_self (x : Wheel) (k : Nat) (y : Vat) : vatOf (setVat x k y) k = y := by simp [vatOf, setVat]
theorem vatOf_setVat_ne (x : Wheel) (k j : Nat) (y : Vat) (h : j ≠ k) : vatOf (setVat x k y) j = vatOf x j := tget_tset_ne _ _ _ h
@[simp] theorem pressOf_setPress_self (x : Wheel) (k : Nat) (y : Eng) : pressOf (setPress x k y) k = y := by simp [pressOf, setPress]
theorem pressOf_setPress_ne (x : Wheel) (k j : Nat) (y : Eng) (h : j ≠ k) : pressOf (setPress x k y) j = pressOf x j := tget_tset_ne _ _ _ h
@[simp] theorem ladleOf_setLadle_self (x : Wheel) (k : Nat) (y : Eng) : ladleOf (setLadle x k y) k = y := by simp [ladleOf, setLadle]
theorem ladleOf_setLadle_ne (x : Wheel) (k j : Nat) (y : Eng) (h : j ≠ k) : ladleOf (setLadle x k y) j = ladleOf x j := tget_tset_ne _ _ _ h
@[simp] theorem graderOf_setGrader_self (x : Wheel) (k : Nat) (y : Eng) : graderOf (setGrader x k y) k = y := by simp [graderOf, setGrader]
theorem graderOf_setGrader_ne (x : Wheel) (k j : Nat) (y : Eng) (h : j ≠ k) : graderOf (setGrader x k y) j = graderOf x j := tget_tset_ne _ _ _ h
@[simp] theorem chanOf_setChan_self (x : Wheel) (k : Nat) (y : Chan) : chanOf (setChan x k y) k = y := by simp [chanOf, setChan]
theorem chanOf_setChan_ne (x : Wheel) (k j : Nat) (y : Chan) (h : j ≠ k) : chanOf (setChan x k y) j = chanOf x j := tget_tset_ne _ _ _ h
@[simp] theorem hoopOf_setHoop_self (x : Wheel) (k : Nat) (y : Hoop) : hoopOf (setHoop x k y) k = y := by simp [hoopOf, setHoop]
theorem hoopOf_setHoop_ne (x : Wheel) (k j : Nat) (y : Hoop) (h : j ≠ k) : hoopOf (setHoop x k y) j = hoopOf x j := tget_tset_ne _ _ _ h
@[simp] theorem sGet_sSet_self (r : VatProg) (k : Nat) (y : Word) : sGet (sSet r k y) k = y := by simp [sGet, sSet]
theorem sGet_sSet_ne (r : VatProg) (k j : Nat) (y : Word) (h : j ≠ k) : sGet (sSet r k y) j = sGet r j := tget_tset_ne _ _ _ h
@[simp] theorem aGet_aSet_self (r : VatProg) (k : Nat) (y : DWord) : aGet (aSet r k y) k = y := by simp [aGet, aSet]
theorem aGet_aSet_ne (r : VatProg) (k j : Nat) (y : DWord) (h : j ≠ k) : aGet (aSet r k y) j = aGet r j := tget_tset_ne _ _ _ h
@[simp] theorem inPort_inPortSet_self (r : VatProg) (k : Nat) (y : VPort) : inPort (inPortSet r k y) k = y := by simp [inPort, inPortSet]
theorem inPort_inPortSet_ne (r : VatProg) (k j : Nat) (y : VPort) (h : j ≠ k) : inPort (inPortSet r k y) j = inPort r j := tget_tset_ne _ _ _ h
@[simp] theorem outPort_outPortSet_self (r : VatProg) (k : Nat) (y : VPort) : outPort (outPortSet r k y) k = y := by simp [outPort, outPortSet]
theorem outPort_outPortSet_ne (r : VatProg) (k j : Nat) (y : VPort) (h : j ≠ k) : outPort (outPortSet r k y) j = outPort r j := tget_tset_ne _ _ _ h
@[simp] theorem setWheel_setWheel (s : State) (k : Nat) (y z : Wheel) : setWheel (setWheel s k y) k z = setWheel s k z := by simp [setWheel]
@[simp] theorem setPort_setPort (s : State) (k : Nat) (y z : Port) : setPort (setPort s k y) k z = setPort s k z := by simp [setPort]
@[simp] theorem setCtx_setCtx (s : State) (k : Nat) (y z : Ctx) : setCtx (setCtx s k y) k z = setCtx s k z := by simp [setCtx]
@[simp] theorem setVat_setVat (x : Wheel) (k : Nat) (y z : Vat) : setVat (setVat x k y) k z = setVat x k z := by simp [setVat]
@[simp] theorem setPress_setPress (x : Wheel) (k : Nat) (y z : Eng) : setPress (setPress x k y) k z = setPress x k z := by simp [setPress]
@[simp] theorem setLadle_setLadle (x : Wheel) (k : Nat) (y z : Eng) : setLadle (setLadle x k y) k z = setLadle x k z := by simp [setLadle]
@[simp] theorem setGrader_setGrader (x : Wheel) (k : Nat) (y z : Eng) : setGrader (setGrader x k y) k z = setGrader x k z := by simp [setGrader]
@[simp] theorem setChan_setChan (x : Wheel) (k : Nat) (y z : Chan) : setChan (setChan x k y) k z = setChan x k z := by simp [setChan]
@[simp] theorem setHoop_setHoop (x : Wheel) (k : Nat) (y z : Hoop) : setHoop (setHoop x k y) k z = setHoop x k z := by simp [setHoop]
@[simp] theorem wheelOf_onWheel_self (s : State) (k : Nat) (f : Wheel → Wheel) : wheelOf (onWheel s k f) k = f (wheelOf s k) := by simp [onWheel]
theorem wheelOf_onWheel_ne (s : State) (k j : Nat) (f : Wheel → Wheel) (h : j ≠ k) : wheelOf (onWheel s k f) j = wheelOf s j := wheelOf_setWheel_ne _ _ _ _ h
@[simp] theorem portOf_onPort_self (s : State) (k : Nat) (f : Port → Port) : portOf (onPort s k f) k = f (portOf s k) := by simp [onPort]
theorem portOf_onPort_ne (s : State) (k j : Nat) (f : Port → Port) (h : j ≠ k) : portOf (onPort s k f) j = portOf s j := portOf_setPort_ne _ _ _ _ h
@[simp] theorem ctxOf_onCtx_self (s : State) (k : Nat) (f : Ctx → Ctx) : ctxOf (onCtx s k f) k = f (ctxOf s k) := by simp [onCtx]
theorem ctxOf_onCtx_ne (s : State) (k j : Nat) (f : Ctx → Ctx) (h : j ≠ k) : ctxOf (onCtx s k f) j = ctxOf s j := ctxOf_setCtx_ne _ _ _ _ h
@[simp] theorem vatOf_onVat_self (x : Wheel) (k : Nat) (f : Vat → Vat) : vatOf (onVat x k f) k = f (vatOf x k) := by simp [onVat]
theorem vatOf_onVat_ne (x : Wheel) (k j : Nat) (f : Vat → Vat) (h : j ≠ k) : vatOf (onVat x k f) j = vatOf x j := vatOf_setVat_ne _ _ _ _ h
@[simp] theorem hoopOf_onHoop_self (x : Wheel) (k : Nat) (f : Hoop → Hoop) : hoopOf (onHoop x k f) k = f (hoopOf x k) := by simp [onHoop]
theorem hoopOf_onHoop_ne (x : Wheel) (k j : Nat) (f : Hoop → Hoop) (h : j ≠ k) : hoopOf (onHoop x k f) j = hoopOf x j := hoopOf_setHoop_ne _ _ _ _ h
@[simp] theorem pGet_pSet_self (r : VatProg) (n : Nat) (y : DWord) (h : n ≠ 0) : pGet (pSet r n y) n = y := by
  simp [pGet, pSet, h]
theorem pGet_pSet_ne (r : VatProg) (n j : Nat) (y : DWord) (h : j ≠ n) : pGet (pSet r n y) j = pGet r j := by
  unfold pGet pSet
  split
  · rfl
  · split
    · rfl
    · exact tget_tset_ne _ _ _ h
@[simp] theorem pGet_zero (r : VatProg) : pGet r 0 = 0xFFFFFFFFFFFFFFFF := rfl
@[simp] theorem vLane_vSetLane_self (r : VatProg) (n i : Nat) (y : Word) : vLane (vSetLane r n i y) n i = y := by
  simp [vLane, vSetLane]
theorem vLane_vSetLane_ne (r : VatProg) (n i m j : Nat) (y : Word) (h : 64 * m + j ≠ 64 * n + i) :
    vLane (vSetLane r n i y) m j = vLane r m j := tget_tset_ne _ _ _ h
@[simp] theorem tileGet_tileSet_self (r : VatProg) (c : Nat) (y : Tile) : tileGet (tileSet r c y) c = y := by
  unfold tileGet tileSet; split <;> rfl

end Sys2Proof.Machine
end

