-- ==== Sys2Proof/Laws/Vat.lean ====
section
/-!
SUPPORT. Sys2Proof/Laws/Vat.lean: what a slot command does, once for every instruction of the vat's slots.
-/

namespace Sys2Proof.Machine

open Sys2Proof Sys2Proof.Safety

theorem SameVat.trans {a b c : Vat} (h : SameVat a b) (h' : SameVat b c) : SameVat a c := by
  unfold SameVat at *; rw [h'] ; rw [h]

/-- The end of a bundle moves the program counter and no other register. -/
theorem bundleDone_prog (t : Vat) : noPc (bundleDone t).prog = noPc t.prog := by
  unfold bundleDone noPc
  repeat' split
  all_goals rfl

theorem bundleDone_same (t : Vat) : SameVat t (bundleDone t) := by
  unfold bundleDone SameVat
  repeat' split
  all_goals rfl

/-- A slot that takes effect: the vat's registers change as its meaning says, and nothing but its place in the program. -/
theorem runSlot_writes {x : Wheel} {v k word : Nat} {i : Issue} {eff : VEff} {f : VatProg → VatProg}
  (hf : ∀ r, noPc (f r) = f (noPc r)) (hi : (vatOf x v).issue = some i) (hd : i.done.contains k = false)
  (hw : bundleSlot (tget 0 (vatOf x v).istore (vatOf x v).prog.pc) k = word) {nx : Nat}
  (e : eff ⟨x, v, i.snap, i.next, i.mma⟩ = .ok { vProg ⟨x, v, i.snap, i.next, i.mma⟩ f with next := nx }) :
  ∃ y, runSlot x v k word eff = setVat x v y ∧ noPc y.prog = f (noPc (vatOf x v).prog) ∧ SameVat (vatOf x v) y := by
  refine ⟨bundleDone { vatOf x v with prog := f (vatOf x v).prog, issue := some { i with done := insertNat k i.done, next := nx } }, ?_, ?_, ?_⟩
  · simp only [runSlot, hi, hd, hw, e, Bool.false_eq_true, if_false, ne_eq, not_true_eq_false, vProg, vOn, bundleEnd, onVat, vatOf_setVat_self, setVat_setVat, Option.map_some]
  · rw [bundleDone_prog]; exact hf _
  · exact SameVat.trans (b := { vatOf x v with prog := f (vatOf x v).prog, issue := some { i with done := insertNat k i.done, next := nx } }) rfl (bundleDone_same _)

/-- A slot command whose meaning only writes registers: the registers change as its meaning says and nothing else does. -/
theorem slotCmd_writes {s : State} {w v : Nat} {k word : Nat} {eff : VEff} {f : VatProg → VatProg}
  (hf : ∀ r, noPc (f r) = f (noPc r)) (ho : SlotOpen s w v k word)
  (he : ∀ x nx m, ∃ nx', eff ⟨x, v, slotSrc s w v, nx, m⟩ = .ok { vProg ⟨x, v, slotSrc s w v, nx, m⟩ f with next := nx' }) :
  SlotWrites s (onWheel s w (fun x => slotCmd x v k word eff)) w v f := by
  obtain ⟨h1, h2, h3⟩ := ho
  have fin : ∀ y, slotCmd (wheelOf s w) v k word eff = setVat (wheelOf s w) v y → noPc y.prog = f (regsAt s w v) →
      SameVat (vatAt s w v) y → SlotWrites s (onWheel s w (fun x => slotCmd x v k word eff)) w v f := by
    intro y e e2 e3
    simp only [SlotWrites, OnlyVat, regsAt, vatAt, onWheel, e, wheelOf_setWheel_self, vatOf_setVat_self] at *
    exact ⟨e2, e3, trivial⟩
  unfold vatAt at *
  cases hi : (vatOf (wheelOf s w) v).issue with
  | some i =>
    rw [hi] at h3
    obtain ⟨nx, en⟩ := he (wheelOf s w) i.next i.mma
    have hs : slotSrc s w v = i.snap := by simp [slotSrc, vatAt, hi]
    rw [hs] at en
    obtain ⟨y, e, e2, e3⟩ := runSlot_writes hf hi h3 h2 en
    exact fin y (by simp only [slotCmd, h1, hi, e, Bool.not_true, Bool.false_eq_true, if_false]) e2 e3
  | none =>
    rw [hi] at h3
    have hs : slotSrc s w v = (vatOf (wheelOf s w) v).prog := by simp [slotSrc, vatAt, hi]
    let x1 := onVat (wheelOf s w) v (fun t => { t with issue := some { snap := t.prog, next := t.prog.pc + 1 } })
    obtain ⟨nx, en⟩ := he x1 ((vatOf (wheelOf s w) v).prog.pc + 1) 0
    rw [hs] at en
    obtain ⟨y, e, e2, e3⟩ := runSlot_writes (x := x1) (v := v) (k := k) (word := word) hf (i := { snap := (vatOf (wheelOf s w) v).prog, next := (vatOf (wheelOf s w) v).prog.pc + 1 }) (by simp [x1]) rfl (by simpa [x1] using h2) en
    refine fin y ?_ (by simpa [x1, regsAt, vatAt] using e2) (by simpa [SameVat, x1, vatAt] using e3)
    simp only [slotCmd, h1, hi, h3, h2, Bool.not_true, Bool.false_eq_true, if_false, ne_eq, not_true_eq_false]
    exact e.trans (by simp [x1, onVat])

theorem vLane_foldl (xs : List Word) (d : Nat) (l : List Nat) (r : VatProg) (n i : Nat) (hi : i < 64)
    (hl : ∀ j ∈ l, j < 64) : vLane (l.foldl (fun q j => vSetLane q d j (nth 0 xs j)) r) n i =
      if n = d ∧ i ∈ l then nth 0 xs i else vLane r n i := by
  induction l generalizing r with
  | nil => simp
  | cons j l ih =>
    have hj : j < 64 := hl j List.mem_cons_self
    rw [List.foldl_cons, ih _ (fun k hk => hl k (List.mem_cons_of_mem _ hk))]
    by_cases hn : n = d
    · subst hn
      by_cases hij : i = j
      · subst hij; simp
      · rw [vLane_vSetLane_ne _ _ _ _ _ _ (by omega)]
        simp [hij]
    · rw [vLane_vSetLane_ne _ _ _ _ _ _ (by omega)]
      simp [hn]

/-- Writing a vector register writes its 64 lanes and no other register's. -/
theorem vLane_vSet (r : VatProg) (d : Nat) (xs : List Word) (n i : Nat) (hi : i < 64) :
    vLane (vSet r d xs) n i = if n = d then nth 0 xs i else vLane r n i := by
  unfold vSet
  rw [vLane_foldl xs d (upto 64) r n i hi (fun j hj => by simpa [upto] using hj)]
  simp [upto, hi]

theorem vSet_foldl_frame (xs : List Word) (d : Nat) (l : List Nat) (r : VatProg) :
    l.foldl (fun q j => vSetLane q d j (nth 0 xs j)) r =
      { r with v := (l.foldl (fun q j => vSetLane q d j (nth 0 xs j)) r).v } := by
  induction l generalizing r with
  | nil => rfl
  | cons j l ih => rw [List.foldl_cons, ih]; rfl

/-- Writing a vector register leaves the other register files alone. -/
theorem vSet_frame (r : VatProg) (d : Nat) (xs : List Word) : vSet r d xs = { r with v := (vSet r d xs).v } :=
  vSet_foldl_frame xs d (upto 64) r

theorem vSet_noPc_foldl (xs : List Word) (d : Nat) (l : List Nat) (r : VatProg) :
    noPc (l.foldl (fun q j => vSetLane q d j (nth 0 xs j)) r) = l.foldl (fun q j => vSetLane q d j (nth 0 xs j)) (noPc r) := by
  induction l generalizing r with
  | nil => rfl
  | cons j l ih => rw [List.foldl_cons, List.foldl_cons, ih]; rfl

theorem vSet_noPc (r : VatProg) (d : Nat) (xs : List Word) : noPc (vSet r d xs) = vSet (noPc r) d xs :=
  vSet_noPc_foldl xs d (upto 64) r

/-- A slot command that writes a vector register: lane by lane, and nothing else. -/
theorem slotCmd_lanes {s : State} {w v k word d : Nat} {eff : VEff} {xs : List Word} (ho : SlotOpen s w v k word)
    (he : ∀ x nx m, eff ⟨x, v, slotSrc s w v, nx, m⟩ = putV ⟨x, v, slotSrc s w v, nx, m⟩ d xs) :
    LanesWritten s (onWheel s w (fun x => slotCmd x v k word eff)) w v d (fun i => nth 0 xs i) := by
  obtain ⟨h1, h2, h3⟩ := slotCmd_writes (f := fun r => vSet r d xs) (fun r => vSet_noPc r d xs) ho
    (fun x nx m => ⟨nx, he x nx m⟩)
  refine ⟨fun i hi => ?_, fun n i hi hn => ?_, ?_, h2, h3⟩
  · rw [h1, vLane_vSet _ _ _ _ _ hi, if_pos rfl]
  · rw [h1, vLane_vSet _ _ _ _ _ hi, if_neg hn]
  · rw [h1]; exact vSet_frame _ _ _

end Sys2Proof.Machine
end

