-- ==== Sys2Proof/Tests/Slice0.lean ====
section
/-!
SUPPORT. Sys2Proof/Tests/Slice0.lean: tests of the model. `test_…` compare one step on a small state with a value worked
out from the spec; `refused_…` are ill-formed commands; `wit_<Obligation>…` meet the hypotheses of a statement together.
-/

set_option Elab.async false

namespace Sys2Proof.Tests

open Sys2Proof Sys2Proof.Machine Sys2Proof.Safety

/-! ## Ill-formed commands are refused -/

theorem refused_apertureWrite : (Instr.apertureWrite 1 5 0 60 [0, 0, 0, 0, 0]).wellFormed = false := by decide
theorem formed_apertureWrite : (Instr.apertureWrite 1 5 0 60 [0, 0, 0, 0]).wellFormed = true := by decide
theorem refused_bar4Read : (Instr.bar4Read 0 (2 ^ 36 - 3) 4).wellFormed = false := by decide
theorem formed_bar4Read : (Instr.bar4Read 0 (2 ^ 36 - 4) 4).wellFormed = true := by decide
theorem refused_bar4Write : (Instr.bar4Write 0 (2 ^ 36) [7]).wellFormed = false := by decide
theorem formed_bar4Write : (Instr.bar4Write 0 (2 ^ 36 - 1) [7]).wellFormed = true := by decide
theorem refused_registerWrite_alignment : (Instr.registerWrite 0 0x14 0 1).wellFormed = false := by decide
theorem refused_registerWrite_range : (Instr.registerWrite 0 0x1000000 0 0).wellFormed = false := by decide
theorem formed_registerWrite : (Instr.registerWrite 0 0xFFFFF8 0 1).wellFormed = true := by decide
theorem refused_lowWordRead : (Instr.lowWordRead 0 (0x12, false)).wellFormed = false := by decide
theorem refused_lowWordRead_wide : (Instr.lowWordRead 0 (0x14, true)).wellFormed = false := by decide
theorem refused_privateRead_none : (Instr.privateRead 0).wellFormed = false := by decide
theorem refused_privateRead_long : (Instr.privateRead 65).wellFormed = false := by decide
theorem formed_privateRead : (Instr.privateRead 64).wellFormed = true := by decide
theorem malformed_apertureWrite :
    (match exec (.apertureWrite 1 5 0 60 [0, 0, 0, 0, 0]) {} with | .fault f => decide (f = .malformed) | _ => false) = true := by
  decide +kernel

/-! ## Small states -/

/-- What a command gives, where it gives a next state. -/
def nextOf (c : Instr) (s : State) : Option State :=
  match exec c s with
  | .next t => some t
  | _ => none

/-- A value of the next state. -/
def after {α : Type} (c : Instr) (s : State) (f : State → α) : Option α := (nextOf c s).map f

def onW (w : Nat) (x : Wheel) : State := { wheels := [(w, x)] }
theorem wheelOf_onW (w : Nat) (x : Wheel) : wheelOf (onW w x) w = x := by simp [wheelOf, onW, tget]
def oneVat (w v : Nat) (a : Vat) : State := onW w { vats := [(v, a)] }
def opr : OpRef := ⟨0, 0, 0, 0, 0, 0, 0⟩

/-- A vat that runs this program state on a bundle at its program counter. -/
def runs (b : BitVec 256) (p : VatProg) : Vat :=
  { st := .run, op := some opr, prog := p, istore := [(p.pc, b)], started := true }

/-- A bundle with one instruction. -/
def bundle1 (k word : Nat) : BitVec 256 := BitVec.ofNat 256 (word * 2 ^ (64 * k))

/-- Vat 31 of wheel 7 at a bundle with one instruction. -/
def slotSt (p : VatProg) (k word : Nat) : State := oneVat 7 31 (runs (bundle1 k word) p)

def slotOk (s : State) (w v k word : Nat) : Bool :=
  canIssue (vatAt s w v) && (bundleSlot (tget 0 (vatAt s w v).istore (vatAt s w v).prog.pc) k == word) &&
    (vatAt s w v).issue.isNone && decide (issueCheck (wheelOf s w) v = .go)

theorem slotOpen_of {s : State} {w v k word : Nat} (h : slotOk s w v k word = true) : SlotOpen s w v k word := by
  simp only [slotOk, Bool.and_eq_true, beq_iff_eq, Option.isNone_iff_eq_none, decide_eq_true_eq] at h
  obtain ⟨⟨⟨h1, h2⟩, h3⟩, h4⟩ := h
  exact ⟨h1, h2, by rw [h3]; exact h4⟩

/-- The same with the bundle already in issue and this slot still to take effect. -/
def midSt (p : VatProg) (k word : Nat) : State :=
  oneVat 7 31 { runs (bundle1 k word) p with issue := some { snap := p, next := p.pc + 1 } }

def midOk (s : State) (w v k word : Nat) : Bool :=
  canIssue (vatAt s w v) && (bundleSlot (tget 0 (vatAt s w v).istore (vatAt s w v).prog.pc) k == word) &&
    decide ((vatAt s w v).issue.map (·.done) = some [])

theorem midOpen_of {s : State} {w v k word : Nat} (h : midOk s w v k word = true) : SlotOpen s w v k word := by
  simp only [midOk, Bool.and_eq_true, beq_iff_eq, decide_eq_true_eq] at h
  obtain ⟨⟨h1, h2⟩, h3⟩ := h
  refine ⟨h1, h2, ?_⟩
  cases hi : (vatAt s w v).issue with
  | none => rw [hi] at h3; cases h3
  | some i =>
    rw [hi] at h3
    simp only [Option.map_some, Option.some.injEq] at h3
    simp [h3]

/-! ## Vats: the slots -/

/-- Registers at the ends of their files, a BF16, an exact and an integer tile being chosen by the tests. -/
def regs0 : VatProg :=
  { pc := 511, s := [(1, 0xFFFFFFFF), (2, 1), (31, 0x80000000)], a := [(15, 0x100)], p := [(1, 0x5), (7, 0x8000000000000003)]
    v := [(64, 5), (127, 0x80000000), (128, 7), (2047, 0x3F800000)] }

/-- The words of the control slot with operands at their bounds. -/
def controlWords : List Nat :=
  [slotWord 0x00 0 0 0 0 0 0, slotWord 0x01 0 0 0 0 0 0, slotWord 0x02 0 31 0 0 0 0, slotWord 0x03 0 0 0 0 0 511,
   slotWord 0x04 0 31 0 0 0 511, slotWord 0x05 0 31 0 0 0 0, slotWord 0x06 31 0 0 0 0 511,
   slotWord 0x08 31 0 0 0 0 0xFFFFFFFF, slotWord 0x0A 31 31 0 0 0 0xFFFFFFFF] ++
  ([0x09, 0x0B, 0x0C, 0x0D, 0x0E, 0x0F, 0x10, 0x11, 0x12, 0x13, 0x14, 0x15, 0x16, 0x17].map (fun op => slotWord op 31 31 0 0 0 0)) ++
  ([0x20, 0x21, 0x22].map (fun op => slotWord op 7 0 7 0 0 0)) ++
  [slotWord 0x23 7 0 0 0 0 0, slotWord 0x24 1 31 0 0 0 0, slotWord 0x25 7 31 31 0 0 0, slotWord 0x26 31 7 0 0 0 0]

theorem wit_ControlSlotResults_ControlSlotFlow :
    ∀ q ∈ controlWords, SlotOpen (slotSt regs0 0 q) 7 31 0 q ∧ PlainBundle (slotSt regs0 0 q) 7 31 ∧
      ∀ i, (vatAt (slotSt regs0 0 q) 7 31).issue = some i → i.done.length < 3 := by
  intro q h
  have k : ∀ q ∈ controlWords, slotOk (slotSt regs0 0 q) 7 31 0 q = true ∧ (vatAt (slotSt regs0 0 q) 7 31).issue = none := by
    decide +kernel
  obtain ⟨h1, h2⟩ := k q h
  refine ⟨slotOpen_of h1, ?_, ?_⟩ <;> intro i e <;> rw [h2] at e <;> cases e

/-- The last slot of a bundle whose other slots have taken effect. -/
def lastSlot (word : Nat) : State :=
  oneVat 7 31 { runs (bundle1 0 word) regs0 with issue := some { snap := regs0, done := [1, 2, 3], next := 512 } }

theorem wit_ControlSlotFlow_last : ∀ q ∈ [slotWord 0x01 0 0 0 0 0 0, slotWord 0x02 0 31 0 0 0 0],
    SlotOpen (lastSlot q) 7 31 0 q ∧ PlainBundle (lastSlot q) 7 31 ∧ LastSlot (lastSlot q) 7 31 := by
  intro q h
  have k : ∀ q ∈ [slotWord 0x01 0 0 0 0 0 0, slotWord 0x02 0 31 0 0 0 0],
      canIssue (vatAt (lastSlot q) 7 31) = true ∧
      bundleSlot (tget 0 (vatAt (lastSlot q) 7 31).istore (vatAt (lastSlot q) 7 31).prog.pc) 0 = q ∧
      (vatAt (lastSlot q) 7 31).issue = some { snap := regs0, done := [1, 2, 3], next := 512 } ∧
      (vatAt (lastSlot q) 7 31).wait = none := by decide +kernel
  obtain ⟨h1, h2, h3, h4⟩ := k q h
  refine ⟨⟨h1, h2, by rw [h3]; rfl⟩, ?_, h4, _, h3, rfl⟩
  intro i e
  rw [h3] at e
  cases e
  exact ⟨rfl, rfl⟩

theorem test_add_wraps : after (.add 7 31 31 1 2) (slotSt regs0 0 (slotWord 0x09 31 1 2 0 0 0))
    (fun t => (sGet (regsAt t 7 31) 31, sGet (regsAt t 7 31) 1)) = some (0, 0xFFFFFFFF) := by decide +kernel
theorem test_sub_same : after (.sub 7 31 2 2 1) (slotSt regs0 0 (slotWord 0x0B 2 2 1 0 0 0))
    (fun t => sGet (regsAt t 7 31) 2) = some 2 := by decide +kernel
theorem test_sra_sign : after (.sra 7 31 0 31 1) (slotSt regs0 0 (slotWord 0x12 0 31 1 0 0 0))
    (fun t => sGet (regsAt t 7 31) 0) = some 0xFFFFFFFF := by decide +kernel
theorem test_shl_mod32 : after (.shl 7 31 0 2 1) (slotSt regs0 0 (slotWord 0x10 0 2 1 0 0 0))
    (fun t => sGet (regsAt t 7 31) 0) = some 0x80000000 := by decide +kernel
theorem test_slt_signed : after (.slt 7 31 0 1 2) (slotSt regs0 0 (slotWord 0x15 0 1 2 0 0 0))
    (fun t => sGet (regsAt t 7 31) 0) = some 1 := by decide +kernel
theorem test_sltu_unsigned : after (.sltu 7 31 0 1 2) (slotSt regs0 0 (slotWord 0x16 0 1 2 0 0 0))
    (fun t => sGet (regsAt t 7 31) 0) = some 0 := by decide +kernel
theorem test_pcount_p0 : after (.pcount 7 31 3 0) (slotSt regs0 0 (slotWord 0x26 3 0 0 0 0 0))
    (fun t => sGet (regsAt t 7 31) 3) = some 64 := by decide +kernel
theorem test_pset_halves : after (.pset 7 31 2 2 31) (slotSt regs0 0 (slotWord 0x25 2 2 31 0 0 0))
    (fun t => pGet (regsAt t 7 31) 2) = some 0x8000000000000001 := by decide +kernel
theorem test_loop_zero : after (.loop 7 31 0 9) (slotSt regs0 0 (slotWord 0x06 0 0 0 0 0 9))
    (fun t => (sGet (regsAt t 7 31) 0, goesTo t 7 31)) = some (0xFFFFFFFF, 9) := by decide +kernel
theorem test_loop_ends : after (.loop 7 31 2 9) (slotSt regs0 0 (slotWord 0x06 2 0 0 0 0 9))
    (fun t => (sGet (regsAt t 7 31) 2, goesTo t 7 31)) = some (0, 512) := by decide +kernel
theorem test_trap_value : after (.trap 7 31 1) (lastSlot (slotWord 0x02 0 1 0 0 0 0))
    (fun t => (vatAt t 7 31).fin) = some (some ⟨0x0149, 511, 0xFFFFFFFF⟩) := by decide +kernel

/-- The words of the vector slot. -/
def vectorWords : List Nat :=
  ([0x01, 0x02, 0x03, 0x05, 0x06, 0x20, 0x21, 0x22, 0x23, 0x24, 0x25, 0x29, 0x2A, 0x39].map (fun op => slotWord op 31 0 31 0 7 0)) ++
  [slotWord 0x04 31 0 1 31 7 0] ++
  ([0x07, 0x08, 0x10, 0x11, 0x12, 0x13, 0x14, 0x15, 0x3A, 0x3B].map (fun op => slotWord op 0 31 0 0 0 0)) ++
  ([0x18, 0x19, 0x1A, 0x1B, 0x2B].map (fun op => slotWord op 7 0 31 0 0 0)) ++
  ([0x26, 0x27, 0x28].map (fun op => slotWord op 31 0 0 0 7 31)) ++
  [slotWord 0x38 31 31 0 0 7 0, slotWord 0x3C 31 0 0 0 7 0, slotWord 0x30 31 0 0 0 7 0x10201, slotWord 0x30 0 31 0 0 0 0x0105,
   slotWord 0x31 31 0 0 0 7 0x08, slotWord 0x31 0 31 0 0 0 0x0C, slotWord 0x32 31 0 0 0 7 0x0C]

theorem wit_IntegerLanes_FloatLanes_CompareInstructions_Conversions : ∀ q ∈ vectorWords, SlotOpen (slotSt regs0 2 q) 7 31 2 q := by
  intro q h
  have k : ∀ q ∈ vectorWords, slotOk (slotSt regs0 2 q) 7 31 2 q = true := by decide +kernel
  exact slotOpen_of (k q h)

theorem wit_Conversions_types : vcvtTypeOk 0x01 = true ∧ vcvtTypeOk 0x02 = true ∧ vcvtTypeOk 0x05 = true ∧ tyMX 0x08 = true ∧
    tyMX 0x0C = true ∧ (tyFmt 0x08).isSome = true ∧ (tyFmt 0x0C).isSome = true := by decide

theorem test_viadd_predicated : after (.viadd 7 31 0 1 2 7) (slotSt regs0 2 (slotWord 0x20 0 1 2 0 7 0))
    (fun t => (vLane (regsAt t 7 31) 0 0, vLane (regsAt t 7 31) 0 63, vLane (regsAt t 7 31) 0 2)) = some (12, 0x80000000, 0) := by
  decide +kernel
theorem test_vneg_zero : after (.vneg 7 31 0 1 7) (slotSt regs0 2 (slotWord 0x08 0 1 0 0 7 0))
    (fun t => (vLane (regsAt t 7 31) 0 63, vLane (regsAt t 7 31) 0 1)) = some (0, 0x80000000) := by decide +kernel
theorem test_vadd_one : after (.vadd 7 31 0 31 31 0) (slotSt regs0 2 (slotWord 0x01 0 31 31 0 0 0))
    (fun t => vLane (regsAt t 7 31) 0 63) = some 0x40000000 := by decide +kernel
theorem test_vicmplt_p0 : after (.vicmplt 7 31 3 1 2 7) (slotSt regs0 2 (slotWord 0x2B 3 1 2 0 7 0))
    (fun t => pGet (regsAt t 7 31) 3) = some 0x8000000000000001 := by decide +kernel
theorem test_vcmpeq_zeros : after (.vcmpeq 7 31 3 1 3 0) (slotSt regs0 2 (slotWord 0x1A 3 1 3 0 0 0))
    (fun t => (pGet (regsAt t 7 31) 3).getLsbD 63) = some true := by decide +kernel
theorem test_vlane : after (.vlane 7 31 4 0) (slotSt regs0 2 (slotWord 0x3C 4 0 0 0 0 0))
    (fun t => vLane (regsAt t 7 31) 4 63) = some 63 := by decide +kernel

/-! ## Vats: the matrix slot -/

/-- The 128 bytes of a rank 2 descriptor of the Cave: type, the two sizes, VALID0, strides 0. -/
def mdesc (ty n0 n1 valid : Nat) : List Byte :=
  leBytes 8 (ty * 2 ^ 48 + 2 * 2 ^ 45 + 2 ^ 25) ++ leBytes 8 0x1000 ++ leBytes 4 n0 ++ leBytes 4 n1 ++ leBytes 16 0 ++
    leBytes 4 valid ++ leBytes 84 0

/-- A tile of 1 × 4096 outputs of this operand pair. -/
def tile1 (ta tb : Nat) : Tile := { cfg := BitVec.ofNat 32 (ta + 256 * tb + 3 * 65536) }

/-- Tile 1 configured, with descriptors for its operands (one reduction index, 2 and 4097 rows) in T0 and T7, and a
descriptor of 4096 outputs in T1; S1 = S2 = 1. -/
def matProg (ta tb ty : Nat) : VatProg :=
  { c1 := tile1 ta tb, s := [(1, 1), (2, 1)]
    t := [(0, mdesc ta 1 2 1), (1, mdesc ty 4097 2 4097), (7, mdesc tb 1 4097 1)] }

def matSt (ta tb word : Nat) : State := slotSt (matProg ta tb 0x20) 1 word
def matMid (ta tb word : Nat) : State := midSt (matProg ta tb 0x20) 1 word

def isOk {ε α : Type} : Except ε α → Bool
  | .ok _ => true
  | .error _ => false

theorem ok_of {ε α : Type} {e : Except ε α} (h : isOk e = true) : ∃ y, e = .ok y := by
  cases e with
  | ok y => exact ⟨y, rfl⟩
  | error _ => cases h

theorem wit_TileControl_mcfg : ∀ n ∈ [0x00000202, 0x00010404, 0x00021010, 0x00030808, 0],
    cfgCheck (BitVec.ofNat 32 n) = 0 ∧
    SlotOpen (slotSt regs0 1 (slotWord 0x01 1 0 0 0 0 n)) 7 31 1 (slotWord 0x01 1 0 0 0 0 n) := by
  intro n h
  have k : ∀ n ∈ [0x00000202, 0x00010404, 0x00021010, 0x00030808, 0], cfgCheck (BitVec.ofNat 32 n) = 0 ∧
      slotOk (slotSt regs0 1 (slotWord 0x01 1 0 0 0 0 n)) 7 31 1 (slotWord 0x01 1 0 0 0 0 n) = true := by
    decide +kernel
  exact ⟨(k n h).1, slotOpen_of (k n h).2⟩

theorem wit_TileControl_tile :
    (tileKind (tileGet (slotSrc (matSt 2 2 (slotWord 0x02 1 0 0 0 0 0)) 7 31) 1) ≠ none ∧
      SlotOpen (matSt 2 2 (slotWord 0x02 1 0 0 0 0 0)) 7 31 1 (slotWord 0x02 1 0 0 0 0 0)) ∧
    (tileKind (tileGet (slotSrc (matSt 2 2 (slotWord 0x07 1 0 0 0 0 0)) 7 31) 1) = some .bf16 ∧
      SlotOpen (matSt 2 2 (slotWord 0x07 1 0 0 0 0 0)) 7 31 1 (slotWord 0x07 1 0 0 0 0 0)) ∧
    (tileKind (tileGet (slotSrc (matSt 8 12 (slotWord 0x05 1 0 0 0 0 0x112)) 7 31) 1) = some .exact ∧
      SlotOpen (matSt 8 12 (slotWord 0x05 1 0 0 0 0 0x112)) 7 31 1 (slotWord 0x05 1 0 0 0 0 0x112)) :=
  ⟨⟨by decide +kernel, slotOpen_of (by decide +kernel)⟩, ⟨by decide +kernel, slotOpen_of (by decide +kernel)⟩,
    by decide +kernel, slotOpen_of (by decide +kernel)⟩

def mancWord : Nat := slotWord 0x03 1 0 7 1 0 2
def mmaWord : Nat := slotWord 0x04 1 0 7 1 0 (2 + 32 * 31 + 1024 * 1)
def maddpWord : Nat := slotWord 0x06 1 1 0 1 0 2

theorem collect_of {α β : Type} {f : α → Except (Nat × Nat) β} (h : ∀ a, ∃ b, f a = .ok b) (l : List α) :
    ∃ bs, collect f l = .ok bs := by
  induction l with
  | nil => exact ⟨[], rfl⟩
  | cons a r ih =>
    obtain ⟨b, e⟩ := h a
    obtain ⟨bs, e'⟩ := ih
    exact ⟨b :: bs, by simp [collect, e, e']⟩

/-- The scales of a row of a floating type without scales. -/
theorem readScales_of {q : VCtx} {d : Desc} (hi : d.idxEn = false) (hm : tyMX d.ty = false) (row : Nat) :
    ∃ y, readScales q d row = .ok y := by
  unfold readScales elemAt
  by_cases h : d.valid0 ≤ nth 0 [0, row] 0
  · exact ⟨none, by simp [h]⟩
  · exact ⟨some (List.replicate (cdiv (dSize d 0) 32) (some 0)), by simp [h, hi, hm]⟩

theorem prePass_of {q : VCtx} {t : Tile} {da db : Desc} {i j : Nat} (ha : da.idxEn = false) (hb : db.idxEn = false)
    (ma : tyMX da.ty = false) (mb : tyMX db.ty = false) : ∃ ls, prePass q t da db i j = .ok ls := by
  obtain ⟨ra, ea⟩ := collect_of (fun r => readScales_of (q := q) ha ma (i + r)) (upto (tileRows t))
  obtain ⟨cb, eb⟩ := collect_of (fun r => readScales_of (q := q) hb mb (j + r)) (upto (tileCols t))
  exact ⟨_, by unfold prePass; rw [ea, eb]; rfl⟩

theorem wit_MatrixOperations_manc :
    let s := matMid 4 5 mancWord
    let q := slotCtx s 7 31
    let t := tileGet (slotSrc s 7 31) 1
    (∃ ls, tileKind t = some .exact ∧ matDesc q 0 = .ok (descOf (mdesc 4 1 2 1)) ∧ matDesc q 7 = .ok (descOf (mdesc 5 1 4097 1)) ∧
      (descOf (mdesc 4 1 2 1)).ty = tileTA t ∧ (descOf (mdesc 5 1 4097 1)).ty = tileTB t ∧
      operandsOk (descOf (mdesc 4 1 2 1)) (descOf (mdesc 5 1 4097 1)) t 1 1 = true ∧
      prePass q t (descOf (mdesc 4 1 2 1)) (descOf (mdesc 5 1 4097 1)) 1 1 = .ok ls) ∧ SlotOpen s 7 31 1 mancWord := by
  obtain ⟨ls, e⟩ := prePass_of (q := slotCtx (matMid 4 5 mancWord) 7 31) (t := tileGet (slotSrc (matMid 4 5 mancWord) 7 31) 1)
    (da := descOf (mdesc 4 1 2 1)) (db := descOf (mdesc 5 1 4097 1)) (i := 1) (j := 1) (by decide) (by decide) (by decide) (by decide)
  exact ⟨⟨ls, by decide +kernel, rfl, rfl, by decide, by decide, by decide, e⟩, midOpen_of (by decide +kernel)⟩

theorem wit_MatrixOperations_manc_integer :
    let s := matMid 0x10 0x11 mancWord
    let t := tileGet (slotSrc s 7 31) 1
    tileKind t = some .integer ∧ matDesc (slotCtx s 7 31) 0 = .ok (descOf (mdesc 0x10 1 2 1)) ∧
    matDesc (slotCtx s 7 31) 7 = .ok (descOf (mdesc 0x11 1 4097 1)) ∧ (descOf (mdesc 0x10 1 2 1)).ty = tileTA t ∧
    (descOf (mdesc 0x11 1 4097 1)).ty = tileTB t ∧
    operandsOk (descOf (mdesc 0x10 1 2 1)) (descOf (mdesc 0x11 1 4097 1)) t 1 1 = true ∧ SlotOpen s 7 31 1 mancWord :=
  ⟨by decide +kernel, rfl, rfl, by decide, by decide, by decide, midOpen_of (by decide +kernel)⟩

/-- A row of a descriptor whose elements are all null (R73). -/
theorem readRun_of {q : VCtx} {d : Desc} (h : d.valid0 = 0) (k n row : Nat) : readRun q d k n row = .ok none := by
  simp [readRun, elemAt, h]

theorem collect_none_of {f : Nat → Except (Nat × Nat) (Option (List Opnd))} (h : ∀ a, f a = .ok none) (l : List Nat) :
    collect f l = .ok (l.map (fun _ => none)) := by
  induction l with
  | nil => rfl
  | cons a r ih => simp [collect, h, ih]

theorem mmaTile_of {t : Tile} {k : TileKind} {as bs : List Nat} {k0 n : Nat} :
    ∃ u, mmaTile t k k0 n (as.map (fun _ => none)) (bs.map (fun _ => none)) = .ok u := by
  have h : ∀ l : List (Nat × Option (List Opnd) × Option (List Opnd)), (∀ p ∈ l, p.2.1 = none) →
      ∃ os, collect (fun p => if k = .bf16 then .ok (bfOutput t p.1 n p.2.1 p.2.2) else exactOutput t p.1 p.2.1 p.2.2) l = .ok os := by
    intro l hl
    induction l with
    | nil => exact ⟨[], rfl⟩
    | cons a r ih =>
      obtain ⟨os, e⟩ := ih (fun p hp => hl p (List.mem_cons_of_mem _ hp))
      have ha := hl a (List.mem_cons_self ..)
      by_cases hk : k = .bf16
      · subst hk
        refine ⟨bfOutput t a.1 n a.2.1 a.2.2 :: os, ?_⟩
        simp only [collect, if_true] at e ⊢
        rw [e]
      · simp only [hk, if_false] at e ⊢
        have x : exactOutput t a.1 a.2.1 a.2.2 = .ok (tileOut t a.1) := by rw [ha]; rfl
        exact ⟨tileOut t a.1 :: os, by simp only [collect]; rw [x, e]⟩
  obtain ⟨os, e⟩ := h (((as.map (fun _ => (none : Option (List Opnd)))).zipIdx.flatMap
    (fun a => (bs.map (fun _ => (none : Option (List Opnd)))).zipIdx.map (fun b => (a.2 * tileCols t + b.2, a.1, b.1))))) (by
      intro p hp
      simp only [List.mem_flatMap, List.mem_map] at hp
      obtain ⟨a, ha, b, _, rfl⟩ := hp
      have := List.fst_mem_of_mem_zipIdx ha
      simp only [List.mem_map] at this
      obtain ⟨_, _, h⟩ := this
      exact h.symm)
  exact ⟨_, by unfold mmaTile tileMap; rw [e]⟩

theorem anchorsPresent_of {t : Tile} (k : tileKind t = some .exact) (m : tileMX t = false) : anchorsPresent t = true := by
  simp [anchorsPresent, List.all_eq_true, tileAnchor, k, m]

/-- The tile, the descriptors and the registers of an MMA of null elements over its one reduction index. -/
def nullProg (ta tb : Nat) : VatProg :=
  { matProg ta tb 0x20 with t := [(0, mdesc ta 1 2 0), (7, mdesc tb 1 4097 0)] }

theorem wit_MatrixOperations_mma : ∀ k ∈ [(2, 2, TileKind.bf16), (0x10, 0x10, TileKind.integer), (4, 5, TileKind.exact)],
    let s := midSt (nullProg k.1 k.2.1) 1 mmaWord
    let q := slotCtx s 7 31
    let t := tileGet (slotSrc s 7 31) 1
    let da := descOf (mdesc k.1 1 2 0)
    let db := descOf (mdesc k.2.1 1 4097 0)
    (∃ as bs u, tileKind t = some k.2.2 ∧ matDesc q 0 = .ok da ∧ matDesc q 7 = .ok db ∧ da.ty = tileTA t ∧ db.ty = tileTB t ∧
      operandsOk da db t 1 1 = true ∧ 0 + 1 ≤ dSize da 0 ∧ (k.2.2 = .exact → anchorsPresent t = true) ∧
      (k.2.2 = .bf16 → 0 = t.nextk ∧ t.short = false) ∧ t.count + 1 ≤ 16777216 ∧ tileParity t = false ∧
      collect (fun r => readRun q da 0 1 (1 + r)) (upto (tileRows t)) = .ok as ∧
      collect (fun r => readRun q db 0 1 (1 + r)) (upto (tileCols t)) = .ok bs ∧
      mmaTile t k.2.2 0 1 as bs = .ok u) ∧ SlotOpen s 7 31 1 mmaWord := by
  have c : ∀ k ∈ [(2, 2, TileKind.bf16), (0x10, 0x10, TileKind.integer), (4, 5, TileKind.exact)],
      let s := midSt (nullProg k.1 k.2.1) 1 mmaWord
      let t := tileGet (slotSrc s 7 31) 1
      let da := descOf (mdesc k.1 1 2 0)
      let db := descOf (mdesc k.2.1 1 4097 0)
      (tileKind t = some k.2.2 ∧ da.ty = tileTA t ∧ db.ty = tileTB t ∧ operandsOk da db t 1 1 = true ∧ 0 + 1 ≤ dSize da 0 ∧
      (k.2.2 = .exact → tileMX t = false) ∧ (k.2.2 = .bf16 → 0 = t.nextk ∧ t.short = false) ∧
      t.count + 1 ≤ 16777216 ∧ tileParity t = false ∧ da.valid0 = 0 ∧ db.valid0 = 0) ∧
      midOk s 7 31 1 mmaWord = true := by decide +kernel
  have dm : ∀ k ∈ [(2, 2, TileKind.bf16), (0x10, 0x10, TileKind.integer), (4, 5, TileKind.exact)],
      matDesc (slotCtx (midSt (nullProg k.1 k.2.1) 1 mmaWord) 7 31) 0 = .ok (descOf (mdesc k.1 1 2 0)) ∧
      matDesc (slotCtx (midSt (nullProg k.1 k.2.1) 1 mmaWord) 7 31) 7 = .ok (descOf (mdesc k.2.1 1 4097 0)) := by
    intro k hk
    simp only [List.mem_cons, List.mem_nil_iff, or_false] at hk
    rcases hk with rfl | rfl | rfl <;> exact ⟨rfl, rfl⟩
  intro k hk
  obtain ⟨⟨h1, h2, h3, h4, h5, h6, h7, h8, hp, h9, h9'⟩, h10⟩ := c k hk
  obtain ⟨d1, d2⟩ := dm k hk
  obtain ⟨u, e⟩ := mmaTile_of (t := tileGet (slotSrc (midSt (nullProg k.1 k.2.1) 1 mmaWord) 7 31) 1) (k := k.2.2) (k0 := 0) (n := 1)
    (as := upto (tileRows (tileGet (slotSrc (midSt (nullProg k.1 k.2.1) 1 mmaWord) 7 31) 1)))
    (bs := upto (tileCols (tileGet (slotSrc (midSt (nullProg k.1 k.2.1) 1 mmaWord) 7 31) 1)))
  exact ⟨⟨_, _, u, h1, d1, d2, h2, h3, h4, h5, fun x => anchorsPresent_of (x ▸ h1) (h6 x), h7, h8, hp,
    collect_none_of (fun r => readRun_of h9 ..) _, collect_none_of (fun r => readRun_of h9' ..) _, e⟩, midOpen_of h10⟩

def partProg : VatProg := { matProg 8 8 0x20 with t := [(1, mdesc 0x20 4097 2 0)] }

/-- A partial of a null element is 0 and changes no output (R160). -/
theorem wit_MatrixOperations_maddp :
    let s := midSt partProg 1 maddpWord
    let q := slotCtx s 7 31
    let t := tileGet (slotSrc s 7 31) 1
    let d := descOf (mdesc 0x20 4097 2 0)
    (∃ ps, tileKind t = some .exact ∧ matDesc q 1 = .ok d ∧ d.ty = 0x20 ∧ tileParity t = false ∧ 1 + tileCols t ≤ dSize d 0 ∧
      1 + tileRows t ≤ dSize d 1 ∧
      collect (fun (p : Nat × Nat × Nat) => readPartial q d (1 + p.2.1) (1 + p.2.2)) (outputCells t) = .ok ps ∧
      ∀ p ∈ ps.zipIdx, (addPartial t p.2 p.1).2 = 0) ∧ SlotOpen s 7 31 1 maddpWord := by
  have dm : matDesc (slotCtx (midSt partProg 1 maddpWord) 7 31) 1 = .ok (descOf (mdesc 0x20 4097 2 0)) := rfl
  intro s q t d
  have hd : d.valid0 = 0 := by decide
  have e : ∀ l : List (Nat × Nat × Nat),
      collect (fun (p : Nat × Nat × Nat) => readPartial q d (1 + p.2.1) (1 + p.2.2)) l = .ok (l.map (fun _ => 0)) := by
    intro l
    induction l with
    | nil => rfl
    | cons a r ih => simp [collect, readPartial, elemAt, hd] at ih ⊢; rw [ih]
  refine ⟨⟨_, by decide +kernel, dm, by decide, by decide +kernel, by decide, by decide, e _, ?_⟩, midOpen_of (by decide +kernel)⟩
  intro p hp
  have := List.fst_mem_of_mem_zipIdx hp
  simp only [List.mem_map] at this
  obtain ⟨_, _, h⟩ := this
  simp [addPartial, ← h]

theorem test_mma_on_unconfigured : after (.mma 7 31 0 0 7 1 2 31 1) (matMid 2 2 (slotWord 0x04 0 0 7 1 0 (2 + 32 * 31 + 1024 * 1)))
    (fun t => (vatAt t 7 31).fin.map (·.code)) = some (some 0x0143) := by decide +kernel

/-! ## Vats: the move slot -/

/-- A15 is 32 beyond the last place of the bank where 256 bytes fit below one save slot; S31 names the identity
permutation; the staging buffer is valid. -/
def movProg : VatProg :=
  { pc := 511, s := [(1, 63), (2, 1), (31, 181896)], a := [(0, 0x40), (15, 2510112)], p := [(7, 0x8000000000000001)]
    v := [(64, 0x11223344), (127, 0x55667788)], staging := some ⟨0x01, 3, 0, false, leBytes 4 0x3F800000⟩ }

/-- VLD, VST, VLDXB and VLDXE with IMM = −32. -/
def loadWords : List Nat :=
  [slotWord 0x01 31 15 0 0 0 0xFFFFFFE0, slotWord 0x02 0 15 1 0 7 0xFFFFFFE0, slotWord 0x03 0 15 0 31 0 0xFFFFFFE0,
   slotWord 0x04 31 15 0 0 0 0xFFFFFFE0]

def moveWords : List Nat :=
  [slotWord 0x05 31 1 0 0 0 0, slotWord 0x06 31 1 0 0 0 63, slotWord 0x07 31 1 0 0 0 63, slotWord 0x08 15 0 0 0 0 0xFFFFFFFF,
   slotWord 0x09 15 0 31 0 0 0, slotWord 0x0A 15 1 31 0 0 0, slotWord 0x0B 31 15 0 0 0 0]

theorem wit_LoadsAndMoves_Stores_words : ∀ q ∈ loadWords ++ moveWords, SlotOpen (slotSt movProg 3 q) 7 31 3 q := by
  intro q h
  have k : ∀ q ∈ loadWords ++ moveWords, slotOk (slotSt movProg 3 q) 7 31 3 q = true := by decide +kernel
  exact slotOpen_of (k q h)

theorem wit_LoadsAndMoves_Stores_address : ∀ q ∈ loadWords,
    let s := slotSt movProg 3 q
    let x := wheelOf s 7
    let off := (aGet (slotSrc s 7 31) 15 + (BitVec.ofNat 32 0xFFFFFFE0).signExtend 64).toNat
    off % 32 = 0 ∧ off + 256 = visibleEnd x.saveSlots ∧ caveUncorr x (bankAddr 31 off) 256 = false ∧
    permuteOk (sGet (slotSrc s 7 31) 31).toNat = true ∧
    (aGet (slotSrc s 7 31) 0).toNat % 32 = 0 ∧ (aGet (slotSrc s 7 31) 0).toNat + 64 ≤ visibleEnd x.saveSlots ∧
    caveUncorr x (bankAddr 31 (aGet (slotSrc s 7 31) 0).toNat) 64 = false ∧
    leNat ((caveRead x (bankAddr 31 (aGet (slotSrc s 7 31) 0).toNat) 64).drop 44) = 0 := by decide +kernel

theorem wit_LoadsAndMoves_staging : ∀ q ∈ moveWords, (slotSrc (slotSt movProg 3 q) 7 31).staging.isSome = true ∧
    (sGet (slotSrc (slotSt movProg 3 q) 7 31) 1).toNat < 64 := by decide +kernel

theorem test_vst_lanes : after (.vst 7 31 15 1 0xFFFFFFE0 7) (slotSt movProg 3 (slotWord 0x02 0 15 1 0 7 0xFFFFFFE0))
    (fun t => (rdByte 0 (wheelOf t 7).cave (bankAddr 31 2510080), rdByte 0 (wheelOf t 7).cave (bankAddr 31 2510335))) =
      some (0x44, 0x55) := by decide +kernel
theorem test_amov_halves : after (.amov 7 31 15 1 31) (slotSt movProg 3 (slotWord 0x0A 15 1 31 0 0 0))
    (fun t => aGet (regsAt t 7 31) 15) = some (BitVec.ofNat 64 (181896 * 2 ^ 32 + 63)) := by decide +kernel
theorem test_aadd_borrow : after (.aadd 7 31 3 3 0xFFFFFFFF) (slotSt movProg 3 (slotWord 0x08 3 3 0 0 0 0xFFFFFFFF))
    (fun t => aGet (regsAt t 7 31) 3) = some 0xFFFFFFFFFFFFFFFF := by decide +kernel
theorem test_vld_misaligned : after (.vld 7 31 0 15 1) (slotSt movProg 3 (slotWord 0x01 0 15 0 0 0 1))
    (fun t => (vatAt t 7 31).fin.map (·.code)) = some (some 0x0145) := by decide +kernel

theorem writeOutputs_of {d : Desc} (h : d.valid0 = 0) (ix : Nat → Except Nat Nat) (i j : Nat) (code : Nat → Nat) (q : VCtx)
    (l : List (Nat × Nat × Nat)) : writeOutputs d ix i j code q l = .ok q := by
  induction l with
  | nil => rfl
  | cons a r ih =>
    obtain ⟨a, b, c⟩ := a
    simp [writeOutputs, writeElem, elemAt, h, ih]

/-- A staging buffer and an exact tile, with descriptors of null elements for them in T1 and T2. -/
def storeProg : VatProg :=
  { movProg with
    staging := some ⟨0x04, 3, 1, false, List.replicate 4096 0⟩, c1 := tile1 4 4
    t := [(1, mdesc 0x04 4097 2 0), (2, mdesc 0x20 4097 2 0)] }

def mstoWord : Nat := slotWord 0x10 1 0 0 2 0 2
def mstpWord : Nat := slotWord 0x11 2 1 0 2 0 2

theorem wit_Stores_msto :
    let s := midSt storeProg 3 mstoWord
    let q := slotCtx s 7 31
    let d := descOf (mdesc 0x04 4097 2 0)
    ∃ g y, matDesc q 1 = .ok d ∧ (slotSrc s 7 31).staging = some g ∧ d.ty = g.ty ∧ storeFits d g.shape 1 1 = true ∧
      writeOutputs d (descIx q d) 1 1 (fun i => leAt g.bytes (tyBits g.ty / 8 * i) (tyBits g.ty / 8)) q (shapeCells g.shape) = .ok y ∧
      SlotOpen s 7 31 3 mstoWord := by
  have dm : matDesc (slotCtx (midSt storeProg 3 mstoWord) 7 31) 1 = .ok (descOf (mdesc 0x04 4097 2 0)) := rfl
  exact ⟨⟨0x04, 3, 1, false, List.replicate 4096 0⟩, _, dm, rfl, by decide, by decide, writeOutputs_of (by decide) .., midOpen_of (by decide +kernel)⟩

theorem wit_Stores_mstp :
    let s := midSt storeProg 3 mstpWord
    let q := slotCtx s 7 31
    let d := descOf (mdesc 0x20 4097 2 0)
    let t := tileGet (slotSrc s 7 31) 1
    ∃ y, matDesc q 2 = .ok d ∧ tileKind t = some .exact ∧ d.ty = 0x20 ∧ tileParity t = false ∧
      storeFits d (tileShape t) 1 1 = true ∧ writeOutputs d (descIx q d) 1 1 (outputPartial t) q (outputCells t) = .ok y ∧ SlotOpen s 7 31 3 mstpWord := by
  have dm : matDesc (slotCtx (midSt storeProg 3 mstpWord) 7 31) 2 = .ok (descOf (mdesc 0x20 4097 2 0)) := rfl
  exact ⟨_, dm, by decide +kernel, by decide, by decide +kernel, by decide, writeOutputs_of (by decide) .., midOpen_of (by decide +kernel)⟩

/-- A hoop whose two buffers are the last two of the visible part of bank 31. -/
def bankHoop : Hoop := { owner := some 0, pool := bankAddr 31 2509824, stride := 1, units := 1, nbuf := 2 }
def handle1 : Handle := ⟨false, true, 1023, 256, bankAddr 31 2510080⟩

/-- Input port 3 and output port 3 bound to hoop 1023. -/
def portProg (taken : List Handle) (got : List Nat) : VatProg :=
  { movProg with s := [(31, 256)], inP := [(3, { hoop := some 1023, taken := taken })], outP := [(3, { hoop := some 1023, got := got })] }

def hoopSt (p : VatProg) (y : Hoop) (word : Nat) : State :=
  onW 7 { vats := [(31, runs (bundle1 3 word) p)], hoops := [(1023, y)] }

def htakeWord : Nat := slotWord 0x18 15 0 31 0 0 3
def hrelWord : Nat := slotWord 0x19 0 0 0 0 0 3
def hgetWord : Nat := slotWord 0x1A 15 0 0 0 0 3
def hputWord : Nat := slotWord 0x1B 0 0 31 0 0 3

theorem wit_HoopPorts_take :
    let s := hoopSt (portProg [handle1, handle1, handle1] []) { bankHoop with q := [handle1] } htakeWord
    let r := slotSrc s 7 31
    let y := hoopOf (wheelOf s 7) 1023
    ((inPort r 3).hoop = some 1023 ∧ (inPort r 3).taken.length < 4 ∧ y.q = [handle1] ∧ handle1.addr / bankBytes = 31 ∧
      handle1.addr % bankBytes + bufBytes y = visibleEnd (wheelOf s 7).saveSlots) ∧ SlotOpen s 7 31 3 htakeWord :=
  ⟨by decide +kernel, slotOpen_of (by decide +kernel)⟩

theorem wit_HoopPorts_take_empty :
    let s := hoopSt (portProg [] []) bankHoop htakeWord
    let r := slotSrc s 7 31
    ((inPort r 3).hoop = some 1023 ∧ (inPort r 3).taken.length < 4 ∧ (hoopOf (wheelOf s 7) 1023).q = []) ∧
      SlotOpen s 7 31 3 htakeWord :=
  ⟨by decide +kernel, slotOpen_of (by decide +kernel)⟩

theorem wit_HoopPorts_release :
    let s := hoopSt (portProg [handle1, handle1] []) bankHoop hrelWord
    let r := slotSrc s 7 31
    ((inPort r 3).hoop = some 1023 ∧ (inPort r 3).taken = [handle1, handle1] ∧ inPort (regsAt s 7 31) 3 = inPort r 3) ∧
      SlotOpen s 7 31 3 hrelWord :=
  ⟨by decide +kernel, slotOpen_of (by decide +kernel)⟩

theorem wit_HoopPorts_get :
    let s := hoopSt (portProg [] [0]) { bankHoop with free := [1, 0] } hgetWord
    let r := slotSrc s 7 31
    let y := hoopOf (wheelOf s 7) 1023
    ((outPort r 3).hoop = some 1023 ∧ (outPort r 3).got.length < 4 ∧ y.free = [1, 0] ∧ bufAddr y 1 / bankBytes = 31 ∧
      bufAddr y 1 % bankBytes + bufBytes y = visibleEnd (wheelOf s 7).saveSlots) ∧ SlotOpen s 7 31 3 hgetWord :=
  ⟨by decide +kernel, slotOpen_of (by decide +kernel)⟩

theorem wit_HoopPorts_get_empty :
    let s := hoopSt (portProg [] [0, 1, 0]) bankHoop hgetWord
    let r := slotSrc s 7 31
    ((outPort r 3).hoop = some 1023 ∧ (outPort r 3).got.length < 4 ∧ (hoopOf (wheelOf s 7) 1023).free = []) ∧
      SlotOpen s 7 31 3 hgetWord :=
  ⟨by decide +kernel, slotOpen_of (by decide +kernel)⟩

theorem wit_HoopPorts_put :
    let s := hoopSt (portProg [] [1, 0]) bankHoop hputWord
    let r := slotSrc s 7 31
    ((outPort r 3).hoop = some 1023 ∧ (outPort r 3).got = [1, 0] ∧ outPort (regsAt s 7 31) 3 = outPort r 3 ∧
      (sGet r 31).toNat = bufBytes (hoopOf (wheelOf s 7) 1023)) ∧ SlotOpen s 7 31 3 hputWord :=
  ⟨by decide +kernel, slotOpen_of (by decide +kernel)⟩

theorem wit_HoopPorts_rsend :
    let word := slotWord 0x20 0 0 31 15 0 0
    let s := slotSt { s := [(31, 2510336)] } 3 word
    let r := slotSrc s 7 31
    ((aGet r 0).toNat % 32 = 0 ∧ (aGet r 15).toNat % 32 = 0 ∧ (sGet r 31).toNat % 32 = 0 ∧ 32 ≤ (sGet r 31).toNat ∧
      (sGet r 31).toNat ≤ 2621440 ∧ (aGet r 0).toNat + (sGet r 31).toNat = visibleEnd (wheelOf s 7).saveSlots ∧
      (aGet r 15).toNat + (sGet r 31).toNat ≤ visibleEnd (wheelOf s 7).saveSlots ∧ (vatAt s 7 31).ring = none) ∧
      SlotOpen s 7 31 3 word :=
  ⟨by decide +kernel, slotOpen_of (by decide +kernel)⟩

theorem test_hput_put : after (.hput 7 31 31 3) (hoopSt (portProg [] [1, 0]) bankHoop hputWord)
    (fun t => (hoopOf (wheelOf t 7) 1023).puts.map (fun q => (q.2.len, q.2.addr))) = some [(256, bankAddr 31 2510080)] := by
  decide +kernel
theorem test_htake_unbound : after (.htake 7 31 15 31 2) (hoopSt (portProg [] []) bankHoop (slotWord 0x18 15 0 31 0 0 2))
    (fun t => (vatAt t 7 31).fin.map (·.code)) = some (some 0x0148) := by decide +kernel

/-! ## Vats: start, save, ring and hoops -/

def opv : OpRef := ⟨1023, 0xFFFFFF, 0xFFFF, 5, 7, 2, 9⟩

/-- A vat that is dispatched and not started; a body of zeros names no register, descriptor or port. -/
theorem wit_VatStartAndComplete_start :
    let s := oneVat 7 31 { op := some opv, record := 0x1000 }
    let x := wheelOf s 7
    (vatAt s 7 31).op = some opv ∧ (vatAt s 7 31).started = false ∧ (vatAt s 7 31).st = .idle ∧
    sliceFailed x 31 (vatAt s 7 31).record = false ∧
    descUncorr x (startProg x 31 opv.ctx (vatAt s 7 31).record).2 = false := by decide +kernel

theorem wit_VatStartAndComplete_complete :
    let s := oneVat 7 31 { runs 0 (portProg [handle1] [1]) with fin := some ⟨0x0149, 511, 1⟩ }
    let a := vatAt s 7 31
    a.op = some opr ∧ a.fin = some ⟨0x0149, 511, 1⟩ ∧ a.closed = false ∧ a.ring = none ∧
    putsOpen (wheelOf s 7) ⟨1, 31⟩ = false ∧ a.st ≠ .fenced ∧ a.st ≠ .outOfService := by decide +kernel

/-- A vat operation of context 1023 that is ready, and its record. -/
def rec1 : OpRec := ⟨1023, 0xFFFFFF, 1, 7, true, 0, [], [], 0, 0, 5, 0⟩
def inst1 : Inst := { ctx := 1023, opid := 0xFFFFFF, iter := 0xFFFF, ready := some 3 }
def rnt1 : Rennet := { ops := [rec1], insts := [inst1], flows := [(5, { st := .openF, ctx := 1023 })] }

/-- Vat 31 waits on hoop 1023 while an operation for any vat is ready. -/
def yieldSt : State :=
  onW 7 { vats := [(31, { runs 0 (portProg [] []) with st := .handleWait, wait := some ⟨true, 3, 15, 31⟩ })]
          hoops := [(1023, bankHoop)], rnt := rnt1 }

theorem wit_VatSaveAndRestore_yield :
    let x := wheelOf yieldSt 7
    let a := vatAt yieldSt 7 31
    (a.op = some opr ∧ freeSlot x 31 = some 0 ∧ atBoundary a = true ∧ a.st = .handleWait ∧ (waitHoop a).isSome = true ∧
      readyFor x 31 ≠ []) ∧ ∀ h, waitHoop a = some h → (hoopOf x h).q = [] := by
  refine ⟨by decide +kernel, ?_⟩
  intro h e
  have : waitHoop (vatAt yieldSt 7 31) = some 1023 := by decide +kernel
  rw [this] at e
  cases e
  decide +kernel

theorem wit_VatSaveAndRestore_preempt :
    let s := onW 7 { vats := [(31, runs 0 regs0)], rnt := { rnt1 with intr := [(⟨1, 31⟩, 1023, 5, 1)] } }
    let x := wheelOf s 7
    (vatAt s 7 31).op = some opr ∧ freeSlot x 31 = some 0 ∧ atBoundary (vatAt s 7 31) = true ∧
      ∃ e ∈ x.rnt.intr, e.1 = ⟨1, 31⟩ := by decide +kernel

def savedV : SavedOp := ⟨opv, regs0, none, none, false, false, 0x1000, none⟩

theorem wit_VatSaveAndRestore_saveDone :
    let s := onW 7 { vats := [(31, { op := some opv, st := .save, saving := some (0, true), saved := [(0, savedV)] })]
                     rnt := { rnt1 with insts := [{ inst1 with ready := none, st := .service ⟨1, 31⟩ 9 }] } }
    let x := wheelOf s 7
    (vatAt s 7 31).op = some opv ∧ (vatAt s 7 31).saving = some (0, true) ∧ (vatAt s 7 31).st = .save ∧ saveCancelled (vatAt s 7 31) 0 = none ∧
    (findInst x.rnt opv.ctx opv.opid opv.iter).isSome = true ∧
    ∀ j ∈ x.rnt.insts, sameInst j opv.ctx opv.opid opv.iter = false → j.ready = none := by decide +kernel

/-- A vat in RESTORE of slot 0, its area as it was written or with a double-bit error. -/
def restoreX (bad : List (Nat × Nat)) : Wheel :=
  { vats := [(31, { op := some opv, st := .restore, restoring := some 0, saved := [(0, savedV)] })], caveBad := bad }
def areaX : Wheel := caveStore (restoreX []) (bankAddr 31 (slotOffset (restoreX []).saveSlots 0)) (saveArea regs0 opv 0)

theorem wit_VatSaveAndRestore_restore :
    let s := onW 7 areaX
    (vatAt s 7 31).op = some opv ∧ (vatAt s 7 31).restoring = some 0 ∧ (vatAt s 7 31).st = .restore ∧
    (vatAt s 7 31).saved.find? (fun q => q.1 == 0) = some (0, savedV) ∧ savedV.wait = none ∧ savedV.fault = none ∧ areaOk (wheelOf s 7) 31 0 = true := by
  refine ⟨rfl, rfl, rfl, rfl, rfl, rfl, ?_⟩
  rw [wheelOf_onW]
  exact areaOk_caveStore 31 0 regs0 opv 0 rfl rfl

theorem wit_VatSaveAndRestore_bad_area :
    let s := onW 7 (restoreX [(bankAddr 31 (slotOffset 1 0) / 8, 2)])
    (vatAt s 7 31).op = some opv ∧ (vatAt s 7 31).restoring = some 0 ∧ (vatAt s 7 31).st = .restore ∧
    (vatAt s 7 31).saved.find? (fun q => q.1 == 0) = some (0, savedV) ∧ areaOk (wheelOf s 7) 31 0 = false := by
  refine ⟨rfl, rfl, rfl, rfl, ?_⟩
  rw [wheelOf_onW]
  have h : caveUncorr (restoreX [(bankAddr 31 (slotOffset 1 0) / 8, 2)])
    (bankAddr 31 (slotOffset (restoreX [(bankAddr 31 (slotOffset 1 0) / 8, 2)]).saveSlots 0)) saveSlotBytes = true := by decide +kernel
  unfold areaOk
  simp only [h, Bool.not_true, Bool.false_and]

/-- Vat 31 sends 32 bytes to vat 0. -/
def ringSt (a b : VatSt) : State :=
  onW 7 { vats := [(0, { st := b }), (31, { runs 0 regs0 with st := a, ring := some ⟨2510304, 2510304, 32, some opr, 511⟩ })] }

theorem wit_Ring :
    let r : RingOut := ⟨2510304, 2510304, 32, some opr, 511⟩
    ((vatAt (ringSt .run .idle) 7 31).ring = some r ∧ ringCredit (wheelOf (ringSt .run .idle) 7) 0 r.dst r.len = true ∧
      (vatAt (ringSt .run .idle) 7 0).st = .idle ∧ caveUncorr (wheelOf (ringSt .run .idle) 7) (bankAddr 31 r.src) r.len = false) ∧
    ((vatAt (ringSt .run .fenced) 7 31).ring = some r ∧ (vatAt (ringSt .run .fenced) 7 0).st = .fenced ∧
      (vatAt (ringSt .run .fenced) 7 31).st = .run ∧ savedSlot (vatAt (ringSt .run .fenced) 7 31) r.op = none ∧
      sameRun r.op (vatAt (ringSt .run .fenced) 7 31).op = true) ∧
    ((vatAt (ringSt .outOfService .run) 7 31).ring = some r ∧ (vatAt (ringSt .outOfService .run) 7 31).st = .outOfService) := by
  decide +kernel

/-- The operation that sends is saved in slot 0 while another one runs. -/
theorem wit_Ring_saved :
    let s := onW 7 { vats := [(0, { st := .fenced }), (31, { runs 0 regs0 with ring := some ⟨0, 64, 32, some opv, 7⟩, saved := [(0, savedV)] })] }
    (vatAt s 7 31).ring = some ⟨0, 64, 32, some opv, 7⟩ ∧ (vatAt s 7 0).st = .fenced ∧ (vatAt s 7 31).st = .run ∧
    savedSlot (vatAt s 7 31) (some opv) = some 0 := by decide +kernel

/-- A tile without a MANC and no staging buffer: the restore repeats nothing. -/
theorem wit_VatSaveAndRestore_repeat :
    let y := onVat (restoreX []) 31 (fun t => restored t 0 savedV)
    savedV.prog.c0.manc = none ∧ savedV.prog.c1.manc = none ∧ savedV.prog.staging = none ∧ ∃ z, restoreRepeat y 31 = .ok z :=
  ⟨rfl, rfl, rfl, _, rfl⟩

theorem test_ring_fault_of_saved :
    after (.ringFault 7 31)
      (onW 7 { vats := [(0, { st := .fenced }), (31, { runs 0 regs0 with ring := some ⟨0, 64, 32, some opv, 7⟩, saved := [(0, savedV)] })] })
      (fun t => ((vatAt t 7 31).fin, (vatAt t 7 31).saved.map (fun q => q.2.fault))) =
        some (none, [some ⟨0x0105, 7, 0⟩]) := by decide +kernel

theorem wit_Ring_credit :
    let q : Slice := ⟨2621408, 32, false, none, true⟩
    let s := oneVat 7 31 { slices := [q] }
    (vatAt s 7 31).slices.find? (fun p => p.dst == 2621408) = some q ∧ sliceDone (wheelOf s 7) 31 q = true := by decide +kernel

def hoopsSt (y : Hoop) (a : Vat) : State := onW 7 { vats := [(31, a)], hoops := [(1023, y)] }

theorem wit_HoopEvents :
    let y := fun (z : Hoop) => hoopOf (wheelOf (hoopsSt z {}) 7) 1023
    (y { bankHoop with puts := [(⟨1, 31⟩, handle1)] }).puts = [(⟨1, 31⟩, handle1)] ∧
    ((y { bankHoop with rels := [1] }).rels = [1] ∧ (y { bankHoop with rels := [1] }).prod = none ∧
      (y { bankHoop with rels := [1] }).prod ≠ some rxUnit) ∧
    ((y { bankHoop with rels := [0], prod := some ⟨8, 1023⟩ }).rels = [0] ∧
      (y { bankHoop with rels := [0], prod := some ⟨8, 1023⟩ }).prod = some ⟨8, 1023⟩) := by decide +kernel

theorem wit_HoopEvents_delivered :
    let wt : VWait := ⟨true, 3, 15, 31⟩
    let s := hoopsSt { bankHoop with q := [handle1], cons := some ⟨1, 31⟩ }
      { runs 0 (portProg [] []) with st := .handleWait, wait := some wt }
    let y := hoopOf (wheelOf s 7) 1023
    y.cons = some ⟨1, 31⟩ ∧ (vatAt s 7 31).st = .handleWait ∧ (vatAt s 7 31).wait = some wt ∧ wt.take = true ∧
    (inPort (vatAt s 7 31).prog wt.port).hoop = some 1023 ∧ y.q = [handle1] ∧ handle1.addr / bankBytes = 31 ∧
    handle1.addr % bankBytes + bufBytes y = visibleEnd (wheelOf s 7).saveSlots := by decide +kernel

theorem wit_HoopEvents_free :
    let wt : VWait := ⟨false, 3, 15, 0⟩
    let s := hoopsSt { bankHoop with free := [1], prod := some ⟨1, 31⟩ } { runs 0 (portProg [] []) with wait := some wt }
    let y := hoopOf (wheelOf s 7) 1023
    y.prod = some ⟨1, 31⟩ ∧ (vatAt s 7 31).st = .run ∧ (vatAt s 7 31).wait = some wt ∧ wt.take = false ∧
    (outPort (vatAt s 7 31).prog wt.port).hoop = some 1023 ∧ y.free = [1] ∧ bufAddr y 1 / bankBytes = 31 ∧
    bufAddr y 1 % bankBytes + bufBytes y = visibleEnd (wheelOf s 7).saveSlots := by decide +kernel

theorem test_vat_trap_completes :
    let t := vatOf (vatComplete (wheelOf (oneVat 7 31 { runs 0 regs0 with fin := some ⟨0x0149, 511, 1⟩ }) 7) 31) 31
    t.closed = true ∧ bitAt (regGet t.regs 0x00C) 0 = true := by decide +kernel
theorem test_ring_arrival : after (.ringTransferArrival 7 31)
    (onW 7 { vats := [(31, { runs 0 regs0 with ring := some ⟨0, 64, 32, some opr, 0⟩ })], cave := [(bankAddr 31 31, 0xA5)] })
    (fun t => ((wheelOf t 7).cave, (vatAt t 7 0).slices.map (·.failed))) = some ([(95, 0xA5), (bankAddr 31 31, 0xA5)], [false]) := by
  decide +kernel
theorem test_release_order : after (.bufferRelease 7 1023) (hoopsSt { bankHoop with rels := [1], free := [0] } {})
    (fun t => (hoopOf (wheelOf t 7) 1023).free) = some [0, 1] := by decide +kernel

/-! ## Presses -/

def oneEng (cls p : Nat) (e : Eng) (x : Wheel) : State := onW 7 (setEng x ⟨cls, p⟩ e)

/-- Two input columns of 64 bytes descriptor each, and 64 rows; the program has two instructions, of which the first is the
one under test, two constants and a string. -/
def predProg (op d a b : Nat) (k : Bool) (imm : Nat) : List Byte :=
  leBytes 8 (2 + 15 * 2 ^ 28) ++ leBytes 24 0 ++ leBytes 8 (predEncode op d a b k imm) ++ leBytes 8 0 ++
    leBytes 8 (2 ^ 64 - 1) ++ leBytes 8 5 ++ leBytes 72 0

def predSt (prog : List Byte) : State :=
  oneEng 2 11 { st := .run, op := some opr, desc := leBytes 64 64
                work := some { cols := [], prog := prog, limit := 1, q := [(64 * 1 + 63, some 7), (64 * 2 + 63, some 7)] } } {}

/-- The opcodes of a predicate program. -/
def predOps : List Nat :=
  [0x00, 0x01, 0x02, 0x03, 0x04, 0x08, 0x09, 0x0A, 0x0B, 0x0C, 0x0D, 0x0E, 0x0F, 0x10, 0x11, 0x12, 0x13, 0x14, 0x18, 0x19, 0x1A,
   0x1B, 0x1C, 0x1D, 0x1E, 0x1F, 0x20, 0x21, 0x22, 0x23, 0x24, 0x25, 0x28, 0x29, 0x2A, 0x2B, 0x2C, 0x2D, 0x30, 0x31, 0x38, 0x39]

theorem wit_PredicateArithmetic_PredicateComparisons_PredicateLogic : ∀ op ∈ predOps, ∀ k ∈ [false, true],
    ∃ wk, PredAt (predSt (predProg op 15 1 2 k 0)) 7 11 (predEncode op 15 1 2 k 0) wk := by
  intro op h k hk
  have c : ∀ op ∈ predOps, ∀ k ∈ [false, true], predWord (predProg op 15 1 2 k 0) 0 = predEncode op 15 1 2 k 0 := by decide +kernel
  exact ⟨_, rfl, (by decide : 0 < 1), c op h k hk, rfl, rfl⟩

def lane63 (t : State) (r : Nat) : Option Lane := ((pressOf (wheelOf t 7) 11).work).map (fun w => qGet w.q r 63)

theorem test_pred_sub : after (.predSub 7 11 15 1 2 true 0) (predSt (predProg 0x09 15 1 2 true 0)) (fun t => lane63 t 15) =
    some (some (some 8)) := by decide +kernel
theorem test_pred_ltu : after (.ltu 7 11 15 1 2 true 0) (predSt (predProg 0x1E 15 1 2 true 0)) (fun t => lane63 t 15) =
    some (some (some 1)) := by decide +kernel
theorem test_pred_lt_signed : after (.lt 7 11 15 1 2 true 0) (predSt (predProg 0x1A 15 1 2 true 0)) (fun t => lane63 t 15) =
    some (some (some 0)) := by decide +kernel
theorem test_pred_isnull : after (.isnull 7 11 15 3 0 false 0) (predSt (predProg 0x2B 15 3 0 false 0)) (fun t => lane63 t 15) =
    some (some (some 1)) := by decide +kernel
theorem test_pred_land_null : after (.land 7 11 15 3 2 false 0) (predSt (predProg 0x28 15 3 2 false 0)) (fun t => lane63 t 15) =
    some (some none) := by decide +kernel
theorem test_pred_between : after (.between 7 11 15 1 0 false 0) (predSt (predProg 0x38 15 1 0 false 0)) (fun t => lane63 t 15) =
    some (some (some 0)) := by decide +kernel

/-- Two hoops with room, on output ports 1 and 2. -/
def roomX : Wheel :=
  { hoops := [(1, { owner := some 0, pool := 0, stride := 4, units := 4, nbuf := 2, free := [0, 1] }),
              (2, { owner := some 0, pool := 0x1000, stride := 4, units := 4, nbuf := 2, free := [0, 1] })] }

/-- A curd of 64 rows without columns that puts the bitmap of its selection on port 1. -/
def curdDesc : List Byte := leBytes 8 (64 + 1 * 2 ^ 48 + 1 * 2 ^ 56 + 1 * 2 ^ 60) ++ leBytes 56 0
def curdWork : PWork := { cols := [], prog := predProg 0x02 15 0 0 true 1, limit := 1 }
def curdSt : State :=
  oneEng 2 11 { st := .run, op := some opr, desc := curdDesc, outP := [(1, 1), (2, 2)], work := some curdWork } roomX

/-- The last group of this curd, from its first instruction, on the wheel as it stands. -/
theorem wit_CurdAndCancel_curd :
    let x := storeClean (wheelOf curdSt 7) (pressUnit 11)
    let e := pressOf (wheelOf curdSt 7) 11
    (e.op = some opr ∧ e.sub = 0 ∧ e.fin = none ∧ e.st = .run ∧ e.pend = none ∧ e.outs = [] ∧ e.store ≠ 2 ∧ e.cancel = none ∧
      e.work = some curdWork ∧ curdWork.more = false ∧ curdWork.fail = none ∧ curdWork.limit = curdGroups e.desc ∧
      curdGroups e.desc = 1 ∧ curdWork.group = 0 ∧ curdWork.ip = 0 ∧ 0 < predNinstr curdWork.prog) ∧
    (let wk' := groupRun e.desc curdWork
     let outs := curdOuts x e wk'.cols wk'.sel
     (outs.length = 1 ∧ outs.find? (fun o => outTooLong x e o.2) = none) ∧
     canDeliver x (pressUnit 11) 4 (fun q => { q with st := .run, work := some wk', outs := outs.map (·.2), regs := bump q.regs 2 (selIndices wk'.sel).length })) :=
  ⟨by decide +kernel, by decide +kernel, by unfold canDeliver; decide +kernel⟩

/-- The same after the last group, in OUT_WAIT, with the buffers there now. -/
theorem wit_CurdAndCancel_waited :
    let wk := groupRun curdDesc curdWork
    let s := oneEng 2 11 { st := .outWait, op := some opr, desc := curdDesc, outP := [(1, 1), (2, 2)], work := some wk } roomX
    let x := storeClean (wheelOf s 7) (pressUnit 11)
    let e := pressOf (wheelOf s 7) 11
    let outs := curdOuts x e wk.cols wk.sel
    (wk.group = curdGroups e.desc ∧ wk.limit = curdGroups e.desc ∧ wk.more = false ∧ wk.fail = none ∧ wk.ip = 0 ∧
      outs.find? (fun o => outTooLong x e o.2) = none) ∧
    canDeliver x (pressUnit 11) 4 (fun q => { q with work := some wk, outs := outs.map (·.2), regs := bump q.regs 2 (selIndices wk.sel).length }) :=
  ⟨by decide +kernel, by unfold canDeliver; decide +kernel⟩

/-- Between groups, and within the only one. -/
def cancelSt (ip : Nat) : State :=
  oneEng 2 11 { st := .run, op := some opr, desc := curdDesc, work := some { curdWork with ip := ip } }
    { rnt := { flows := [(0, { st := .cancelled })] } }

theorem wit_CurdAndCancel_cancel : ∀ ip ∈ [0, 1],
    let e := pressOf (wheelOf (cancelSt ip) 7) 11
    opCancelled (cancelSt ip) 7 e = true ∧ e.op = some opr ∧ boundaryAhead e (pressGroups e) = true ∧ e.cancel = none ∧
    e.st = .run ∧ pressAtBoundary e = (ip == 0) := by decide +kernel

/-- An operator of a kind with one entry on input port 0 that has taken its column: one row, number 5, of 4-byte values. -/
def opDesc (kind bytes ctrl ent : Nat) : List Byte :=
  leBytes 8 (1 * 2 ^ 32 + 2 * 2 ^ 40 + 1 * 2 ^ 44 + kind * 2 ^ 56 + 1 * 2 ^ 60) ++ leBytes 8 (0x2000 + bytes * 2 ^ 32) ++
    leBytes 8 0 ++ leBytes 8 ctrl ++ leBytes 32 0 ++ leBytes 8 ent ++ leBytes 24 0
def column1 : List Byte := outHeader 1 7 0 false false false false 0 0 4 0 5 ++ leBytes 4 9
def opSt (desc : List Byte) : State :=
  oneEng 2 11 { st := .run, op := some opr, sub := 1, desc := desc, inP := [(0, 0)], outP := [(1, 1), (2, 2)]
                acc := [(0, { bytes := column1, got := 36, last := true })]
                tbl := tblHeader desc false 0 0 } roomX

def keyEnt7 : Nat := 1 * 2 ^ 43 + 7 * 2 ^ 32
def featDesc : List Byte := opDesc 1 0 0 (4 * 2 ^ 56 + 1 * 2 ^ 43 + 1 * 2 ^ 42)
def buildDesc : List Byte := opDesc 2 512 (2 ^ 54) keyEnt7
def probeDesc : List Byte := opDesc 3 512 0 keyEnt7
def partDesc : List Byte := opDesc 4 0 0 keyEnt7
def aggDesc : List Byte := opDesc 5 512 (2 ^ 54 + 2 ^ 48) keyEnt7
def emitDesc : List Byte := opDesc 6 512 (2 ^ 48) keyEnt7
def hllDesc : List Byte := opDesc 7 16 (2 ^ 54 + 4 * 2 ^ 32) keyEnt7

def afterGroup (x2 : Wheel) (u : UnitId) (k : PWork) : Wheel :=
  let x3 := onEng x2 u (fun e => { e with st := .run, work := some k })
  if (engOf x3 u).outs.isEmpty then x3 else outAdvance x3 u 4

/-- The groups of an operator that starts, if there is at most one: the wheel and the work after them. -/
def lastOf (x : Wheel) (u : UnitId) (i : OpIn) : Option (Wheel × PWork) :=
  let k : PWork := { ({} : PWork) with limit := cdiv i.rows 64, more := false }
  let z := onEng x u (fun e => { e with work := some k, col := 0 })
  if cdiv i.rows 64 = 0 then some (z, k)
  else if cdiv i.rows 64 = 1 then
    match opGroup z u 0 i k with
    | (x2, k', none) =>
      if (engOf x2 u).cancel.isNone ∧ (engOf (afterGroup x2 u k') u).outs = [] then some (afterGroup x2 u k', k') else none
    | _ => none
  else none

theorem opLast_of {x y : Wheel} {u : UnitId} {i : OpIn} {k' : PWork} (h : lastOf x u i = some (y, k')) :
    OpLast x u 0 i { ({} : PWork) with limit := cdiv i.rows 64, more := false } y k' := by
  unfold lastOf at h
  dsimp only at h
  unfold OpLast
  split at h
  · rename_i h0
    simp only [Option.some.injEq, Prod.mk.injEq] at h
    exact .inl ⟨h0.symm, h.1.symm, h.2.symm⟩
  · split at h
    · rename_i h1
      split at h
      · rename_i x2 k2 hg
        split at h
        · rename_i hc
          obtain ⟨rfl, rfl⟩ := Prod.mk.inj (Option.some.inj h)
          exact .inr ⟨h1.symm, _, x2, rfl, hg, Option.isNone_iff_eq_none.mp hc.1, rfl, hc.2⟩
        · cases h
      · cases h
    · cases h

/-- The result is a success and its output can be delivered. -/
def endsWell (y : Wheel) (u : UnitId) (i : OpIn) (k : PWork) : Bool :=
  let r := opResult y u 0 i k
  decide (r.done.code = 0) && (r.outs.find? (fun o => !o.2.eager && outTooLong r.x (engOf r.x u) o.2)).isNone &&
    outsReady (engOf (outAdvance (onEng r.x u (fun e => { e with outs := r.outs.map (·.2) })) u 4) u)

/-- The hypotheses of an operator's statement hold of the input that it decodes, and of what it computes. -/
def opRuns (desc : List Byte) (kind : Nat) : Bool :=
  let u := pressUnit 11
  let e := pressOf (wheelOf (opSt desc) 7) 11
  let x := storeClean (wheelOf (opSt desc) 7) u
  decide (opKind e.desc = kind) && (opNeeds e).all (fun q => portDone e q.1 q.2) && (engOf x u).work.isNone &&
  match opInput e with
  | .ok (some i) => i.stop.isNone && (match opBegin x i (engOf x u).desc with
    | (x0, none) => (match lastOf x0 u i with
      | some (y, k) => endsWell y u i k
      | none => false)
    | _ => false)
  | _ => false

theorem opRuns_of {desc : List Byte} {kind : Nat} (h : opRuns desc kind = true) :
    ∃ i x0 k y k', OpReady (opSt desc) 7 11 kind opr i ∧ OpStarts (storeClean (wheelOf (opSt desc) 7) (pressUnit 11)) (pressUnit 11) i x0 k ∧
      OpLast x0 (pressUnit 11) 0 i k y k' ∧ endsWell y (pressUnit 11) i k' = true := by
  unfold opRuns at h
  dsimp only at h
  simp only [Bool.and_eq_true, decide_eq_true_eq, List.all_eq_true] at h
  obtain ⟨⟨⟨hk, hn⟩, hw⟩, h⟩ := h
  split at h
  · rename_i i hi
    simp only [Bool.and_eq_true] at h
    obtain ⟨hs, h⟩ := h
    split at h
    · rename_i x0 hb
      split at h
      · rename_i y k' hl
        refine ⟨i, x0, { ({} : PWork) with limit := cdiv i.rows 64, more := false }, y, k', ?_, ?_, opLast_of hl, h⟩
        · exact ⟨rfl, rfl, rfl, .inl rfl, rfl, rfl, rfl, (fun c => nomatch c), hk, hn, hi, Option.isNone_iff_eq_none.mp hs⟩
        · refine ⟨by rw [if_pos hw]; exact hb, ?_, rfl⟩
          rw [Option.isNone_iff_eq_none.mp hw]
          rfl
      · cases h
    · cases h
  · cases h

theorem wit_PressOperators :
    opRuns featDesc 1 = true ∧ opRuns buildDesc 2 = true ∧ opRuns partDesc 4 = true ∧ opRuns aggDesc 5 = true ∧
    opRuns emitDesc 6 = true ∧ opRuns hllDesc 7 = true := by decide +kernel

theorem wit_PressOperators_probe : opRuns probeDesc 3 = true := by decide +kernel

theorem test_build_next_row : after (.build 7 11) (opSt buildDesc) (fun t =>
    ((pressOf (wheelOf t 7) 11).fin.map (·.code), leNat (caveRead (wheelOf t 7) 0x2018 8))) = some (some 0, 6) := by decide +kernel
/-- The worked values of R232. -/
theorem test_harp64_empty : harp64 0 [] = 0x0188CF5E6A223EB7 := by decide +kernel
theorem test_harp64_curd : harp64 0 [0x63, 0x75, 0x72, 0x64] = 0x20C51A17BBA484B5 := by decide +kernel
theorem test_partition_one : after (.partition 7 11) (opSt partDesc) (fun t =>
    (hoopOf (wheelOf t 7) 1).puts.map (fun q => q.2.len)) = some [64] := by decide +kernel

/-! ## Ladles -/

/-- A Mould entry that maps the first 2 MiB of context 0's space to the wheel's own memory, readable and writable. -/
def identity7 : MEntry :=
  let mask : BitVec 128 := BitVec.ofNat 128 (1023 * 2 ^ 64 + 2 ^ 57 - 2 ^ 21)
  { mask := mask, cmask := mask, valid := true, cres := BitVec.ofNat 64 (3 * 2 ^ 62 + 2 ^ 60 + 7 * 2 ^ 37) }

/-- The descriptor of a ladle operation: input port 0, output 1, AUX 2, AUX2 3; a table of 4 rows of 32 8-bit codes. -/
def ladleDesc (mode opt : Nat) : List Byte :=
  leBytes 8 (mode * 2 ^ 56 + opt * 2 ^ 53 + 1 * 2 ^ 44 + 1 * 2 ^ 36 + 2 * 2 ^ 32 + 3 * 2 ^ 28 + 2 ^ 60) ++ leBytes 8 (2 ^ 64 - 2 ^ 64) ++ leBytes 48 0 ++
    leBytes 8 (32 + 2 ^ 60) ++ leBytes 8 4 ++ leBytes 8 4 ++ leBytes 40 0

/-- One bag with one entry, unit 3. -/
def bag1 : List Byte := leBytes 4 1 ++ leBytes 4 1 ++ leBytes 24 0 ++ leBytes 4 0 ++ leBytes 4 1 ++ leBytes 24 0 ++ leBytes 8 3 ++ leBytes 24 0

def ladleSt (desc inB aux : List Byte) (lw : LWork) (mesh : List MeshMsg) : State :=
  { oneEng 3 7 { st := .run, op := some opr, desc := desc, inP := [(0, 0), (2, 3)], outP := [(1, 1)]
                 acc := [(0, { bytes := inB, got := inB.length, last := true }), (2, { bytes := aux, got := aux.length, last := true })]
                 lw := lw } { roomX with mem := { st := 0 }, mld := { entries := [(0, identity7)] } } with mesh := mesh }

def fedB (s : State) (mode : Nat) : Bool :=
  let e := ladleOf (wheelOf s 7) 7
  decide (e.op = some opr) && e.fin.isNone && decide (e.st = .run) && e.pend.isNone && e.held.isEmpty &&
    e.outs.isEmpty && decide (e.store = 0) && (ladleNeeds e).all (fun q => portDone e q.1 q.2) && decide (lhMode e.desc = mode) &&
    (ladleIns e.desc).all (fun p => !(tget {} e.acc p : InPort).lost && !(tget {} e.acc p : InPort).err)

theorem fed_of {s : State} {mode : Nat} (h : fedB s mode = true) : LadleFed s 7 7 mode opr := by
  simp only [fedB, Bool.and_eq_true, decide_eq_true_eq, Option.isNone_iff_eq_none, List.isEmpty_iff, List.all_eq_true,
    Bool.not_eq_true'] at h
  obtain ⟨⟨⟨⟨⟨⟨⟨⟨⟨h1, h2⟩, h3⟩, h4⟩, h5⟩, ho⟩, hs⟩, h6⟩, h7⟩, h8⟩ := h
  exact ⟨⟨h1, h2, .inl h3, h4, h5, ho, hs, h6⟩, h7, h8⟩

def block1 : BagBlk := ⟨1, 0, [0, 1], [3], [1], none⟩
def bagsB (s : State) : Bool :=
  let e := ladleOf (wheelOf s 7) 7
  decide (bagBlock (ladleBytes s 7 7 (lhIn e.desc)) (lhMean e.desc) = some block1) &&
    (match entryKeys (lTab e) block1 with | .ok k => decide (k = [some 3]) | .error _ => false)

theorem bags_of {s : State} (h : bagsB s = true) : LadleBags s 7 7 block1 [some 3] := by
  simp only [bagsB, Bool.and_eq_true, decide_eq_true_eq] at h
  refine ⟨h.1, ?_⟩
  cases e : entryKeys (lTab (ladleOf (wheelOf s 7) 7)) block1 with
  | error _ => simp [e] at h
  | ok k => simp [e] at h; simp [h.2]

/-- A POOL at entry `pos` of its one entry, with `bag` read. -/
def poolSt (pos : Nat) (bag : List (Nat × List (List Byte))) : State := ladleSt (ladleDesc 1 0) bag1 [] { pos := pos, bag := bag } []
def normSt : State := ladleSt (ladleDesc 3 0) bag1 (leBytes 128 0) {} []

/-- The state in which POOL forms its output, and the stream of the rest of it. -/
def poolOn (s : State) : State :=
  let s0 := countEntries (ldlOn s 7 7 (fun e => { e with st := .run })) 7 7 block1
  ldlOn s0 7 7 (fun e => { e with lw := { e.lw with out := poolHeader block1.nbags block1.base false } })

def poolStream (s u : State) (bag : List (Nat × List (List Byte))) : OutStream :=
  let e := ladleOf (wheelOf s 7) 7
  outStream (wheelOf u 7) (ldlOf u 7 7) (lhOut e.desc)
    ((ldlOf u 7 7).lw.out ++ bagBytes e.desc (lTab e) block1 [some 3] bag (ldlOf u 7 7).lw.bags)

/-- The last bag is in hand and its stream has room: one buffer holds it. -/
def lastBagB (s u : State) (bag : List (Nat × List (List Byte))) : Bool :=
  let e := ladleOf (wheelOf s 7) 7
  let o := poolStream s u bag
  let n := o.bufs.flatten.length
  decide ((ldlOf u 7 7).lw.bags + 1 = block1.nbags) && decide (0 < n) && (ldlOf u 7 7).outs.isEmpty && (ldlOf u 7 7).held.isEmpty &&
    decide ((ldlOf u 7 7).desc = e.desc) && decide (poolTotal e.desc (lTab e) block1 = (ldlOf u 7 7).lw.put + n) &&
    decide (portHoop (ldlOf u 7 7).outP o.port = some 1) && decide (o.bufs.length ≤ (hoopOf (wheelOf u 7) 1).free.length)

theorem wit_PoolAndNorms_pool :
    let bag := [(3, [leBytes 64 0])]
    LadleFed (poolSt 1 bag) 7 7 1 opr ∧ LadleBags (poolSt 1 bag) 7 7 block1 [some 3] ∧ nth 0 block1.offs block1.nbags ≤ 1 ∧
      lastBagB (poolSt 1 bag) (poolOn (poolSt 1 bag)) bag = true :=
  ⟨fed_of (by decide +kernel), bags_of (by decide +kernel), by decide, by decide +kernel⟩

/-- The row of the last entry is read now. -/
def poolReadB : Bool :=
  let s := poolSt 0 []
  let e := ladleOf (wheelOf s 7) 7
  match readUnit (ladleAcc e 7 7 0) block1 0 ((unitRows (lTab e) 3).drop 0) (poolOn s) with
  | .next u => decide ((ldlOf u 7 7).lw.pos = 0) && lastBagB s u (tset [] (ldlOf u 7 7).lw.bag 3 (ldlOf u 7 7).lw.half)
  | .stop _ => false

theorem wit_PoolAndNorms_pool_read : LadleFed (poolSt 0 []) 7 7 1 opr ∧ LadleBags (poolSt 0 []) 7 7 block1 [some 3] ∧
    0 < nth 0 block1.offs 1 ∧ nth 0 block1.offs block1.nbags = 1 ∧ lhCopyMin (ladleOf (wheelOf (poolSt 0 []) 7) 7).desc = 0 ∧
    poolReadB = true :=
  ⟨fed_of (by decide +kernel), bags_of (by decide +kernel), by decide, by decide, by decide +kernel, by decide +kernel⟩

theorem wit_PoolAndNorms_norms :
    let e := ladleOf (wheelOf normSt 7) 7
    LadleFed normSt 7 7 3 opr ∧ LadleBags normSt 7 7 block1 [some 3] ∧
      (ladleBytes normSt 7 7 (lhAux e.desc)).length = 4 * (lTab e).d * 1 ∧
      RoomFor (wheelOf normSt 7) e (ladleStream (wheelOf normSt 7) e
        (normsBytes e.desc (lTab e) block1 [some 3] (ladleBytes normSt 7 7 (lhAux e.desc)))) :=
  ⟨fed_of (by decide +kernel), bags_of (by decide +kernel), by decide +kernel, 1, by decide +kernel, by decide +kernel⟩

/-- REPLACE of row 3 by one record of 72 bytes. -/
def replSt (lock : Option (Nat × Nat × Nat)) : State :=
  ladleSt (ladleDesc 4 0) (leBytes 8 3 ++ leBytes 64 (2 ^ 400)) [] { lock := lock } []

/-- How the row's write ends: held, or its swap found the header changed. -/
def replB (s : State) (lost : Bool) : Bool :=
  let e := ladleOf (wheelOf s 7) 7
  let c := ladleAcc e 7 7 0
  match rowRead c c.t.base 3 (lhForce e.desc) (ldlOn s 7 7 (fun e => { e with st := .run })) with
  | (s1, .ok old) =>
    match rowWrite s1 c old 3 (((ladleBytes s 7 7 0).take 72).drop 12) (fun s => (s, .ok ([], []))) with
    | (s2, .held _) => !lost && decide ((wheelOf s2 7).svc = .inService) && decide ((ldlOf s2 7 7).st = .run)
    | (_, .lost) => lost
    | _ => false
  | _ => false

theorem wit_RowWriters_replace_row : LadleFed (replSt none) 7 7 4 opr ∧ (ladleOf (wheelOf (replSt none) 7) 7).lw.lock = none ∧
    (ladleBytes (replSt none) 7 7 0).length = 8 + rowBytes (lTab (ladleOf (wheelOf (replSt none) 7) 7)) ∧
    leAt (ladleBytes (replSt none) 7 7 0) 0 8 = 3 ∧ (lTab (ladleOf (wheelOf (replSt none) 7) 7)).prows = 4 ∧ replB (replSt none) false = true :=
  ⟨fed_of (by decide +kernel), by decide +kernel, by decide +kernel, by decide +kernel, by decide +kernel, by decide +kernel⟩

/-- A translation run without W is left for the write: the page moved, and the row there has another header. -/
def replMoved : State :=
  let s := ladleSt (ladleDesc 4 0) (leBytes 8 3 ++ leBytes 64 (2 ^ 400)) [] { run := some ⟨0, 2 ^ 21, 7 * 2 ^ 37 + 2 ^ 21, true, false⟩ } []
  onWheel s 7 (fun x => { x with mem := { st := 0, cells := [(192, 2)] } })

theorem wit_RowWriters_replace_lost : LadleFed replMoved 7 7 4 opr ∧ (ladleOf (wheelOf replMoved 7) 7).lw.lock = none ∧
    (ladleOf (wheelOf replMoved 7) 7).lw.cancel = false ∧ leAt (ladleBytes replMoved 7 7 0) 0 8 = 3 ∧ replB replMoved true = true :=
  ⟨fed_of (by decide +kernel), by decide +kernel, by decide +kernel, by decide +kernel, by decide +kernel⟩

theorem wit_RowWriters_replace_end : LadleFed (replSt (some (7 * 2 ^ 37 + 192, 2, 3))) 7 7 4 opr ∧
    (ladleOf (wheelOf (replSt (some (7 * 2 ^ 37 + 192, 2, 3))) 7) 7).lw.lock = some (7 * 2 ^ 37 + 192, 2, 3) ∧
    (ladleOf (wheelOf (replSt (some (7 * 2 ^ 37 + 192, 2, 3))) 7) 7).lw.cancel = false ∧
    invalPending (replSt (some (7 * 2 ^ 37 + 192, 2, 3))) 7 7 = false ∧
    (ladleBytes (replSt (some (7 * 2 ^ 37 + 192, 2, 3))) 7 7 0).length = 72 * (0 + 1) :=
  ⟨fed_of (by decide +kernel), by decide +kernel, by decide +kernel, by decide +kernel, by decide +kernel⟩

def updSt (lock : Option (Nat × Nat × Nat)) : State :=
  ladleSt (ladleDesc 2 0) bag1 (leBytes 128 0) { lock := lock } []

def updB : Bool :=
  let s := updSt none
  let e := ladleOf (wheelOf s 7) 7
  let c := ladleAcc e 7 7 0
  match updateRow (countEntries (ldlOn s 7 7 (fun e => { e with st := .run })) 7 7 block1) c e.desc 3
      (gradOf e.desc c.t block1 [some 3] (ladleBytes s 7 7 2) 3) (leAt ((ladleBytes s 7 7 3).take 16) 8 4) (leAt ((ladleBytes s 7 7 3).take 16) 12 4) with
  | (s1, .held _) => decide ((wheelOf s1 7).svc = .inService) && decide ((ldlOf s1 7 7).st = .run)
  | _ => false

theorem wit_RowWriters_update_row : LadleFed (updSt none) 7 7 2 opr ∧ LadleBags (updSt none) 7 7 block1 [some 3] ∧
    (ladleBytes (updSt none) 7 7 2).length = 4 * 32 * 1 ∧ lhOpt (ladleOf (wheelOf (updSt none) 7) 7).desc = 0 ∧
    (ladleOf (wheelOf (updSt none) 7) 7).lw.lock = none ∧ (ladleOf (wheelOf (updSt none) 7) 7).lw.cancel = false ∧
    (touched [some 3])[0]? = some 3 ∧ updB = true :=
  ⟨fed_of (by decide +kernel), bags_of (by decide +kernel), by decide +kernel, by decide +kernel, by decide +kernel, by decide +kernel,
    by decide, by decide +kernel⟩

theorem wit_RowWriters_update_end : LadleFed (updSt (some (0, 2, 3))) 7 7 2 opr ∧ LadleBags (updSt (some (0, 2, 3))) 7 7 block1 [some 3] ∧
    (ladleBytes (updSt (some (0, 2, 3))) 7 7 2).length = 4 * 32 * 1 ∧
    (ladleOf (wheelOf (updSt (some (0, 2, 3))) 7) 7).lw.lock = some (0, 2, 3) ∧
    (ladleOf (wheelOf (updSt (some (0, 2, 3))) 7) 7).lw.cancel = false ∧ invalPending (updSt (some (0, 2, 3))) 7 7 = false ∧
    (touched [some 3]).length = 0 + 1 :=
  ⟨fed_of (by decide +kernel), bags_of (by decide +kernel), by decide +kernel, by decide +kernel, by decide +kernel, by decide +kernel,
    by decide⟩

theorem test_replace_tells : after (.replace 7 7) (replSt none) (fun t => t.mesh.length) = some 64 := by decide +kernel

theorem wit_LadleEvents :
    let retry := oneEng 3 7 { st := .rowWait, op := some opr, desc := ladleDesc 4 0 } {}
    (ladleOf (wheelOf retry 7) 7).op = some opr ∧ (ladleOf (wheelOf retry 7) 7).st = .rowWait ∧
    (ladleOf (wheelOf retry 7) 7).fin = none := by decide +kernel

theorem wit_LadleEvents_cancel : ∀ lock ∈ [none, some ((0, 2, 3) : Nat × Nat × Nat)],
    let s := oneEng 3 7 { st := .run, op := some opr, desc := ladleDesc 4 0, lw := { lock := lock } }
      { rnt := { flows := [(0, { st := .cancelled })] } }
    let e := ladleOf (wheelOf s 7) 7
    opCancelled s 7 e = true ∧ e.op = some opr ∧ e.fin = none ∧ e.st = .run := by decide +kernel

/-- Wheel 4 served one sampled row often and the others none; wheel 5 is the least busy that is found first. -/
def busySt (en : Bool) : State :=
  { wheels := [(4, { ldl := { regs := [(0x040, 1000)], samples := [⟨1023, 7, 3, [(4 * 2 ^ 37, 64)], true⟩] }, mem := { st := 0 } })]
    migrEn := en, ctxs := [(1023, { st := .openC })] }

theorem wit_LadleEvents_sample :
    ((wheelOf (busySt true) 4).ldl.samples = [⟨1023, 7, 3, [(4 * 2 ^ 37, 64)], true⟩]) := by decide +kernel

theorem wit_LadleEvents_balanced : (busySt false).migrEn = false := by decide

theorem wit_LadleEvents_migrate :
    let s := busySt true
    let ws := (upto 4).map (4 * 1 + ·)
    let total := (ws.map (periodLoad s)).foldl (· + ·) 0
    let busy := ws.foldl (fun b w => if periodLoad s b < periodLoad s w then w else b) 4
    let idle := ws.foldl (fun b w => if periodLoad s w < periodLoad s b then w else b) 4
    let s1 := ws.foldl (fun s w => onWheel s w (fun x => { x with ldl := { x.ldl with lastLoad := regGet x.ldl.regs 0x040 } })) s
    let s2 := onWheel s1 busy (fun x => { x with ldl := { x.ldl with samples := [] } })
    busy = 4 ∧ idle = 5 ∧ total * (100 + s.migrImbal) < periodLoad s busy * 400 ∧ (wheelOf s idle).ldl.stopped = false ∧
    (hotRows ((wheelOf s busy).ldl.samples.filter (fun p => p.ok && paWheel (headAddr p.home) == busy &&
      !(isMigrated s p)))).take 32 = [⟨1023, 7, 3, [(4 * 2 ^ 37, 64)], true⟩] ∧
    (wheelOf s idle).ldl.poolUsed + 64 ≤ 64 ∧
    (migrateRow s2 busy idle (0xFFFFFFFF00 + (wheelOf s idle).ldl.poolUsed) ⟨1023, 7, 3, [(4 * 2 ^ 37, 64)], true⟩).2 = true := by decide +kernel

theorem test_ldlSampleRead : after (.ldlSampleRead 4) (busySt true) (fun t => (t.rdVal, (wheelOf t 4).ldl.sampleCtx)) =
    some (BitVec.ofNat 64 (2 ^ 63 + 7 * 2 ^ 47 + 3), 1023) := by decide +kernel

/-! ## Graders -/

/-- A grader's operation of a mode on three signed keys at port 0 (modes 1 and 2), or on two lists of one entry (mode 3); the
list goes to port 1, in ascending order. -/
def gradeDesc (mode : Nat) : List Byte :=
  leBytes 8 (1 * 2 ^ 60 + mode * 2 ^ 56 + 1 * 2 ^ 52 + (if mode = 3 then 8 * 2 ^ 36 + 1 * 2 ^ 32 else 1 * 2 ^ 36)
    + (if mode = 2 then 2 else 0)) ++ leBytes 4 (if mode = 3 then 0 else 3) ++ leBytes 4 0 ++ leBytes 48 0
def listOf (src key index : Nat) : List Byte :=
  leBytes 8 (1 + 2 ^ 32) ++ leBytes 8 (src + 2 ^ 16) ++ leBytes 16 0 ++ leBytes 8 key ++ leBytes 4 index ++ leBytes 4 0
def gradeAcc (mode : Nat) : List (Nat × InPort) :=
  if mode = 3 then [(0, { bytes := listOf 1 5 10, got := 48, last := true }), (1, { bytes := listOf 2 3 11, got := 48, last := true })]
  else [(0, { bytes := leBytes 4 7 ++ leBytes 4 (2 ^ 32 - 1) ++ leBytes 4 3, got := 12, last := true })]
def gradeX : Wheel :=
  { roomX with hoops := roomX.hoops.map (fun p => if p.1 = 2 then (p.1, { p.2 with units := 6 }) else p) }
def gradeSt (mode : Nat) : State :=
  oneEng 4 3 { st := .run, op := some opr, desc := gradeDesc mode, inP := [(0, 0)], outP := [(1, 1), (8, 2)], acc := gradeAcc mode } gradeX

/-- Everything the statement asks of a grader's operation, as one value. -/
def gradeReady (m : Nat) : Bool :=
  let x := wheelOf (gradeSt m) 7
  let e := graderOf x 3
  let r := gResult e.desc (gInput e).1
  let o := outStream x e (gOut e.desc) (gOutBytes e.desc r)
  decide (gMode e.desc = m) && (gNeeds e).all (fun q => portDone e q.1 q.2) && decide (firstFail (gInput e).2 = none) &&
    !(gBad1 e.desc) && !(gBad2 e.desc) &&
    (match portHoop e.outP o.port with
      | some h => decide (o.bufs.length ≤ (hoopOf x h).free.length)
      | none => false)

theorem wit_GraderOperations : gradeReady 1 = true ∧ gradeReady 2 = true ∧ gradeReady 3 = true := by decide +kernel

theorem wit_GraderOperations_cancel :
    let s := oneEng 4 3 { st := .inWait, op := some opr, desc := gradeDesc 1 } { rnt := { flows := [(0, { st := .cancelled })] } }
    let e := graderOf (wheelOf s 7) 3
    opCancelled s 7 e = true ∧ e.op = some opr ∧ e.fin = none ∧ e.st ≠ .check ∧ e.st ≠ .drain ∧ e.st ≠ .fenced ∧
      e.st ≠ .outOfService := by decide +kernel

/-- Signed order: the key of -1 at position 1 is first, then 3, then 7. -/
theorem test_sort_signed : (gResult (gradeDesc 1) (gInput (graderOf (wheelOf (gradeSt 1) 7) 3)).1).ents.map (·.index) = [1, 2, 0] := by
  decide +kernel
theorem test_select_two : (gResult (gradeDesc 2) (gInput (graderOf (wheelOf (gradeSt 2) 7) 3)).1).ents.map (·.index) = [1, 2] := by
  decide +kernel
theorem test_merge_lists : after (.merge 7 3) (gradeSt 3) (fun t => (hoopOf (wheelOf t 7) 2).puts.map (fun q => q.2.len)) = some [64] := by
  decide +kernel

/-! ## Streams and drips -/

def own5 : Owner := .inst opv

/-- A stream from hoop 1 to hoop 2 in buffers of 32 bytes. -/
def sdHoops : List Byte := leBytes 8 (2 ^ 60 + 2 ^ 58 + 1 * 2 ^ 32 + 2 * 2 ^ 22) ++ leBytes 8 (32 * 2 ^ 32) ++ leBytes 48 0

def armX : Wheel :=
  caveWrite { whey := { arms := [(own5, 127, 0x2000, 7)] }
              hoops := [(1, { owner := some 1023, units := 1, nbuf := 2 }), (2, { owner := some 1023, units := 1, nbuf := 2, free := [0, 1] })] }
    0x2000 sdHoops

def armOk (s : State) : Bool :=
  let s1 := onWhey s 7 (fun y => { y with arms := y.arms.erase (own5, 127, 0x2000, 7) })
  match armChecks s1 7 127 (ownerCtx own5) 0x2000 (hostArmed { chOf s 7 127 with own := some own5 }) with
  | .ok p => decide (p.cons = [1]) && decide (p.out = .hoop 2)
  | .error _ => false

theorem wit_StreamLife_arm :
    let s := onW 7 armX
    (wheelOf s 7).whey.arms.find? (fun a => a.2.1 == 127) = some (own5, 127, 0x2000, 7) ∧ (wheelOf s 7).whey.st = 0 ∧
    (chOf s 7 127).st = .idle ∧ armOk s = true := by decide +kernel

theorem wit_StreamLife_busy :
    let s := onW 7 (setChan armX 127 { st := .run, own := some own5 })
    (wheelOf s 7).whey.arms.find? (fun a => a.2.1 == 127) = some (own5, 127, 0x2000, 7) ∧ (wheelOf s 7).whey.st = 0 ∧
    (chOf s 7 127).st ≠ .idle := by decide +kernel

theorem wit_StreamLife_cancel :
    let s := onW 7 (setChan { rnt := { flows := [(5, { st := .cancelled })] } } 127 { st := .faulted, own := some own5 })
    let ch := chOf s 7 127
    chCancelled s 7 ch = true ∧ ch.st ≠ .idle ∧ ch.st ≠ .ending ∧ ch.st ≠ .fenced := by decide +kernel

theorem wit_StreamLife_complete :
    let s := onW 7 (setChan {} 127 { st := .ending, own := some own5, out := .mem, code := 0x0604 })
    (chOf s 7 127).own = some own5 ∧ (chOf s 7 127).st = .ending ∧ streamSettled s 7 127 = true := by decide +kernel

/-- A running stream of bytes into a buffer of 512 bytes of hoop 2 that holds 256 of them. -/
def dataSt : State :=
  onW 7 (setChan { hoops := [(1, { owner := some 1023 }), (2, { owner := some 1023, units := 2, nbuf := 2 })] } 127
    { st := .run, own := some own5, sd := leBytes 8 (2 ^ 60 + 2 ^ 58 + 1 * 2 ^ 32 + 2 * 2 ^ 22) ++ leBytes 8 (512 * 2 ^ 32) ++ leBytes 48 0
      out := .hoop 2, fill := some (0x3000, 256), inBuf := (upto 300).map (fun i => BitVec.ofNat 8 i), srcIn := 300
      taken := [(⟨false, true, 1, 300, 0x1000⟩, 300)] })

theorem wit_StreamData_hoop :
    let ch := chOf dataSt 7 127
    ch.st = .run ∧ ch.ats = false ∧ (wheelOf dataSt 7).whey.st = 0 ∧ sdSrcKind ch.sd = 1 ∧ sdDstKind ch.sd = 0 ∧
    ch.out = .hoop 2 ∧ ch.fill = some (0x3000, 256) ∧ 256 + 256 ≤ sdBufBytes ch.sd ∧ 256 ≤ ch.inBuf.length ∧
    reachCode dataSt 7 7 = 0 := by decide +kernel

theorem test_stream_data : after (.streamDataReturn 7 127) dataSt (fun t =>
    (rdByte 0 (wheelOf t 7).cave (0x3000 + 511), (chOf t 7 127).inBuf.length)) = some (255, 44) := by decide +kernel

/-- A descriptor of device memory with `n` bytes from `base`. -/
def ddesc (base n : Nat) : List Byte :=
  leBytes 8 (2 ^ 60 + 0x10 * 2 ^ 48 + 1 * 2 ^ 45) ++ leBytes 8 base ++ leBytes 4 n ++ leBytes 20 0 ++ leBytes 4 n ++ leBytes 4 0 ++
    leBytes 8 1 ++ leBytes 72 0

/-- The last of 3 bytes from device address 0x1000 to 0x2000. -/
def memSt : State :=
  onW 7 (setChan { mem := { st := 0, cells := [(0x1002, 0x5A)] }, mld := { entries := [(0, identity7)] } } 127
    { st := .run, own := some (.inst opr), sd := leBytes 8 (2 ^ 60 + 2 * 2 ^ 56) ++ leBytes 56 0, src := ddesc 0x1000 3
      dst := ddesc 0x2000 3, out := .mem, pos := 2 })

def memB : Bool :=
  let d := chSrcD (chOf memSt 7 127)
  match srcUnit memSt 7 127 d 2 with
  | .ok s1 bs => decide (bs.length < 256) && (match dstUnit s1 7 127 (chDstD (chOf memSt 7 127)) 2 bs with
    | .ok _ _ => true
    | _ => false)
  | _ => false

theorem wit_StreamData_mem :
    let ch := chOf memSt 7 127
    let d := chSrcD ch
    ch.st = .run ∧ ch.ats = false ∧ (wheelOf memSt 7).whey.st = 0 ∧ sdSrcKind ch.sd = 0 ∧ sdDstKind ch.sd = 2 ∧
    sdIxs ch.sd = false ∧ ch.out = .mem ∧ ch.pos < descCount d ∧ descCount d ≤ ch.pos + unitElems d ∧ memB = true := by decide +kernel

theorem test_stream_mem : after (.streamDataReturn 7 127) memSt (fun t =>
    (rdByte 0 (wheelOf t 7).mem.cells 0x2002, (chOf t 7 127).st)) = some (0x5A, .ending) := by decide +kernel

/-- A channel that walks for address 0 through a table of wheel 7: one entry to the next level, and there a page of 1 GiB with
the bits given. -/
def walkSt (bits_ : Nat) : State :=
  { onW 7 (setChan { mem := { st := 0, cells := wrMem 0 (wrMem 0 [] 0 (leBytes 8 (7 * 2 ^ 37 + 0x1001))) 0x1000 (leBytes 8 (7 * 2 ^ 37 + bits_)) } } 127
    { st := .walk, own := some own5, ctx := 1023, missRead := true, missDst := true }) with
    ctxs := [(1023, { st := .openC, root := some (7 * 2 ^ 37, 9) })] }

def walkB (s : State) : Nat :=
  let ch := chOf s 7 127
  match (pageWalk s 7 ch.ctx ch.missAddr ch.missRead ch.missWrite).2 with
  | .page _ _ _ _ => 1
  | .notPresent => 2
  | .refused => 3
  | _ => 4

theorem wit_StreamTranslation_walk :
    (chOf (walkSt 0xF) 7 127).st = .walk ∧ walkB (walkSt 0xF) = 1 ∧ walkB (walkSt 0xE) = 2 ∧ walkB (walkSt 0xB) = 3 := by decide +kernel

theorem wit_StreamTranslation_mine :
    let s := { onW 7 (setChan {} 127 { st := .faulted, own := some own5, ctx := 1023 }) with ctxs := [(1023, { st := .openC, owner := 1 })] }
    wheelVisible s 1 7 = true ∧ (chOf s 7 127).st = .faulted ∧ (chOf s 7 127).ctx = 1023 ∧ (ctxOf s 1023).owner = 1 ∧
    (ctxOf s 1023).st ≠ .free := by decide +kernel

theorem wit_StreamTranslation_ats :
    let s := onW 7 (setChan {} 127 { st := .run, ats := true, missAddr := 0x12345678, missWrite := true, missDst := true })
    let size := 2 ^ max 12 (min 21 63)
    let run : Run := ⟨(chOf s 7 127).missAddr / size * size, size, 0x40000000 / size * size, false, true⟩
    (chOf s 7 127).st = .run ∧ (chOf s 7 127).ats = true ∧
      runAllows run (chOf s 7 127).missRead (chOf s 7 127).missWrite = true := by decide +kernel

theorem wit_StreamTranslation_prg : (chOf (onW 7 (setChan {} 127 { st := .priWait, own := some own5 })) 7 127).st = .priWait := by
  decide +kernel

/-- A drip of 256 bytes of the Cave at 0x100 to host address 0x1000 of port 0. -/
def dripRec : List Byte := leBytes 8 (2 ^ 60 + 2 ^ 58 + 2 * 2 ^ 56 + 256) ++ leBytes 8 0x100 ++ leBytes 8 0x1000 ++ leBytes 8 0
def dripSt : State :=
  { onW 7 { whey := { drips := [⟨own5, 1023, 7, dripRec⟩] }, cave := [(0x1FF, 0x77)] } with ports := [(0, { up := true, perst := false })] }

theorem wit_Drips :
    let d : Drip := ⟨own5, 1023, 7, dripRec⟩
    (wheelOf dripSt 7).whey.drips = d :: [] ∧ (wheelOf dripSt 7).whey.st = 0 ∧ dripCheck d.record = 0 ∧
    dripSrcSpace d.record = 1 ∧ dripDstSpace d.record = 2 ∧ (portOf dripSt 0).ats = false ∧
    caveRangeOk (wheelOf dripSt 7) (dripSrc d.record) (dripLen d.record) = true ∧
    caveUncorr (wheelOf dripSt 7) (dripSrc d.record) (dripLen d.record) = false ∧
    (hostWrite dripSt 0 (dripDst d.record) (caveRead (wheelOf dripSt 7) (dripSrc d.record) (dripLen d.record))).isSome = true := by
  decide +kernel

theorem test_drip : after (.dripOperation 7 false 0) dripSt (fun t => (hostOf t 0).cells) = some [(0x10FF, 0x77)] := by decide +kernel

theorem wit_Drips_credit :
    let s := { onW 7 (setChan {} 127 { st := .creditWait, out := .rhoop 6 1023 }) with mesh := [.credit 7 127 6 1023 0x400] }
    let i := { onW 7 {} with mesh := [.credit 7 127 6 1023 0x400] }
    s.mesh.find? (creditFor s 7) = some (.credit 7 127 6 1023 0x400) ∧ (chOf s 7 127).out = .rhoop 6 1023 ∧
    (chOf s 7 127).st = .creditWait ∧ i.mesh.find? (creditFor i 7) = some (.credit 7 127 6 1023 0x400) ∧ (chOf i 7 127).st = .idle := by
  decide +kernel

theorem wit_Drips_put :
    let s := { onW 7 {} with mesh := [.put 7 6 1023 ⟨false, true, 1023, 32, 0⟩] }
    s.mesh.find? (putFor s 7) = some (.put 7 6 1023 ⟨false, true, 1023, 32, 0⟩) ∧ (wheelOf s 7).svc = .inService := by decide +kernel

/-! ## Rennet -/

/-- An operation of a class with one TOKEN slot, on flow 5. -/
def opCls (cls : Nat) : OpRec := ⟨1023, 0xFFFFFF, cls, 7, false, 3, [0], [], 0, 0, 5, 0x8000⟩
def rntSt (r : Rennet) : State := onW 7 { rnt := r }
def flow5 : List (Nat × Flow) := [(5, { st := .openF, ctx := 1023, quota := 64 })]

theorem wit_OperandsAndDispatch_token :
    let s := { rntSt { ops := [opCls 1], flows := flow5 } with mesh := [.token 7 4 1023 0xFFFFFF 0 0xFFFF] }
    let r := rnt s 7
    s.mesh.find? (tokenFor s 7 1023 0xFFFFFF 0 0xFFFF) = some (.token 7 4 1023 0xFFFFFF 0 0xFFFF) ∧ r.st = 0 ∧ findOp r 1023 0xFFFFFF = some (opCls 1) ∧
    slotKind (opCls 1) 0 = 0 ∧ (flowOf r 5).st = .openF ∧ findPass r 1023 0xFFFF = none ∧ 0 ∉ (openInst r (opCls 1) 0xFFFF).filled ∧
    instRoom r (opCls 1) = true := by decide +kernel

theorem wit_OperandsAndDispatch_resume :
    let s := rntSt { ops := [opCls 1], flows := flow5, tokq := [⟨1023, 0xFFFFFF, 0, 0xFFFF⟩] }
    let r := rnt s 7
    r.st = 0 ∧ r.tokq = [⟨1023, 0xFFFFFF, 0, 0xFFFF⟩] ∧ (∀ p ∈ r.passes, p.toOpen = []) ∧ submitWaits s 7 = false ∧
    findOp r 1023 0xFFFFFF = some (opCls 1) ∧ slotKind (opCls 1) 0 = 0 ∧ (flowOf r 5).st = .openF ∧
    findPass r 1023 0xFFFF = none ∧ 0 ∉ (openInst r (opCls 1) 0xFFFF).filled ∧ instRoom r (opCls 1) = true := by decide +kernel

/-- One instance with its operand, of each class. -/
def inst3 : Inst := { ctx := 1023, opid := 0xFFFFFF, iter := 0xFFFF, filled := [0], ready := some 9 }
theorem wit_OperandsAndDispatch_dispatch : ∀ cls ∈ [1, 2, 3, 4, 5, 6],
    let s := rntSt { ops := [opCls cls], flows := flow5, insts := [{ inst3 with ready := none }]
                     passes := [{ ctx := 1023, iter := 0xFFFF, released := 0 }], regs := [(0x078, 8)] }
    let r := rnt s 7
    let c1 := rRegs { x := wheelOf s 7, w := 7 } (fun g => bump g 7 1)
    let c := markReady (storeFail c1)
    r.st = 0 ∧ r.storeBad = [] ∧ operandWaits s 7 = false ∧ ranked c.x = [(opCls cls, inst3)] ∧ findInst c.x.rnt 1023 0xFFFFFF 0xFFFF = some inst3 ∧ inst3.st = .waiting ∧
    pickUnit c.x 7 false (opCls cls) inst3 = some ⟨cls, 3⟩ ∧ recordOk (wheelOf s 7) (opCls cls) = true := by decide +kernel

/-- A wheel with the instance in service on a unit of a class; the operation ended with a code. -/
def inServ (cls code : Nat) : Wheel :=
  let f : Ended := ⟨code, 1, 2⟩
  let x : Wheel := { rnt := { ops := [opCls cls], flows := flow5, insts := [{ inst3 with st := .service ⟨cls, 3⟩ 9 }]
                              passes := [{ ctx := 1023, iter := 0xFFFF, released := 0 }] } }
  match cls with
  | 1 => { x with vats := [(3, { op := some opv, fin := some f, closed := true })] }
  | 5 => { x with whey := { dones := [⟨3, .inst opv, code, 0, 0, 0⟩] } }
  | 6 => { x with whey := { dones := [⟨0xFF, .inst opv, code, 0, 0, 0⟩] } }
  | _ => setEng x ⟨cls, 3⟩ { st := .run, op := some opv, fin := some f }

theorem wit_EngineCompletion : ∀ cls ∈ [1, 2, 3, 4, 5, 6], ∀ code ∈ [0, 0x0508],
    let s := onW 7 (inServ cls code)
    let x := wheelOf s 7
    findInst x.rnt opv.ctx opv.opid opv.iter = some { inst3 with st := .service ⟨cls, 3⟩ 9 } ∧
    findOp x.rnt opv.ctx opv.opid = some (opCls cls) ∧ mayComplete s 7 opv code = true ∧
    (cls = 1 → (vatOf x 3).op = some opv ∧ (vatOf x 3).fin = some ⟨code, 1, 2⟩ ∧ (vatOf x 3).closed = true) ∧
    (2 ≤ cls → cls ≤ 4 → (engOf x ⟨cls, 3⟩).op = some opv ∧ (engOf x ⟨cls, 3⟩).fin = some ⟨code, 1, 2⟩ ∧
      putsOpen x ⟨cls, 3⟩ = false ∧ (engOf x ⟨cls, 3⟩).outs = [] ∧ (engOf x ⟨cls, 3⟩).st ≠ .fenced) ∧
    (cls = 5 → x.whey.dones = [⟨3, .inst opv, code, 0, 0, 0⟩]) ∧ (cls = 6 → x.whey.dones = [⟨0xFF, .inst opv, code, 0, 0, 0⟩]) := by
  decide +kernel

theorem test_completion_fails_flow : after (.engineCompletion 7 5 3) (onW 7 (inServ 5 0x0508))
    (fun t => ((flowOf (rnt t 7) 5).st, (flowOf (rnt t 7) 5).failCode)) = some (.failed, 0x0508) := by decide +kernel
theorem test_completion_counts : after (.engineCompletion 7 6 3) (onW 7 (inServ 6 0))
    (fun t => (findPass (rnt t 7) 1023 0xFFFF).map (·.counts)) = some (some [(0, 1)]) := by decide +kernel

/-- A plan with two layers on some wheels of one module. -/
def planOn (ws : List Nat) : Plan :=
  { image := 0, bytes := 0, hash := [], planId := 0, lmod := 0, nmod := 1, timeout := 0, features := 0
    wmap := (upto ws.length).map (fun k => (k, nth 0 ws k)), nodes := [], layers := [⟨false, [1, 1], []⟩, ⟨false, [1, 1], []⟩] }
def layerSt (ws : List Nat) : State :=
  { rntSt { passes := [{ ctx := 1023, iter := 0xFFFF, released := 0, counts := [(0, 1)] }] } with
    ctxs := [(1023, { st := .openC, plan := some (planOn ws) })] }

theorem wit_LayersAndRennetRegisters_report :
    let s := layerSt [4, 7]
    planOf s 1023 = some (planOn [4, 7]) ∧ layerDone s (planOn [4, 7]) 7 1023 0xFFFF 0 = true ∧
    (findPass (rnt s 7) 1023 0xFFFF).isSome = true ∧ 4 ∈ partWheels (planOn [4, 7]) ∧ (4 : Nat) ≠ 7 ∧
    (0xFFFF, 0, 4) ∉ (planOn [4, 7]).reports := by decide +kernel

theorem wit_LayersAndRennetRegisters_last :
    let s := layerSt [7]
    let p := planOn [7]
    planOf s 1023 = some p ∧ layerDone s p 7 1023 0xFFFF 0 = true ∧ (findPass (rnt s 7) 1023 0xFFFF).isSome = true ∧
    partWheels p = [7] ∧ p.nmod = 1 ∧ p.lmod = 0 ∧ p.reports = [] ∧ p.notices = [] ∧ recRoom s 1023 = true ∧
    (layerOf p 0).restart = false ∧ 0 + 1 < p.layers.length := by decide +kernel

theorem wit_LayersAndRennetRegisters_release :
    let s := { layerSt [7] with mesh := [.release 7 4 1023 0xFFFF 1] }
    s.mesh.find? (releaseFor s 7 1023 0xFFFF 1) = some (.release 7 4 1023 0xFFFF 1) ∧ (findPass (rnt s 7) 1023 0xFFFF).isSome = true := by decide +kernel

theorem wit_LayersAndRennetRegisters_registers :
    let s : State := { assign := [2, 2, 2, 2, 2, 2, 2, 1], ports := [(1, { accept := 8 })] }
    wheelVisible s 1 7 = true ∧ bitAt (portOf s 1).accept 3 = true := by decide +kernel

theorem test_trace_ring_size : after (.traceCtrlWrite 1 7 (BitVec.ofNat 32 (2 ^ 31 + 11)))
    { ports := [(1, { accept := 8 })] } (fun t => bitAt (regGet (rnt t 7).regs 0x028) 31) = some false := by decide +kernel

/-! ## The Mould and memory -/

/-- Two entries of share 0 that match the key 5, the second with more ones in its mask, and one of another key. -/
def mEnt (key mask : Nat) : MEntry :=
  { key := BitVec.ofNat 128 key, mask := BitVec.ofNat 128 mask, valid := true, ckey := BitVec.ofNat 128 key
    cmask := BitVec.ofNat 128 mask, cres := BitVec.ofNat 64 (100 * key) }
def mldSt (m : Mould) : State := onW 7 { mld := m }
def mould3 : Mould := { entries := [(0, mEnt 5 7), (3, mEnt 5 15), (767, mEnt 6 15)] }

theorem wit_MouldCommands_search :
    let m := (wheelOf (mldSt mould3) 7).mld
    (∀ p ∈ m.entries, inRanges (searchRanges m 0 1023) p.1 = true →
      p.2.parityBad = false ∧ p.2.poison = false ∧ p.2.copyBad = 0 ∧ p.2.ckey = p.2.key ∧ p.2.cmask = p.2.mask) ∧
    (m.entries.map (·.1)).Pairwise (· < ·) ∧
    ((3, mEnt 5 15) ∈ m.entries ∧ inRanges (searchRanges m 0 1023) 3 = true ∧ entryMatches 5 (mEnt 5 15) = true ∧
      ∀ p ∈ m.entries, inRanges (searchRanges m 0 1023) p.1 = true → entryMatches 5 p.2 = true →
        onesOf p.2.mask < onesOf (mEnt 5 15).mask ∨ (onesOf p.2.mask = onesOf (mEnt 5 15).mask ∧ 3 ≤ p.1)) ∧
    (∀ p ∈ m.entries, inRanges (searchRanges m 0 1023) p.1 = true → entryMatches 8 p.2 = false) := by decide +kernel

theorem wit_MouldCommands_updates :
    ((wheelOf (mldSt { mould3 with upds := [.unpoison 800] }) 7).mld.upds = .unpoison 800 :: []) ∧
    (let m := (wheelOf (mldSt { mould3 with upds := [.install 5 7 9 0 none], rr := 767, sweeps := [⟨1, 0, 0, none⟩] }) 7).mld
     m.upds = .install 5 7 9 m.swept none :: [] ∧ (∀ sw ∈ m.sweeps, sw.share ≠ 0) ∧ 0 < shareSize m 0) ∧
    ((wheelOf (mldSt { mould3 with sweeps := [⟨0, 5, 15, some (0, 512)⟩] }) 7).mld.sweeps = ⟨0, 5, 15, some (0, 512)⟩ :: []) ∧
    (let m := (wheelOf (mldSt { mould3 with scrub := 767 }) 7).mld
     m.upds = [] ∧ (mEntry m m.scrub).copyBad = 0) := by decide +kernel

theorem test_search_most_ones : after (.mouldSearch 7 0 1023 5) (mldSt mould3) (fun t => (wheelOf t 7).mld.resp) =
    some (some (.hit 3 500)) := by decide +kernel
theorem test_install_wraps : after (.mouldUpdate 7) (mldSt { rr := 767, upds := [.install 5 7 9 0 none] })
    (fun t => ((wheelOf t 7).mld.rr, (wheelOf t 7).mld.entries.map (·.1))) = some (0, [767]) := by decide +kernel

theorem wit_MemoryController : ∀ st ∈ [0, 3],
    let s := onW 7 { mem := { st := st, scrub := 64, bad := [(2, 1)] } }
    (wheelOf s 7).mem.st = st := by decide +kernel
theorem wit_MemoryController_scrub :
    let m := (wheelOf (onW 7 { mem := { st := 0, scrub := 64, bad := [(2, 1)] } }) 7).mem
    m.st = 0 ∧ sectorState m m.scrub = 1 := by decide +kernel

theorem test_scrub_wraps : after (.scrubSector 7) (onW 7 { mem := { st := 0, scrub := backedBytes {} - 32 } })
    (fun t => (wheelOf t 7).mem.scrub) = some 0 := by decide +kernel
theorem test_memory_access_fails : after (.memoryAccess 7 33 true 1 5) (onW 7 { mem := { st := 0 } })
    (fun t => ((wheelOf t 7).mem.crcFail.length, (wheelOf t 7).mem.cells)) = some (1, []) := by decide +kernel

/-! ## Host commands -/

/-- A command record: opcode, flags and parameters. -/
def rawOf (op : Nat) (ps : List Nat) : List Byte := takePadBytes 64 (leBytes 8 op ++ ps.flatMap (leBytes 8))
where takePadBytes (n : Nat) (bs : List Byte) : List Byte := bs.take n ++ List.replicate (n - bs.length) 0
def hcmd (op : Nat) (ps : List Nat) : HCmd := { seq := 0xFFFF, raw := rawOf op ps, order := 9 }

/-- An operand that names address `a` in the memory of port 1's host. -/
def hostOp (a : Nat) : Nat := 3 * 2 ^ 61 + a

/-- Context 1023 of port 1, with every feature accepted, a ring of 64 records of which 59 are in use at the end of a pass, and
one command. -/
def hostSt (c : Ctx) (wheels : List (Nat × Wheel)) (cells : List Host.Cell) (op : Nat) (ps : List Nat) : State :=
  { ctxs := [(1023, { c with st := .openC, owner := 1, base := 0x100000, log2 := 6, tail := 63, head := 4
                             cmds := [hcmd op ps] })]
    ports := [(1, { up := true, perst := false, accept := 0x3F })], hosts := [(1, { cells := cells })], wheels := wheels }

/-- The conditions of `CmdReady` and `RingReady`. -/
def readyB (s : State) (op : Nat) (h : HCmd) : Bool :=
  (ctxOf s 1023).cmds.all (fun k => !(rowless k) || !(startable s 1023 k)) && decide (findCmd s 1023 0xFFFF = some h) &&
    decide (cmdOp h = op) && !h.started && !h.taken && startable s 1023 h && decide (cmdCheck (startCmd s 1023 h) 1023 h = 0)
def ringB (s : State) (h : HCmd) : Bool :=
  !(cmdNocpl h) && (ctxOf s 1023).held.isEmpty && ringOpen s 1023 &&
    decide (((ctxOf s 1023).tail + 2 ^ 32 - (ctxOf s 1023).head) % 2 ^ 32 < 2 ^ (ctxOf s 1023).log2) && !(bitAt (ctxOf s 1023).irq 31)

theorem ready_of {s : State} {op : Nat} {h : HCmd} (e : readyB s op h = true) : CmdReady s 1023 0xFFFF op h := by
  simp only [readyB, Bool.and_eq_true, decide_eq_true_eq, Bool.not_eq_true', List.all_eq_true, Bool.or_eq_true] at e
  obtain ⟨⟨⟨⟨⟨⟨h1, h2⟩, h3⟩, h4⟩, h5⟩, h6⟩, h7⟩ := e
  refine ⟨fun k hk hr => ?_, h2, h3, h4, h5, h6, h7⟩
  cases h1 k hk with
  | inl h => rw [h] at hr; cases hr
  | inr h => exact h
theorem ring_of {s : State} {h : HCmd} (e : ringB s h = true) : RingReady s 1023 h := by
  simp only [ringB, Bool.and_eq_true, decide_eq_true_eq, Bool.not_eq_true', List.isEmpty_iff] at e
  obtain ⟨⟨⟨⟨h1, h2⟩, h3⟩, h4⟩, h5⟩ := e
  exact ⟨h1, h2, h3, h4, h5⟩

theorem wit_CommandsAndRecords_nop : RingReady (hostSt {} [] [] 0 []) 1023 (hcmd 0 []) ∧
    CmdReady (hostSt {} [] [] 0 []) 1023 0xFFFF 0x00 (hcmd 0 []) := ⟨ring_of (by decide +kernel), ready_of (by decide +kernel)⟩
theorem wit_CommandsAndRecords_fence : RingReady (hostSt {} [] [] 1 []) 1023 (hcmd 1 []) ∧
    CmdReady (hostSt {} [] [] 1 []) 1023 0xFFFF 0x01 (hcmd 1 []) ∧ earlierCmds (hostSt {} [] [] 1 []) 1023 (hcmd 1 []) = [] :=
  ⟨ring_of (by decide +kernel), ready_of (by decide +kernel), by decide +kernel⟩
theorem wit_CommandsAndRecords_reopen :
    let s := hostSt { plan := some (planOn [4, 7]) } [] [] 7 [0x8000]
    RingReady s 1023 (hcmd 7 [0x8000]) ∧ CmdReady s 1023 0xFFFF 0x07 (hcmd 7 [0x8000]) ∧ planOf s 1023 = some (planOn [4, 7]) :=
  ⟨ring_of (by decide +kernel), ready_of (by decide +kernel), by decide +kernel⟩
theorem wit_CommandsAndRecords_verify : RingReady (hostSt {} [] [] 0x10 []) 1023 (hcmd 0x10 []) ∧
    CmdReady (hostSt {} [] [] 0x10 []) 1023 0xFFFF 0x10 (hcmd 0x10 []) := ⟨ring_of (by decide +kernel), ready_of (by decide +kernel)⟩

/-- The record of the last place of the first pass: SEQ, and PHASE 1 in bit 0 of its first word (R531, R532). -/
theorem test_nop_record : after (.hostNop 1023 0xFFFF) (hostSt {} [] [] 0 [])
    (fun t => (leNat (rdMem 0 (hostOf t 1).cells (0x100000 + 32 * 63) 8) % 2, (ctxOf t 1023).tail)) = some (1, 64) := by decide +kernel

/-- A plan image of one logical wheel and one layer without operations, and its placement table on wheel 7. -/
def image1 : List Byte :=
  leBytes 4 0x4C50584F ++ leBytes 2 1 ++ leBytes 2 2 ++ leBytes 8 256 ++ leBytes 8 77 ++ leBytes 8 (1 * 2 ^ 16 + 1 * 2 ^ 32 + 1 * 2 ^ 48) ++
    leBytes 96 0 ++
    leBytes 4 (7 + 2 ^ 11) ++ leBytes 4 1 ++ leBytes 8 192 ++ leBytes 8 64 ++ leBytes 8 0 ++
    leBytes 4 (11 + 2 ^ 11) ++ leBytes 4 0 ++ leBytes 8 256 ++ leBytes 16 0 ++ leBytes 64 0
def table1 : List Byte := leBytes 8 (2 ^ 60 + 2 ^ 32) ++ leBytes 8 0xFFFFFFF7 ++ leBytes 16 0 ++ leBytes 2 0x8FFF ++ leBytes 30 0
def loadCells : List Host.Cell := wrMem 0 (wrMem 0 [] 0x1000 image1) 0x2000 table1
def loadSt : State := hostSt {} [] loadCells 2 [hostOp 0x1000, hostOp 0x2000]

def loadB : Bool :=
  let h := hcmd 2 [hostOp 0x1000, hostOp 0x2000]
  match loadChecks (startCmd loadSt 1023 h) 1023 (cmdP h 0) (cmdP h 1) with
  | (_, .ok m) => decide (m.wmap = [(0, 7)]) && decide (m.nodes = [0xFFF])
  | _ => false
theorem wit_PlanCommands_load : CmdReady loadSt 1023 0xFFFF 0x02 (hcmd 2 [hostOp 0x1000, hostOp 0x2000]) ∧ loadB = true :=
  ⟨ready_of (by decide +kernel), by decide +kernel⟩

theorem wit_PlanCommands_unload :
    let s := hostSt { plan := some (planOn [4, 7]) } [] [] 3 []
    CmdReady s 1023 0xFFFF 0x03 (hcmd 3 []) ∧ planOf s 1023 = some (planOn [4, 7]) ∧
      ctxQuiet (cancelCtx (startCmd s 1023 (hcmd 3 [])) 1023) 1023 = true :=
  ⟨ready_of (by decide +kernel), by decide +kernel, by decide +kernel⟩

def resumeP : Plan := { planOn [7] with nodes := [0xFFF], layers := [⟨true, [], []⟩, ⟨false, [], []⟩] }
theorem wit_PlanCommands_resume :
    let s := hostSt { plan := some resumeP } [] loadCells 4 [0xFFFF, hostOp 0x2000]
    let h := hcmd 4 [0xFFFF, hostOp 0x2000]
    CmdReady s 1023 0xFFFF 0x04 h ∧ planOf s 1023 = some resumeP ∧
      (resumePlan (startCmd s 1023 h) 1023 (bits (cmdP h 0) 15 0) (bits (cmdP h 0) 31 16) (cmdP h 1)).2 = 0 :=
  ⟨ready_of (by decide +kernel), by decide +kernel, by decide +kernel⟩

/-- An operation with one CMD slot. -/
def cmdOp1 : OpRec := { opCls 1 with slots := [0x4000] }
theorem wit_PlanCommands_submit :
    let s := hostSt { plan := some (planOn [7]) } [(7, { rnt := { ops := [cmdOp1], flows := flow5, passes := [{ ctx := 1023, iter := 0xFFFF, released := 0 }] } })]
      [] 5 [0xFFFF00FFFFFF]
    let h := hcmd 5 [0xFFFF00FFFFFF]
    CmdReady s 1023 0xFFFF 0x05 h ∧ (planOf s 1023 = some (planOn [7]) ∧ cmdPhys s 1023 h = some 7 ∧ reachCode s (fwWheel s 1023) 7 = 0 ∧
      findOp (rnt s 7) 1023 (bits (cmdP h 0) 23 0) = some cmdOp1 ∧ slotKind cmdOp1 (bits (cmdP h 0) 31 28) = 1 ∧
      operandCode (wheelOf s 7) cmdOp1 (bits (cmdP h 0) 47 32) (bits (cmdP h 0) 31 28) = 0 ∧ 7 ∈ partWheels (planOn [7]) ∧
      (∀ v ∈ partWheels (planOn [7]), (findPass (rnt s v) 1023 (bits (cmdP h 0) 47 32)).isSome) ∧
      bits (cmdP h 0) 31 28 ∉ (openInst (rnt s 7) cmdOp1 (bits (cmdP h 0) 47 32)).filled ∧ instRoom (rnt s 7) cmdOp1 = true) :=
  ⟨ready_of (by decide +kernel), by decide +kernel⟩

theorem wit_PlanCommands_cancel :
    let s := hostSt { plan := some (planOn [4, 7]) } [] [] 6 [0x8000]
    CmdReady s 1023 0xFFFF 0x06 (hcmd 6 [0x8000]) ∧ planOf s 1023 = some (planOn [4, 7]) :=
  ⟨ready_of (by decide +kernel), by decide +kernel⟩

/-! ### Cave, stream and context commands -/

def claimP : Plan := { planOn [7] with caveR := [(7, 0x3000, 64)], channels := [(7, 127)] }
def claimSt (op : Nat) (ps : List Nat) : State := hostSt { plan := some claimP } [] [] op ps

theorem wit_CaveStreamAndContextCommands_write :
    let h := hcmd 8 [hostOp 0x1000, 0x3000 * 256, 64]
    let s1 := startCmd (claimSt 8 [hostOp 0x1000, 0x3000 * 256, 64]) 1023 h
    CmdReady (claimSt 8 [hostOp 0x1000, 0x3000 * 256, 64]) 1023 0xFFFF 0x08 h ∧ caveOperand s1 1023 h = .ok (7, 0x3000, 64) ∧
      ∃ u bs, cmdRead s1 1023 (cmdP h 0) 64 = (u, .ok bs) ∧ bs.length = 64 :=
  ⟨ready_of (by decide +kernel), rfl, _, _, rfl, rdMem_length 0 _ _ _⟩

theorem wit_CaveStreamAndContextCommands_read :
    let h := hcmd (9 + 256) [hostOp 0x1000, 0x3000 * 256, 64]
    let s := claimSt (9 + 256) [hostOp 0x1000, 0x3000 * 256, 64]
    CmdReady s 1023 0xFFFF 0x09 h ∧ caveOperand (startCmd s 1023 h) 1023 h = .ok (7, 0x3000, 64) ∧
      (cmdNocpl h = true ∧ caveUncorr (wheelOf s 7) 0x3000 64 = false ∧ opSpace (cmdP h 0) = (ctxOf s 1023).owner + 2 ∧
        portReach s (ctxOf s 1023).owner = true) :=
  ⟨ready_of (by decide +kernel), rfl, by decide +kernel⟩

theorem wit_CaveStreamAndContextCommands_arm :
    let h := hcmd 0x0A [127 * 16 + 0x2000 * 2 ^ 16]
    let s := claimSt 0x0A [127 * 16 + 0x2000 * 2 ^ 16]
    CmdReady s 1023 0xFFFF 0x0A h ∧ planOf s 1023 = some claimP ∧ cmdPhys s 1023 h = some 7 ∧
      (7, bits (cmdP h 0) 10 4) ∈ claimP.channels :=
  ⟨ready_of (by decide +kernel), by decide +kernel, by decide +kernel, by decide +kernel⟩

def dripWords : List Nat := [2 ^ 60 + 2 ^ 58 + 3 * 2 ^ 56 + 64, 0x3000, 0x1000, 0, 0]
theorem wit_CaveStreamAndContextCommands_drip :
    let h := hcmd 0x0B dripWords
    let s := claimSt 0x0B dripWords
    let r := (h.raw.drop 8).take 32
    CmdReady s 1023 0xFFFF 0x0B h ∧ cmdPhys s 1023 h = some 7 ∧ dripSrcSpace r = 1 ∧
      caveClaimed s 1023 7 (dripSrc r) (max 1 (dripLen r)) = true :=
  ⟨ready_of (by decide +kernel), by decide +kernel, by decide +kernel, by decide +kernel⟩

def rootP0 : Nat := 2 ^ 63 + 9 * 2 ^ 48 + 7 * 2 ^ 37
theorem wit_CaveStreamAndContextCommands_root :
    let h := hcmd 0x0C [rootP0]
    let s := claimSt 0x0C [rootP0]
    CmdReady s 1023 0xFFFF 0x0C h ∧ rootOf s (cmdP h 0) = some (some (7 * 2 ^ 37, 9)) ∧ (wheelOf s 0).svc = .inService :=
  ⟨ready_of (by decide +kernel), by decide +kernel, by decide +kernel⟩
theorem wit_CaveStreamAndContextCommands_inval_close : CmdReady (claimSt 0x0D []) 1023 0xFFFF 0x0D (hcmd 0x0D []) ∧
    CmdReady (claimSt 0x0E []) 1023 0xFFFF 0x0E (hcmd 0x0E []) := ⟨ready_of (by decide +kernel), ready_of (by decide +kernel)⟩

theorem test_cave_write : after (.caveWrite 1023 0xFFFF) (hostSt { plan := some claimP } [] [(0x103F, 0xAB)] 8 [hostOp 0x1000, 0x3000 * 256, 64])
    (fun t => (wheelOf t 7).cave) = some [(0x303F, 0xAB)] := by decide +kernel

/-! ### Flash and the SEAL commands -/

theorem wit_FlashAndSealCommands_flash :
    let h := hcmd 0x0F [hostOp 0x1000, 0x1FFF000, 0x1000]
    let s := hostSt {} [] [] 0x0F [hostOp 0x1000, 0x1FFF000, 0x1000]
    CmdReady s 1023 0xFFFF 0x0F h ∧ s.cul.noFlash = false ∧
      ∃ u bs, flashSource (startCmd s 1023 h) 1023 h = (u, .ok bs) ∧ bs.length = 4096 :=
  ⟨ready_of (by decide +kernel), rfl, _, _, rfl, rdMem_length 0 _ _ _⟩

def sealSt (e : Seal) (cells : List Host.Cell) (fl : Nat) (ps : List Nat) : State :=
  { hostSt {} [] cells (0x11 + fl) ps with sea := e }

theorem wit_FlashAndSealCommands_nonce_table : ∀ k ∈ [1, 6],
    let s := sealSt {} [] 256 [k, hostOp 0x1000, 4096]
    let h := hcmd (0x11 + 256) [k, hostOp 0x1000, 4096]
    readyB s 0x11 h = true ∧ cmdP h 0 % 256 = k ∧ opSpace (cmdP h 1) = 1 + 2 ∧ portReach s 1 = true ∧ cmdNocpl h = true ∧
      (planTable (startCmd s 1023 h) 1).length ≤ cmdP h 2 := by decide +kernel

theorem wit_FlashAndSealCommands_advance_enroll : ∀ k ∈ [2, 4],
    let s := sealSt { lc := 1, ownerValid := 1, ownerRevoked := 2 } [] 0 [k, hostOp 0x1000]
    let h := hcmd 0x11 [k, hostOp 0x1000]
    readyB s 0x11 h = true ∧ cmdP h 0 % 256 = k ∧ s.sea.lc = 1 ∧ bitAt s.sea.ownerValid 2 = false ∧ bitAt s.sea.ownerRevoked 2 = false ∧
      (∀ j, j < 2 → bitAt s.sea.ownerValid j = true ∨ bitAt s.sea.ownerRevoked j = true) := by decide +kernel
theorem wit_FlashAndSealCommands_enroll_key :
    let h := hcmd 0x11 [4, hostOp 0x1000]
    ∃ u key, cmdRead (startCmd (sealSt { lc := 1 } [] 0 [4, hostOp 0x1000]) 1023 h) 1023 (cmdP h 1) 133 = (u, .ok key) := ⟨_, _, rfl⟩

/-- An owner key for which this digest is both halves of a signature: the key is the point of that x less the base point. -/
def keyOf (x y : Nat) : List Byte := 4 :: beBytes 66 x ++ beBytes 66 y
def sectionOf (key : List Byte) (z : Nat) : List Byte := keyId key ++ beBytes 66 z ++ beBytes 66 z ++ leBytes 20 0
def key5 : List Byte := keyOf
  0x6e37f03c79b02175e48f5228008f2d90892d8555667a966914135ec8175a3a70c7fe76e58d616c9182a80909ae1e223dc3d85d54919382f5fbfcc584efbbb0b91f
  0x185f67f32795de673561230116183300505ac5bee19e7bd3bc63c3e97ea5b4b10140165c193e01c9fdc1c8bdd444194dba39475bda0d03278e51fc7ce4166668f25
def z5 : Nat := 0xa0a3d1606791084c8aefbbfcdf110ed451416c804f970f8caade3023fda12a4ab785506c835ee27abe66d941d66c10b48e438c1f2cf62cbffe20259b6477d087
def key3 : List Byte := keyOf
  0x10a00289ae6be2322d9a27f345179b556438d82c855015f09c940bd8554191fc4ae84f903eeae568109dcb25a3ebe778675170249f89003299b4c9ec327286a8688
  0x1c13804fab0dccfaa1f34d6eda7d9de1d0415650e97f35e66a968cf30a49b2e1b03d178ae316ef5efc9dfc259ac1852ce0bba56a286d8e6b71d34a63abcd823f937
def z3 : Nat := 0xcad6ab3dd8d8de3ef3e1a643b43fd9bf0d91e1b8215c837e2ac2629b28ece800018d7c641bec1064a1bf36ed7f57619fcccc297884ee617ce015e8e676ef7c20

/-- The module in PRODUCTION with one owner key, a nonce of port 1, and an authorisation at 0x3000. -/
def authSt (key : List Byte) (z : Nat) (ps : List Nat) : State :=
  sealSt { lc := 1, ownerValid := 1, ownerKeys := [(0, key)], nonces := [(1, leBytes 32 1)] } (wrMem 0 [] 0x3000 (sectionOf key z)) 0 ps

theorem wit_FlashAndSealCommands_revoke :
    let s := authSt key5 z5 [5, 1, hostOp 0x3000]
    let h := hcmd 0x11 [5, 1, hostOp 0x3000]
    readyB s 0x11 h = true ∧ cmdP h 0 % 256 = 5 ∧ bitAt (cmdP h 1) 8 = false ∧ bits (cmdP h 1) 3 0 = 1 ∧ s.sea.lc = 1 ∧
      (authorise (startCmd s 1023 h) 1023 h 5 (leBytes 2 (cmdP h 1 % 2 ^ 16)) (ownerAuth (startCmd s 1023 h))).2 = 0 := by decide +kernel

theorem wit_FlashAndSealCommands_lc_change :
    let s := authSt key3 z3 [3, 2, hostOp 0x3000]
    let h := hcmd 0x11 [3, 2, hostOp 0x3000]
    readyB s 0x11 h = true ∧ cmdP h 0 % 256 = 3 ∧ s.sea.busy = false ∧ bits (cmdP h 1) 2 0 = 2 ∧ lcKeys s 2 = some (ownerAuth s) ∧
      (authorise (startCmd s 1023 h) 1023 h 3 (leBytes 1 2) (ownerAuth s)).2 = 0 ∧
      ∀ w, w < 8 → (wheelOf s w).svc = .inService := by decide +kernel

/-! ## Ports -/

/-- Port 1 with its link up, the completion feature and adoption accepted, a ring of 64 records staged, BAR4 window 15 on the
memory of wheel 7, and context 1023. -/
def portSt (c : Ctx) : State :=
  { ctxs := [(1023, c)]
    ports := [(1, { up := true, perst := false, accept := 0x3F
                    regs := [(0x00C, 0x15), (0x050, 0x200000), (0x058, 6), (0x0F8, BitVec.ofNat 64 (2 ^ 63 + 7 * 2 ^ 5))] })]
    wheels := [(7, { mem := { st := 0 } })], adoptMs := 1, cul := { step := 8 } }

theorem wit_ContextCommands_aperture :
    let s := portSt {}
    let a := portOf s 1
    a.up = true ∧ a.waits = [] ∧ ((findBuf a 1023 1023).getD ⟨1023, 1023, List.replicate 64 0, 0⟩).mask ≠ 255 ∧ a.bufs.length < 512 ∧
      63 + [(5 : Byte)].length ≤ 64 := by decide +kernel

def buf1 : RecBuf := ⟨1023, 1023, leBytes 56 0 ++ leBytes 4 0xC5 ++ leBytes 4 1023, 255⟩
theorem wit_ContextCommands_record :
    let s0 := portSt { st := .openC, owner := 1, nextSeq := 1023, taken := 1000 }
    let s := onPort s0 1 (fun a => { a with bufs := [buf1] })
    let c := ctxOf s 1023
    findBuf (portOf s 1) 1023 1023 = some buf1 ∧ buf1.mask = 255 ∧ (portOf s 1).waits = [] ∧ c.st = .openC ∧ c.owner = 1 ∧
    leAt buf1.bytes 0x38 1 = 0xC5 ∧ leAt buf1.bytes 0x3C 4 = c.nextSeq ∧ c.nextSeq % 1024 = 1023 ∧
    (c.nextSeq + 2 ^ 32 - c.taken) % 2 ^ 32 < 64 := by decide +kernel

theorem wit_ContextCommands_open_adopt : ∀ st ∈ [CtxSt.free, CtxSt.orphaned],
    let s := portSt { st := st, owner := 0 }
    (ctxOf s 1023).st = st ∧ bitAt (portOf s 1).accept 0 = true ∧ ringStaged (portOf s 1) = true ∧ adoptOn s = true ∧
    bitAt (portOf s 1).accept 1 = true ∧ (ctxOf s 1023).plan = none := by decide +kernel

def heldRec : Cpl := { kind := 4, code := 0x0508 }
theorem wit_ContextCommands_ring : ∀ held ∈ [[], [heldRec]],
    let s := portSt { st := .openC, owner := 1, base := 0x200000, log2 := 6, head := 4, tail := 68, held := held }
    let c := ctxOf s 1023
    let word : Word := 5
    c.st = .openC ∧ c.owner = 1 ∧ c.plan = none ∧ c.log2 ≤ 16 ∧ (c.tail + 2 ^ 32 - word.toNat) % 2 ^ 32 < 2 ^ c.log2 ∧
    c.held = held ∧ ringOpen s 1023 = true := by decide +kernel

theorem wit_ContextCommands_timer :
    let s := portSt { st := .openC, owner := 1, irq := 2 ^ 31 + 2047, since := 1 }
    bitAt (ctxOf s 1023).irq 31 = true ∧ 0 < (ctxOf s 1023).since ∧ (ctxOf s 1023).st ≠ .free ∧
      bits (ctxOf s 1023).irq 10 0 = 2047 := by decide +kernel

theorem wit_PortEvents :
    let s := portSt { st := .orphaned, owner := 1 }
    (portOf s 1).up = true ∧ (ctxOf s 1023).st = .orphaned ∧ (portOf s 1).perst = false ∧ linksAlive s = true ∧
    ownedBy (portSt {}) 1 = [] := by decide +kernel

theorem wit_AccessesFromThePorts_bar4 :
    let s := portSt {}
    let off := 15 * 2 ^ 32 + 4095
    bar4Addr s 1 off 1 = some (7 * 2 ^ 37 + 4095) ∧ 1 ≤ 4096 - off % 4096 ∧ off + 1 ≤ 2 ^ 36 ∧ (portOf s 1).up = true ∧
    ∀ q ∈ sectorsOf (paOff (7 * 2 ^ 37 + 4095)) 1, sectorState (wheelOf s 7).mem q ≠ 2 ∧ q ∉ (wheelOf s 7).mem.crcFail := by
  decide +kernel

theorem wit_AccessesFromThePorts_registers :
    let s := portSt {}
    bar0Open s 1 = true ∧ winVisible s 1 .port = true ∧ windowOf 0x00C = (.port, 0x00C) ∧ windowOf 0x050 = (.port, 0x050) ∧
    winWide .port 0x050 = true := by decide +kernel

theorem test_error_bits_clear : after (.registerWrite 1 0x00C 0x11 0) (portSt {}) (fun t => regGet (portOf t 1).regs 0x00C) = some 4 := by
  decide +kernel

theorem wit_AccessesFromThePorts_stream_timeout :
    let s := { portSt {} with wheels := [(7, setChan {} 127 { st := .run, own := some own5, src := leBytes 8 (2 ^ 60 + 3 * 2 ^ 25) })] }
    readsHost s (chOf s ((7 * 128 + 127) / 128) ((7 * 128 + 127) % 128)) 1 = true := by decide +kernel

theorem wit_AccessesFromThePorts_command_timeout :
    let s := claimSt 8 [hostOp 0x1000, 0x3000 * 256, 64]
    let h := hcmd 8 [hostOp 0x1000, 0x3000 * 256, 64]
    findCmd s 1023 0xFFFF = some h ∧ startable s 1023 h = true ∧ h.started = false ∧ h.taken = false ∧ (ctxOf s 1023).owner = 1 ∧
    cmdReadsHost h 1 = true ∧ cmdCheck (startCmd s 1023 h) 1023 h = 0 ∧ ringB s h = true := by decide +kernel

/-! ## Timers, resets and recovery -/

def timerSt (x : Wheel) : State :=
  { ctxs := [(1023, { st := .openC, owner := 1, plan := some (planOn [4, 7]), submits := [{ seq := 9, iter := 0xFFFF }] })]
    wheels := [(7, { x with rnt := { x.rnt with passes := [{ ctx := 1023, iter := 0xFFFF, released := 0 }] } })] }

/-- A press of wheel 7 that runs the instance, or nothing that runs. -/
def busyX : Wheel := setEng { rnt := { ops := [opCls 2], flows := flow5, insts := [{ inst3 with st := .service ⟨2, 3⟩ 9 }] } } ⟨2, 3⟩
  { st := .run, op := some opv }

theorem wit_TimersAndEngineRecovery_submit : ∀ busy ∈ [true, false],
    let s := timerSt (if busy then busyX else {})
    (ctxOf s 1023).submits.find? (fun q => q.seq == 9) = some { seq := 9, iter := 0xFFFF } ∧ planOf s 1023 = some (planOn [4, 7]) ∧
    s.rst.replays = [] ∧ passOpen s (planOn [4, 7]) 1023 0xFFFF = true ∧ s.outOfService = false ∧
    ((partWheels (planOn [4, 7])).flatMap (fun v =>
      (busyUnits (wheelOf s v) (fun i => i.ctx == 1023 && i.iter == 0xFFFF)).map (fun u => (v, u)))) =
      (if busy then [(7, ⟨2, 3⟩)] else []) := by decide +kernel

theorem wit_TimersAndEngineRecovery_command : ∀ op ∈ [0x00, 0x01, 0x02, 0x04, 0x10, 0x11],
    let s := hostSt { plan := some resumeP } [] [] op []
    let h := hcmd op []
    findCmd s 1023 0xFFFF = some h ∧ timersHeld s 1023 = false ∧ h.started = false ∧ h.taken = false ∧ startable s 1023 h = true ∧
    cmdCheck (startCmd s 1023 h) 1023 h = 0 ∧ cmdOp h = op ∧ ringB s h = true := by decide +kernel

theorem wit_TimersAndEngineRecovery_cave_write :
    let h := hcmd 8 [hostOp 0x1000, 0x3000 * 256, 64]
    let s := claimSt 8 [hostOp 0x1000, 0x3000 * 256, 64]
    findCmd s 1023 0xFFFF = some h ∧ timersHeld s 1023 = false ∧ startable s 1023 h = true ∧ cmdCheck (startCmd s 1023 h) 1023 h = 0 ∧
    cmdOp h = 8 ∧ caveOperand s 1023 h = .ok (7, 0x3000, 64) ∧
      ∃ u bs, cmdRead (rstBump (startCmd s 1023 h) 0) 1023 (cmdP h 0) 64 = (u, .ok bs) :=
  ⟨by decide +kernel, by decide +kernel, by decide +kernel, by decide +kernel, by decide +kernel, rfl, _, _, rfl⟩

def fence1 (noReplay : Bool) : Fence := ⟨7, ⟨2, 3⟩, 0x0B01, 1023, 9, noReplay, 0x0B02⟩
theorem wit_TimersAndEngineRecovery_drain : ∀ nr ∈ [true, false],
    let s := { timerSt busyX with rst := { fences := [fence1 nr] } }
    let i := { inst3 with st := .service ⟨2, 3⟩ 9 }
    s.rst.fences = [fence1 nr] ∧ (fence1 nr).wheel = 7 ∧ serviceOn (wheelOf s 7) ⟨2, 3⟩ = some i ∧
    findOp (rnt s 7) i.ctx i.opid = some (opCls 2) ∧ findInst (rnt s 7) i.ctx i.opid i.iter = some i ∧ (fence1 nr).lost ≠ 0 ∧
    (fence1 nr).lost ≠ 0x0701 ∧ (flowOf (rnt s 7) 5).st = .openF ∧ (fence1 nr).noReplay = nr ∧
    (engOf (wheelOf s 7) ⟨2, 3⟩).irrev = false := by decide +kernel

theorem wit_TimersAndEngineRecovery_rewrite : ({ rst := { rewrites := [⟨7, 31⟩] } } : State).rst.rewrites.contains ⟨7, 31⟩ = true := by
  decide +kernel

theorem wit_TimersAndEngineRecovery_replay :
    let r : Replay := { ctx := 1023, wheel := 7, opid := 0xFFFFFF, iter := 0xFFFF, unit := ⟨2, 3⟩, seq := 9 }
    let i := { inst3 with replay := true }
    let s := { onW 7 { rnt := { ops := [opCls 2], flows := flow5, insts := [i] } } with rst := { replays := [r] } }
    s.rst.replays = [r] ∧ r.running = false ∧ unitIdle (wheelOf s 7) r.unit = true ∧
    findInst (rnt s 7) r.ctx r.opid r.iter = some i ∧ findOp (rnt s 7) r.ctx r.opid = some (opCls 2) ∧ (opCls 2).cls = r.unit.cls ∧
    recordOk (wheelOf s 7) (opCls 2) = true := by decide +kernel

theorem wit_WheelAndDieResets_wheel :
    let s : State := { rst := { wheels := [(7, 0x0B09)] }
                       wheels := [(6, {}), (7, { svc := .resetting, mem := { st := 3 } }), (5, { svc := .resetting, mem := { st := 1 } })] }
    (wheelOf s 6).svc = .inService ∧ s.outOfService = false ∧ s.rst.wheels.find? (fun q => q.1 == 7) = some (7, 0x0B09) ∧
    (wheelOf s 7).mem.st = 3 ∧ (wheelOf s 7).mem.resetReq = false ∧ (∀ q ∈ s.rst.dies, q.1 ≠ 1) := by decide +kernel
theorem wit_WheelAndDieResets_complete :
    let s : State := { rst := { wheels := [(7, 0x0B09)] }, wheels := [(7, { svc := .resetting, mem := { st := 1 } })] }
    (∃ q ∈ s.rst.wheels, q.1 = 7) ∧ (wheelOf s 7).mem.st = 1 ∧ (∀ q ∈ s.rst.dies, q.1 ≠ 1) := by decide +kernel
theorem wit_WheelAndDieResets_core :
    let s := portSt {}
    s.outOfService = false ∧ (∀ q ∈ s.rst.dies, q.1 ≠ 1) ∧ (portOf s 1).up = true := by decide +kernel
theorem wit_WheelAndDieResets_die :
    (({ rst := { dies := [(1, 0x0B09)] } } : State).rst.dies.find? (fun q => q.1 == 1)) = some (1, 0x0B09) := by decide +kernel
theorem wit_WheelAndDieResets_overrun :
    let a : State := { rst := { dies := [(1, 0x0B09)] } }
    let b : State := { rst := { wheels := [(7, 0x0B09)] } }
    let c : State := { rst := { fences := [fence1 true] } }
    (a.outOfService = false ∧ ∃ q ∈ a.rst.dies, q.1 = 7 / 4) ∧
    ((∀ q ∈ b.rst.dies, q.1 ≠ 7 / 4) ∧ ∃ q ∈ b.rst.wheels, q.1 = 7) ∧
    ((∀ q ∈ c.rst.dies, q.1 ≠ 7 / 4) ∧ (∀ q ∈ c.rst.wheels, q.1 ≠ 7) ∧ (∃ f ∈ c.rst.fences, f.wheel = 7) ∧
      (wheelOf c 7).svc = .inService) := by decide +kernel
theorem wit_WheelAndDieResets_trier :
    let s : State := { rst := { trier := [(15, bareSample 2 0 7 1 0 0x0B09)], sel := 2 ^ 31 + 7 * 2 ^ 24 + (2 ^ 18 - 8) } }
    bitAt ((BitVec.ofNat 32 (2 ^ 31 + 15) : Word)).toNat 31 = true ∧
    s.rst.trier.find? (fun e => e.1 == 8 * bits s.rst.sel 31 31 + bits s.rst.sel 26 24) = some (15, bareSample 2 0 7 1 0 0x0B09) := by
  decide +kernel

theorem test_trier_offset_wraps :
    after .trierDataRead { rst := { trier := [(15, bareSample 2 0 7 1 0 0x0B09)], sel := 2 ^ 31 + 7 * 2 ^ 24 + (2 ^ 18 - 8) } }
      (fun t => bits t.rst.sel 17 0) = some 0 := by decide +kernel
theorem test_watchdog_rind : after (.wheelWatchdogExpiry 7) (onW 7 { vats := [(31, runs 0 regs0)], mem := { st := 0 } })
    (fun t => ((wheelOf t 7).svc, (vatAt t 7 31).st, (wheelOf t 7).mem.st)) = some (.resetting, .fenced, 3) := by decide +kernel

/-! ## The start of the module -/

theorem wit_StartAndModuleReset_stops :
    let go := fun (s : State) => s.pwr.hold = false ∧ s.cul.step = 1 ∧ s.recovery = false
    (({ pwr := { hold := true } } : State).pwr.hold = true) ∧ (go { sea := { lc := 4, noSecret := true } }) ∧ (go {} ∧ ({} : State).sea.lc ≠ 4) ∧
    (({} : State).cul.noFlash = false ∧ (fwCheck {}).code ≠ 0) := by decide +kernel

theorem sectionVerifies_head {k : List Byte × List Byte} {ks : List (List Byte × List Byte)} {msg sec : List Byte}
    (h : sectionVerifies [k] msg sec = true) : sectionVerifies (k :: ks) msg sec = true := by
  simp only [sectionVerifies, List.any_cons, List.any_nil, Bool.or_false, Bool.and_eq_true, Bool.or_eq_true] at h ⊢
  exact ⟨h.1, .inl h.2⟩

theorem imageCheck_code {s : State} {base region magic lo hi bad svn n sig : Nat} {keys : List (List Byte × List Byte)}
    {more : List (Nat × Bool)} {b : List Byte} (h0 : s.cul.noFlash = false)
    (h1 : firstFailing (headChecks (flashRead s base 64) magic lo hi ++ more) = none)
    (hn : leAt (flashRead s base 64) 8 4 = n) (hr : min region n = n) (h2 : flashRead s base n = b)
    (h3 : leAt (flashRead s base 64) 0x20 4 = sig)
    (h4 : sectionVerifies keys (b.take sig) (b.drop sig) = true) (h5 : ¬ leAt (flashRead s base 64) 0x18 4 < svn) :
    (imageCheck s base region magic lo hi bad svn keys more).code = 0 := by
  simp only [imageCheck, h0, h1, hn, hr, h2, h3, h4, h5, Bool.not_true, Bool.false_eq_true, ite_false]

/-- A firmware image of 512 bytes signed by ROM key 0, and a culture image of 704 bytes signed by the owner; as above, their
digests are both halves of the signatures. -/
def keyF : List Byte := keyOf
  0x8569742ad9172b1ada151a49970d98249369377d5d0f67e5a7dcd10b348e6ebdb44b6a0aec7d1efba56bb0d56b812cf0b186f330dfb61316a592cc8923eb991fc3
  0x1a0606de8226ecdfc6d4619ccebcdc44eed4b79127ab847db67505b878ce7ac85a289de5d57195a6195a37a0c6273ed9d10451a84435b560578dcdbca0b578b0aca
def zF : Nat := 0xd4940ae656c15c458efe86b77dd6e97e1f873657bcfcb7e95d68490083301c38098ea5a70d19faf968a1ab25577a31563459d29b7ff04982900860f378ce1965
def keyC : List Byte := keyOf
  0x4761068916d7bed7cf4a566f3dae52e2709c45dc3f487f43a3dc9c652a180040177aea1566e23fd4d7be85b0c5cecb6113e9d0b550ca939a7ba6eb44e356fcab04
  0xc94b247f52cc527c1d102f829956896e79fafc04b28d0a3cf5ac9f7796a4484a48d8cdb0421b1ef134fe6395b5fa851b033bbe6472e160d420301022ff880f8b3f
def zC : Nat := 0x3b06c27f57bceeedbeea914a074abb71ea18b6ced7d6eaa6377bc6ffbddf18c4a78ad756c2084a8c6838ba54ab17351228de2c636490703ad33a7d33c74fb5e2
def fieldsNum (fs : List (Nat × Nat)) : Nat := fs.foldl (fun n f => n + f.2 * 2 ^ (8 * f.1)) 0
def firmware1 : List Byte :=
  leBytes 352 (fieldsNum [(0, 0x5746584F), (4, 1), (8, 512), (0x18, 5), (0x20, 352), (0x40, 1)]) ++ sectionOf keyF zF
def culture1 : List Byte :=
  leBytes 544 (fieldsNum ([(0, 0x5543584F), (4, 1), (8, 704), (0x18, 1), (0x20, 544), (0x48, 0x10101), (0x50, 100), (0x54, 5 + 300 * 2 ^ 16),
    (0xA0, 1024 * 2 ^ 16), (0xA4, 0x10001), (0xA8, 0x1000001), (0xAC, 100)] ++ (upto 8).map (fun j => (0x60 + 8 * j, 2048)))) ++ sectionOf keyC zC

def startSt (fw : List Byte) : State :=
  { sea := { lc := 2, ownerValid := 1, ownerKeys := [(0, keyC)] }
    cul := { flash := wrMem 0xFF (wrMem 0xFF [] 0 fw) culBase culture1 } }

theorem firmware_head : firstFailing (headChecks (flashRead (startSt firmware1) fwBase 64) 0x5746584F 512 33554432 ++
    [(0x0C, zeroAt (flashRead (startSt firmware1) fwBase 64) 0x0C 12), (0x1C, zeroAt (flashRead (startSt firmware1) fwBase 64) 0x1C 4),
     (0x24, zeroAt (flashRead (startSt firmware1) fwBase 64) 0x24 28)]) = none := by decide +kernel
theorem firmware_length : leAt (flashRead (startSt firmware1) fwBase 64) 8 4 = 512 := by decide +kernel
theorem firmware_read : flashRead (startSt firmware1) fwBase 512 = firmware1 := by decide +kernel
theorem firmware_sig : leAt (flashRead (startSt firmware1) fwBase 64) 0x20 4 = 352 := by decide +kernel
theorem firmware_signed : sectionVerifies [named keyF] (firmware1.take 352) (firmware1.drop 352) = true := by decide +kernel

theorem firmware_keys (s : State) (h1 : s.sea.lc = 2) (h2 : s.sea.fwRevoked = 0) (h : romKeyBytes 0 = keyF) :
    ∃ ks, fwKeys s = named keyF :: ks := by
  refine ⟨[named (romKeyBytes 1), named (romKeyBytes 2), named (romKeyBytes 3)], ?_⟩
  unfold fwKeys
  rw [h1, h2, ← h]
  rfl

theorem firmware_good {s : State} (h1 : s.sea.lc = 2) (h2 : s.sea.fwRevoked = 0) (h3 : s.sea.fwSvn = 0) (h4 : s.cul.noFlash = false)
    (h5 : s.cul.flash = (startSt firmware1).cul.flash) (h : romKeyBytes 0 = keyF) : (fwCheck s).code = 0 := by
  obtain ⟨ks, hk⟩ := firmware_keys s h1 h2 h
  have hf : ∀ a n, flashRead s a n = flashRead (startSt firmware1) a n := fun a n => by unfold flashRead; rw [h5]
  unfold fwCheck
  refine imageCheck_code (n := 512) (sig := 352) (b := firmware1) h4 ?_ ?_ rfl ?_ ?_ ?_ ?_
  · rw [hf]; exact firmware_head
  · rw [hf]; exact firmware_length
  · rw [hf]; exact firmware_read
  · rw [hf]; exact firmware_sig
  · rw [hk]; exact sectionVerifies_head firmware_signed
  · rw [h3]; exact Nat.not_lt_zero _

/-- With this public key as key 0 of the boot ROM, both images are good; the culture image is not once its key is revoked. -/
theorem wit_StartAndModuleReset_good (h : romKeyBytes 0 = keyF) : (fwCheck (startSt firmware1)).code = 0 :=
  firmware_good rfl rfl rfl rfl rfl h
theorem wit_StartAndModuleReset_good_culture : (culCheck (startSt firmware1)).code = 0 := by decide +kernel

theorem wit_StartAndModuleReset_bad_culture (h : romKeyBytes 0 = keyF) :
    (fwCheck { startSt firmware1 with sea := { lc := 2, ownerValid := 1, ownerRevoked := 1, ownerKeys := [(0, keyC)] } }).code = 0 :=
  firmware_good rfl rfl rfl rfl rfl h
theorem wit_StartAndModuleReset_bad_culture_code :
    (culCheck { startSt firmware1 with sea := { lc := 2, ownerValid := 1, ownerRevoked := 1, ownerKeys := [(0, keyC)] } }).code = 0x0D01 := by
  decide +kernel

theorem wit_StartAndModuleReset_rest :
    let rst : Word := BitVec.ofNat 32 (2 ^ 31 + 0x5A5A)
    (bitAt rst.toNat 31 = true ∧ rst.toNat % 2 ^ 16 = 0x5A5A ∧ ({} : State).pwr.off = false) ∧
    (let s : State := { cul := { step := 7 } }
     s.cul.node = false ∧ 6 < s.cul.step ∧ (0xFFE : Word).toNat % 2 ^ 12 ≠ 0xFFF) ∧
    (({} : State).cul.alert = false ∧ ({ cul := { alert := true } } : State).cul.alert = true) := by decide +kernel

/-! ## The management bus -/

def busSt (da : Option Nat) : State := { cul := { step := 7, da := da, events := 8, hotJoin := da.isNone, mrl := 64 }, serial := 0x00092C17 }
theorem wit_ManagementBusCodes : ∀ da ∈ [none, some 9],
    let s := busSt da
    i3cAwake s = true ∧ s.cul.busFault = false ∧ s.cul.da = da ∧ bitAt s.cul.events 3 = true ∧ s.cul.hotJoin = da.isNone ∧
      s.pwr.off = false := by decide +kernel
theorem wit_PrivateTransfers :
    let s := busSt (some 9)
    (i3cAwake s = true ∧ s.cul.busFault = false) ∧ s.cul.da.isSome = true ∧ 4 ≤ s.cul.mrl ∧ s.cul.node = false ∧ 6 < s.cul.step ∧
    winWide (mgmtWin s.cul.addr).1 ((mgmtWin s.cul.addr).2 / 8 * 8) = false ∧ ({ busSt (some 9) with cul := { mrl := 3 } } : State).cul.mrl / 4 = 0 := by
  decide +kernel

/-- The worked example of R638: the arbitration word of a module whose serial number ends in 0x00092C17. -/
theorem test_arbitration_word : after (.entdaa 9 true) (busSt none) (fun t => (t.out, t.cul.da)) =
    some ([.i3c 1 (beBytes 8 0x034F00092C170E00)], some 9) := by decide +kernel
theorem test_status_read_releases_alert : after .culStatusRead { busSt (some 9) with cul := { (busSt (some 9)).cul with alert := true } }
    (fun t => (t.cul.alert, t.cul.addr)) = some (false, 8) := by decide +kernel

/-! ## The mailboxes -/

def mailSt (sp : Spdm) : State := { ports := [(1, { up := true, perst := false })], cul := { step := 8 }, sea := { lc := 1, spdm := [(1, sp)] } }
def mailB (s : State) (code : Nat) (q : List Byte) : Bool :=
  (portOf s 1).up && decide (8 ≤ s.cul.step) && decide (0 ∉ s.dieDown) && !s.sea.busy && decide (4 ≤ q.length) && decide (q.length ≤ 4096) &&
    decide (reqAt q 1 1 = code)
theorem mail_of {s : State} {code : Nat} {q : List Byte} (h : mailB s code q = true) : MailReady s 1 code q := by
  simp only [mailB, Bool.and_eq_true, decide_eq_true_eq, Bool.not_eq_true'] at h
  obtain ⟨⟨⟨⟨⟨⟨h1, h2⟩, h3⟩, h4⟩, h5⟩, h6⟩, h7⟩ := h
  exact ⟨h1, .inl h2, h3, h4, h5, h6, h7⟩

/-- Requests of 40 bytes by code, with the first parameters 0 and 1. -/
def req1 (ver code : Nat) : List Byte := leBytes 1 ver ++ leBytes 1 code ++ leBytes 1 0 ++ leBytes 1 1 ++ leBytes 36 0

theorem wit_MailboxRequests : ∀ c ∈ [(0x84, 0x10, 0), (0xE1, 0x12, 1), (0xE3, 0x12, 2), (0x81, 0x12, 3), (0x82, 0x12, 3), (0x83, 0x12, 3),
    (0xE0, 0x12, 3), (0xFF, 0x12, 3)],
    let s := mailSt { phase := c.2.2, selected := c.2.2 == 3, meas := c.2.2 == 3, ready := some (1, [5]) }
    let q := req1 c.2.1 c.1
    mailB s c.1 q = true ∧ reqAt q 0 1 = c.2.1 ∧ (spdmOf s 1).phase = c.2.2 ∧ (spdmOf s 1).selected = decide (c.2.2 = 3) ∧
    (spdmOf s 1).meas = decide (c.2.2 = 3) ∧
    (spdmOf s 1).ready = some (reqAt q 3 1, [5]) ∧ reqAt q 2 1 = 0 ∧ 37 ≤ q.length ∧ reqAt q 36 1 % 16 = 0 := by decide +kernel
theorem wit_MailboxRequests_certificate : reqAt (req1 0x12 0x82) 4 2 < (certChain (mailSt {})).length := by
  have h : (certChain (mailSt {})).length = 2 + 2 + 64 +
      (Config.certificates false 0 false [] []).length := by
    simp only [certChain, List.length_append, leBytes_length]; rfl
  have q : reqAt (req1 0x12 0x82) 4 2 = 0 := by decide +kernel
  omega
theorem wit_MailboxRequests_unselected : ¬ ((spdmOf (mailSt { phase := 3 }) 1).phase = 3 ∧ (spdmOf (mailSt { phase := 3 }) 1).selected = true) := by
  decide +kernel
theorem wit_MailboxRequests_busy :
    let s := { mailSt { phase := 3, selected := true } with sea := { lc := 1, busy := true, target := 2 } }
    mailB { s with sea := { s.sea with busy := false } } 0x83 (req1 0x12 0x83) = true ∧ s.sea.busy = true := by decide +kernel

theorem test_version : after (.getVersion 1 (req1 0x10 0x84) false) (mailSt {}) (fun t => t.out) =
    some [.doe 1 [0x10, 0x04, 0, 0, 0, 1, 0x00, 0x12]] := by decide +kernel

/-! ## Power and clocks -/

def sampleOf (vin iin : Nat) (t : Int) : PSample := ⟨vin, iin, t, t, 0⟩
/-- One interval's samples against a limit of 400 W: above it, below 95 % of it and cool, and hot. -/
def pwrSt (qs : List PSample) (p : Pwr) (cap : Nat) : State :=
  { pwr := { p with samples := qs, regs := [(0x008, 400)] }, clks := [(0, { cap := cap }), (1, { cap := cap })] }

theorem wit_PowerLimiting :
    let cold := fun (s : State) => powerLimit s * 10000 * s.pwr.samples.length < (s.pwr.samples.map (fun q => q.vin * q.iin)).sum
    let excess := pwrSt [sampleOf 4800 834 0] { } 8
    let hot := pwrSt [sampleOf 4800 100 1001] { } 16
    let calm := pwrSt [sampleOf 4800 100 950] { calm := 9 } 16
    let few := pwrSt [sampleOf 4800 100 950] { calm := 8 } 8
    let mid := pwrSt [sampleOf 4800 100 951] { calm := 9 } 8
    cold excess ∧ ¬ cold hot ∧ ¬ cold calm ∧ ¬ cold few ∧ ¬ cold mid ∧
    (∀ s ∈ [excess, hot, calm, few, mid], s.pwr.off = false ∧ s.pwr.samples ≠ [] ∧ powerLimit s = 400) ∧
    (∃ q ∈ hot.pwr.samples, 1000 < q.die0) ∧ (∀ s ∈ [calm, few, mid], ∀ q ∈ s.pwr.samples, q.die0 ≤ 1000 ∧ q.gddr ≤ 900) ∧
    (∀ s ∈ [calm, few], ∀ q ∈ s.pwr.samples, q.die0 ≤ 950 ∧ q.vin * q.iin * 100 < powerLimit s * 950000) ∧
    (∃ q ∈ mid.pwr.samples, 950 < q.die0) ∧ calm.pwr.sensor = false := by decide +kernel

theorem wit_PowerLimiting_alarms : ∀ n ∈ [99, 100],
    let s := pwrSt [] { alarmRun := n, thermRun := n } 8
    s.pwr.off = false ∧ s.pwr.alarm = false ∧ s.pwr.thermal = false ∧ (100 ≤ s.pwr.alarmRun ↔ n = 100) := by decide +kernel

/-- The means are not lowered by an open value: CAP after an interval above the limit. -/
theorem test_cap_lowered :
    (nextCap (pwrSt [sampleOf 4800 834 0] {} 16).pwr 400 16).1 = 15 ∧ (nextCap (pwrSt [sampleOf 4800 834 0] {} 8).pwr 400 8).1 = 8 := by
  decide +kernel

theorem wit_Shutdowns : ∀ n ∈ [9, 10],
    let s : State := { pwr := { hotRun := n } }
    s.pwr.off = false ∧ (10 ≤ s.pwr.hotRun ↔ n = 10) ∧ ({ pwr := { off := true } } : State).pwr.off = true := by decide +kernel
theorem test_rail_fault : after (.railFault 7) {} (fun t => (t.pwr.lastFault, t.pwr.hold)) = some (0x80070F04, true) := by decide +kernel

theorem wit_ClockIslands :
    let s : State := { clks := [(1, { absent := [5], held := [238], need := [(238, 40)] })] }
    let c := clkOf s 1
    ((238 : Fin 256).val < 239 ∧ 238 ∉ c.absent) ∧ 5 ∈ c.absent ∧ 20 < tget 0 c.need 238 ∧ 238 ∈ c.held ∧ 237 ∉ c.held ∧
    domainBack s 1 246 = true ∧ domainBack { s with dieDown := [1] } 1 246 = false := by decide +kernel
theorem test_droop_stretch : after (.supplyDroop 1 238 33) {} (fun t => (islandPeriod (clkOf t 1) 238, (clkOf t 1).held)) = some (32, [238]) := by
  decide +kernel

/-! ## The Creamery -/

def upPort : EPort := { link := true }
def crmSt (c : Crm) : State := { node := 5, crm := { c with ports := [(1, upPort)] } }
/-- A culture whose byte at 0xA0 says IPv6. -/
def cul6 : List Byte := List.replicate 0xA0 0 ++ [4]

theorem wit_LinksAndNeighbours :
    let s := crmSt {}
    let s6 := { s with culture := cul6 }
    1 < ePorts s ∧ 1 < ePorts s6 ∧ (ePort s 1).link = true ∧ (ePort s6 1).link = true ∧ ipv6 s = false ∧ ipv6 s6 = true ∧
    ownAddr s 1 5 = true ∧ ownAddr s6 1 5 = true ∧ ownAddr s 1 6 = false ∧ 1 < ePorts { s with crm := {} } ∧
    (ePort { s with crm := {} } 1).link = false ∧ (ePort s 1).wait = [] := by decide +kernel

/-- A port that is down with a frame that waits for a next hop it holds. -/
theorem wit_LinksAndNeighbours_waiting :
    let s : State := { node := 5, crm := { ports := [(1, { neigh := [(6, 9)], wait := [(6, frameOf {} 1 6 0 { type := 2, src := 5, dst := 6, ctx := 0 } [])] })] } }
    1 < ePorts s ∧ (ePort s 1).link = false ∧ (ePort s 1).wait = [(6, frameOf {} 1 6 0 { type := 2, src := 5, dst := 6, ctx := 0 } [])] ∧ hopMac s 1 6 = some 9 := by decide +kernel

theorem test_arp_answer : after (.arpRequest 1 5 0x01020304) (crmSt {}) (fun t => t.out) = some [.frame 1 2 (ctrlPcp (crmSt {})) [1, 2, 3, 4]] := by
  decide +kernel
theorem test_neighbours_keep_256 : after (.arpReply 1 999 7)
    { node := 5, crm := { ports := [(1, { upPort with neigh := (upto 256).map (fun k => (k, k)) })] } }
    (fun t => ((ePort t 1).neigh.length, (ePort t 1).neigh.head?, (ePort t 1).neigh.getLast?)) = some (256, some (1, 1), some (999, 7)) := by
  decide +kernel

theorem wit_ModuleTime :
    let on := fun (p : Ptp) => crmSt { ptp := { p with port := 1 } }
    (∀ p ∈ [({} : Ptp), { run := 15 }, { run := 14 }, { sync := 1 }, { sync := 2 }, { sync := 2, two := true }], ptpActive (on p) 1 = true) ∧
    (on { two := true }).crm.ptp.two = true ∧ ptpActive (crmSt {}) 1 = false ∧ (crmSt {}).crm.ptp.port ≠ 1 ∧
    ((on { sync := 2 }).crm.ptp.port = 1 ∧ (on { sync := 2 }).crm.ptp.sync = 2 ∧ (on { sync := 1 }).crm.ptp.sync = 1 ∧
      (on { misses := 1 }).crm.ptp.misses < 2) ∧
    (let s : State := { crm := { ports := [(0, upPort)], ptp := { port := 1, misses := 2 } } }
     s.crm.ptp.port = 1 ∧ 2 ≤ s.crm.ptp.misses ∧ 0 < ePorts s ∧ (ePort s ((1 + 1 + 0) % ePorts s)).link = true) ∧
    (let s : State := { crm := { ports := [(1, upPort)], ptp := { port := 1, misses := 2 } } }
     1 < ePorts s ∧ (ePort s ((1 + 1 + 1) % ePorts s)).link = true ∧ ∀ j, j < 1 → (ePort s ((1 + 1 + j) % ePorts s)).link = false) := by
  decide +kernel

theorem test_sync_offsets :
    let on := fun (p : Ptp) => crmSt { ptp := { p with port := 1 } }
    (after (.sync 1 40 false 0) (on { run := 15 }) (fun t => t.crm.ptp.sync) = some 2) ∧
    (after (.sync 1 41 false 0) (on { run := 15 }) (fun t => (t.crm.ptp.sync, t.crm.ptp.run)) = some (0, 0)) ∧
    (after (.sync 1 (BitVec.ofInt 64 (-50)) false 0) (on { sync := 2 }) (fun t => t.crm.ptp.sync) = some 2) ∧
    (after (.sync 1 (BitVec.ofInt 64 (-51)) false 0) (on { sync := 2 }) (fun t => t.crm.ptp.sync) = some 0) := by decide +kernel

/-- A flow of context 1023 to module 6 with one packet, and a plan whose window 3 is that flow's on port 1. -/
def txP (sent : Bool) : TxPkt := ⟨0xFFFFFFFF, 0, 0, true, true, [1, 2, 3, 4], sent⟩
def tx9 (sent : Bool) (chan : Option Nat) : TxFlow :=
  { ctx := 1023, flow := 9, wheel := 7, peer := 6, peerWheel := 2, sport := 1, dport := 0, chan := chan, limit := 1, pkts := [txP sent] }
def slotP (port : Nat) : Plan :=
  { planOn [7] with planId := 77, slot := some ⟨1000, 500, 0, [⟨0, 0, 0, 0⟩, ⟨0, 0, 0, 0⟩, ⟨0, 0, 0, 0⟩, ⟨9, port, 0, 100⟩]⟩ }
def txSt (sent : Bool) (retx : List Retx) (chan : Option Nat) (port : Nat) : State :=
  { node := 5, ctxs := [(1023, { st := .openC, plan := some (slotP port) })]
    crm := { ports := [(1, { upPort with neigh := [(6, 0)] })], ptp := { sync := 2 }, txs := [tx9 sent chan], retx := retx } }

theorem wit_TransmittedData_window : ∀ sent ∈ [false, true],
    let s := txSt sent (if sent then [⟨1023, 9, 0xFFFFFFFF, false⟩] else []) none 1
    planOf s 1023 = some (slotP 1) ∧ (slotP 1).slot.map (fun t => t.wins[3]?) = some (some ⟨9, 1, 0, 100⟩) ∧
    findTx s 1023 9 = some (tx9 sent none) ∧ dataAllowed s 1 = true ∧ txReady s 1 (tx9 sent none) = true ∧
    hopMac s 1 (txHop s 1 (tx9 sent none)) = some 0 ∧ (tx9 sent none).uncorr = false ∧ (ePort s 1).wait = [] ∧
    (fitting s 100000 (sortBy (fun (a b : Due) => follows a.pkt.seq b.pkt.seq) (retxOf s (tx9 sent none)) ++ newOf (tx9 sent none))).length = 1 := by
  decide +kernel

theorem wit_TransmittedData_none :
    let s := txSt false [] none 0
    findTx s 1023 9 = some (tx9 false none) ∧ (0 : Nat) ≠ 1 ∧ dataAllowed { s with node := 0xFFF } 1 = false ∧
    txReady { s with crm := { s.crm with ports := [(1, upPort)] } } 1 (tx9 false none) = false ∧ txOpen s { tx9 false none with stale := true } = false := by decide +kernel

/-- The next hop of the flow is not in the port's cache. -/
theorem wit_TransmittedData_unresolved :
    let s := { txSt false [] none 1 with crm := { (txSt false [] none 1).crm with ports := [(1, upPort)] } }
    planOf s 1023 = some (slotP 1) ∧ findTx s 1023 9 = some (tx9 false none) ∧ dataAllowed s 1 = true ∧ txOpen s (tx9 false none) = true ∧
    (tx9 false none).uncorr = false ∧ resolved s 1 (txHop s 1 (tx9 false none)) = false ∧ (tx9 false none).pkts ≠ [] := by decide +kernel

theorem wit_TransmittedData_slack :
    let s := txSt true [⟨1023, 9, 0xFFFFFFFF, true⟩] none 1
    dataAllowed s 1 = true ∧ s.crm.retx = [⟨1023, 9, 0xFFFFFFFF, true⟩] ∧
    (tx9 true none).pkts.find? (fun p => p.seq == 0xFFFFFFFF) = some (txP true) ∧ flowOnPort s 1 1023 9 = true ∧
    txReady s 1 (tx9 true none) = true ∧ framePs s (txP true).bytes.length ≤ slackPs s 1023 ∧
    hopMac s 1 (txHop s 1 (tx9 true none)) = some 0 ∧ (tx9 true none).uncorr = false ∧ (ePort s 1).wait = [] ∧
    dataAllowed { s with crm := { s.crm with ptp := {} } } 1 = false ∧ (tx9 true none).stale = false ∧
    (tx9 true none).pkts.find? (·.sent) = some (txP true) ∧ (tx9 false none).pkts.find? (·.sent) = none ∧
    (txSt true [] none 1).crm.retx = [] := by decide +kernel

/-! Received packets -/

def hdr (p : Pkt) : BitVec 256 := BitVec.ofNat 256 (pktHead p)
/-- A packet of a type from module 6 to module 5. -/
def from6 (type n : Nat) : Pkt := { type := type, src := 6, dst := 5, ctx := 1023, flow := 9, seq := 0, ptag := 77, msg := 2, plen := n }
def goodB (s : State) (e : Nat) (p : Pkt) (type n : Nat) : Bool :=
  decide (e < ePorts s) && (ePort s e).link && crmUp s e && decide (s.node ≠ 0xFFF) && decide (p.ver = 1) && !p.bad && decide (p.type = type) &&
    decide (type < 8) && decide (p.plen = n) && decide (p.dst = s.node) && decide (type = 5 ∨ p.code = 0)
theorem good_of {s : State} {e type n : Nat} {p : Pkt} (h : goodB s e p type n = true) : PktGood s e p type n := by
  simp only [goodB, Bool.and_eq_true, Bool.not_eq_eq_eq_not, Bool.not_true, decide_eq_true_eq] at h
  unfold PktGood
  obtain ⟨⟨⟨⟨⟨⟨⟨⟨⟨⟨h1, h2⟩, h3⟩, h4⟩, h5⟩, h6⟩, h7⟩, h8⟩, h9⟩, h10⟩, h11⟩ := h
  exact ⟨h1, h2, h3, h4, h5, h6, h7, h8, h9, h10, h11⟩

/-- The header as it is read has every field as it was written. -/
theorem test_header : ∀ k ∈ upto 8, pktOf (hdr (from6 k 16)) = from6 k 16 := by decide +kernel

theorem wit_AnswersToData_ack : ∀ c ∈ [none, some 255],
    let s := txSt true [] c 1
    PktGood s 1 (pktOf (hdr (from6 1 0))) 1 0 ∧ TxPeer s (pktOf (hdr (from6 1 0))) (tx9 true c) ∧
    PktGood s 1 (pktOf (hdr { from6 2 0 with seq := 0xFFFFFFFF })) 2 0 ∧
    TxPeer s (pktOf (hdr { from6 2 0 with seq := 0xFFFFFFFF })) (tx9 true c) ∧ sdSrcKind (chOf s 7 255).sd ≠ 1 := by
  intro c hc
  refine ⟨good_of ?_, ?_, good_of ?_, ?_, ?_⟩ <;> revert hc <;> revert c <;> (try unfold TxPeer) <;> decide +kernel

theorem wit_AnswersToData_status :
    let s := txSt true [] (some 255) 1
    let p := { from6 5 0 with code := 0x0804, seq := 0xFFFFFFFF }
    PktGood s 1 (pktOf (hdr p)) 5 0 ∧ TxPeer s (pktOf (hdr p)) (tx9 true (some 255)) ∧
    findTx { s with crm := { s.crm with txs := [] } } 1023 9 = none ∧ s.crm.notes = [] ∧
    PktGood { s with crm := { s.crm with txs := [] } } 1 (pktOf (hdr p)) 5 0 ∧ txP true ∈ (tx9 true (some 255)).pkts ∧ (txP true).seq = p.seq := by
  refine ⟨good_of (by decide +kernel), by unfold TxPeer; decide +kernel, by decide +kernel, by decide +kernel, good_of (by decide +kernel),
    by decide +kernel, by decide +kernel⟩

theorem wit_AnswersToData_dropped :
    let s := crmSt {}
    1 < ePorts s ∧ (ePort s 1).link = true ∧ crmUp s 1 = true ∧ s.node ≠ 0xFFF ∧ (pktOf (hdr { from6 2 0 with dst := 4 })).dst ≠ s.node ∧
    { s with node := 0xFFF }.node = 0xFFF ∧ (ePort { s with node := 0xFFF } 1).link = true := by decide +kernel

/-- NEXT of the ACK is 0: the packet 0xFFFFFFFF is before it, and the limit 1 moves to 2. -/
theorem test_ack : after (.ack 1 (hdr (from6 1 0)) [] true) (txSt true [] none 1)
    (fun t => (findTx t 1023 9).map (fun u => (u.pkts, u.limit))) = some (some ([], 2)) := by decide +kernel
theorem test_ack_damaged : after (.ack 1 (hdr (from6 1 0)) [] false) (txSt true [] none 1)
    (fun t => regGet (tget [] t.crm.regs 1) (0x040 + 8 * 6)) = some 1 := by decide +kernel

theorem wit_NoticesAndControl_notice : ∀ seen ∈ [[], [(1023, 6, 0)]],
    let s := txSt false [] none 1
    let s := { s with crm := { s.crm with noteSeen := seen } }
    let p := pktOf (hdr (from6 3 0))
    PktGood s 1 p 3 0 ∧ planOf s p.ctx = some (slotP 1) ∧ (slotP 1).planId % 2 ^ 32 = p.ptag ∧ (ctxOf s p.ctx).st ≠ .closing ∧
    ((p.ctx, p.src, p.seq) ∈ s.crm.noteSeen ↔ seen ≠ []) ∧
    layerAgreed { slotP 1 with notices := (slotP 1).notices ++ [(p.iter, p.layer, p.src)] } p.iter p.layer = false := by
  intro seen hs
  refine ⟨good_of ?_, ?_⟩ <;> revert hs <;> revert seen <;> decide +kernel

theorem wit_NoticesAndControl_other_plan :
    let s := txSt false [] none 1
    let p := pktOf (hdr { from6 3 0 with ptag := 78 })
    PktGood s 1 p 3 0 ∧ (∀ pl, planOf s p.ctx = some pl → pl.planId % 2 ^ 32 ≠ p.ptag ∨ (ctxOf s p.ctx).st = .closing) ∧
    (∀ pl, planOf (crmSt {}) p.ctx = some pl → pl.planId % 2 ^ 32 ≠ p.ptag ∨ (ctxOf (crmSt {}) p.ctx).st = .closing) := by
  refine ⟨good_of (by decide +kernel), ?_, ?_⟩
  · intro pl h
    have : pl = slotP 1 := (Option.some.inj h).symm
    subst this
    decide +kernel
  · intro pl h
    cases h

theorem wit_NoticesAndControl_acks :
    let n : NoticeOut := ⟨1023, 6, 0, 3, 2⟩
    let s := txSt false [] none 1
    let s := { s with crm := { s.crm with notes := [n] } }
    (∀ k ∈ [4, 6, 7], goodB s 1 (pktOf (hdr (from6 k 4))) k 4 = true) ∧
    s.crm.notes.find? (fun n => n.ctx == 1023 && n.node == 6 && n.num == 0) = some n ∧ noticePort s 1023 = some 1 ∧ fabricOn s 1 = true := by
  decide +kernel

theorem wit_NoticesAndControl_control : ∀ n ∈ [7, 8],
    let s := { crmSt {} with crm := { (crmSt {}).crm with ctrls := [(6, 3, [1], n)] } }
    fabricOn s 1 = true ∧ s.crm.ctrls.find? (fun m => m.1 == 6 && m.2.1 == 4) = none ∧
    s.crm.ctrls.find? (fun m => m.1 == 6 && m.2.1 == 3) = some (6, 3, [1], n) := by decide +kernel

/-- Wheel 7 of the plan with a receive flow from any module and one source state. -/
def rxEnt : MEntry := mEnt (1023 * 2 ^ 64 + 6 * 2 ^ 32 + 9) (2 ^ 128 - 1)
def rx9 : RxRec := { ctx := 1023, flow := 9, wheel := 7, anySrc := true, node := 0, combine := false, hoop := 1023, lflow := 5, init := 1, msgBytes := 8 }
def src9 (msgs : List RxMsg) (got : List Nat) (open' credit : Bool) (nacked : Option Nat) : RxSrc :=
  { wheel := 7, ctx := 1023, flow := 9, node := 6, limit := 1, msgs := msgs, got := got, winOpen := open', credit := credit, nacked := nacked, port := 1 }
def rxSt (r : RxSrc) (svc : Svc) : State :=
  { node := 5, ctxs := [(1023, { st := .openC, plan := some (slotP 1) })]
    wheels := [(7, { svc := svc, mld := { entries := [(768, rxEnt)], ranges := [⟨1, 1023, 768, 128⟩] } })]
    crm := { ports := [(1, upPort)], rxs := [rx9], srcs := [r] } }
def dataHdr (seq lw : Nat) : Pkt := { from6 0 4 with msg := 0, off := 4, seq := seq, wheel := lw }


theorem wit_ReceivedData_status :
    let s := rxSt (src9 [] [] false false none) .out
    let s0 := { s with ctxs := [] }
    let p := pktOf (hdr (dataHdr 0 0))
    let q := pktOf (hdr (dataHdr 0 1))
    goodB s 1 p 0 4 = true ∧ goodB s 1 q 0 4 = true ∧ goodB s0 1 p 0 4 = true ∧ planOf s0 p.ctx = none ∧ planOf s p.ctx = some (slotP 1) ∧
    (ctxOf s p.ctx).st ≠ .closing ∧ (slotP 1).planId % 2 ^ 32 = p.ptag ∧ physOf (slotP 1) q.wheel = none ∧ physOf (slotP 1) p.wheel = some 7 ∧
    (wheelOf s 7).svc ≠ .inService := by decide +kernel

theorem wit_ReceivedData_stored : ∀ got ∈ [[], [0]],
    let msg : RxMsg := ⟨0, 3, 0, none, false⟩
    let r := { src9 [msg] got false false none with mnext := 1 }
    let s := rxSt r .inService
    let p := pktOf (hdr (dataHdr 0 0))
    goodB s 1 p 0 4 = true ∧ planOf s p.ctx = some (slotP 1) ∧ physOf (slotP 1) p.wheel = some 7 ∧ (wheelOf s 7).svc = .inService ∧
    (∀ q ∈ s.crm.rxs, q.stale = false) ∧
    (mldSearch (wheelOf s 7).mld 1 p.ctx (BitVec.ofNat 128 (p.ctx * 2 ^ 64 + p.src * 2 ^ 32 + p.flow))).2 = .hit 768 rxEnt.cres ∧
    findRx s 7 p.ctx p.flow p.src = some rx9 ∧ rx9.wheel = 7 ∧ rx9.combine = false ∧ findSrc s 7 p.ctx p.flow p.src = some r ∧
    p.off + p.plen ≤ rx9.msgBytes ∧ follows p.msg r.limit = true ∧ p.seq = r.next ∧ r.next < 2 ^ 32 ∧ (r.got = [] ∨ p.seq ∈ r.got) ∧
    r.since < 31 ∧ r.uncorr = false ∧ newMsgs r p.msg = [] ∧ r.msgs.find? (fun q => q.msg == p.msg) = some msg ∧ (∀ q ∈ r.msgs, q.len = none) ∧
    p.lmsg = false ∧ p.wend = false ∧ p.last = false := by decide +kernel

theorem wit_ReceivedData_long : 8960 < (List.replicate 8961 (0 : Byte)).length ∧
    (1 < ePorts (crmSt {}) ∧ (ePort (crmSt {}) 1).link = true ∧ crmUp (crmSt {}) 1 = true ∧ (crmSt {}).node ≠ 0xFFF) := by
  rw [List.length_replicate]; exact ⟨by decide, by decide +kernel⟩

theorem wit_ReceivedData_timers : ∀ b ∈ [true, false],
    let r := { src9 [] [] b b none with mid := b }
    let n := src9 [⟨0, 3, 0, none, false⟩] [5] false b (some 0)
    findSrc (rxSt r .inService) 7 1023 9 6 = some r ∧ (r.winOpen = true ↔ b = true) ∧ r.nacked ≠ some r.next ∧ (r.credit = true ↔ b = true) ∧
    r.mid = b ∧ rxSends (rxSt r .inService) r = true ∧ findSrc (rxSt n .inService) 7 1023 9 6 = some n ∧ n.nacked = some n.next ∧
    rxSends (rxSt n .inService) n = true ∧ findSrc (rxSt n .out) 7 1023 9 6 = some n ∧ rxSends (rxSt n .out) n = false := by decide +kernel

/-- A packet without LAST begins a transfer, which a duplicate does not end. -/
theorem test_transfer_begun : after (.data 1 (hdr (dataHdr 0 0)) [1, 2, 3, 4] true)
    (rxSt { src9 [⟨0, 3, 0, none, false⟩] [] false false none with mnext := 1 } .inService)
    (fun t => (findSrc t 7 1023 9 6).map (·.mid)) = some (some true) := by decide +kernel

/-- The four bytes come to offset 4 of buffer 3, and NEXT is 1. -/
theorem test_data_stored : after (.data 1 (hdr (dataHdr 0 0)) [1, 2, 3, 4] true)
    (rxSt { src9 [⟨0, 3, 0, none, false⟩] [] false false none with mnext := 1 } .inService)
    (fun t => (caveRead (wheelOf t 7) (bufAddr (hoopOf (wheelOf t 7) 1023) 3 + 4) 4, (findSrc t 7 1023 9 6).map (·.next))) =
    some ([1, 2, 3, 4], some 1) := by decide +kernel
theorem test_data_no_plan : after (.data 1 (hdr (dataHdr 0 0)) [1, 2, 3, 4] true)
    { node := 5, crm := { ports := [(1, { upPort with neigh := [(6, 9)] })] } } (fun t => t.out.map (fun o => match o with
      | .packet f => (f.port, f.mac, f.dstIp, f.data)
      | _ => (0, 0, 0, []))) =
    some [(1, 9, 6, pktBytes { type := 5, src := 5, dst := 6, ctx := 1023, flow := 9, ptag := 77, code := 0x0803 } [])] := by decide +kernel

/-! ## The whole module -/

/-- A bundle whose control slot is PAND with destination P0, and one whose vector slot 2 is VCMPLT with destination P0. -/
theorem wit_PZeroIsTrue (b : BitVec 256) :
    let x := vatAt (oneVat 7 31 (runs b { pc := 511 })) 7 31
    canIssue x = true ∧ x.issue = none ∧ x.prog.pc < 512 ∧ x.istoreBad.contains x.prog.pc = false ∧ tget 0 x.istore x.prog.pc = b :=
  ⟨rfl, rfl, by show (511 : Nat) < 512; decide, rfl, rfl⟩
theorem wit_PZeroIsTrue_control : slOp (bundleSlot (bundle1 0 (0x20 * 2 ^ 56)) 0) = 0x20 ∧ slD (bundleSlot (bundle1 0 (0x20 * 2 ^ 56)) 0) = 0 := by
  decide +kernel
theorem wit_PZeroIsTrue_vector : slOp (bundleSlot (bundle1 2 (0x18 * 2 ^ 56)) 2) = 0x18 ∧ slD (bundleSlot (bundle1 2 (0x18 * 2 ^ 56)) 2) = 0 := by
  decide +kernel

theorem wit_StepRunsTheFront : ({ pending := [.linkDown 0, .announce 0] } : State).pending = .linkDown 0 :: [.announce 0] ∧ State.reset.pending = [] :=
  ⟨rfl, rfl⟩
theorem test_first_in_first_out : (match step { pending := [.linkDown 0, .announce 0] } with
    | .next t => (match t.pending with
      | [.announce k] => decide (k = 0)
      | _ => false)
    | _ => false) = true := by decide +kernel

theorem wit_StepKeepsSealInv : SealInv State.reset := by unfold SealInv; decide +kernel
theorem wit_StepKeepsSealInv_step : (match step (State.reset.withCommand (.linkDown 0)) with
    | .next _ => true
    | _ => false) = true := by decide +kernel

theorem wit_CountersAdvanceOnly : ∀ cul ∈ [0, 1], ∀ lc ∈ [1, 2],
    let s := { sealSt { lc := lc, fwSvn := 3, culSvn := 65 } [] 0 [2, cul] with
               cul := { (sealSt {} [] 0 []).cul with versions := 70 * 2 ^ 32 + 9 } }
    let h := hcmd 0x11 [2, cul]
    readyB s 0x11 h = true ∧ cmdP h 0 % 256 = 2 ∧ (s.sea.lc = 1 ∨ s.sea.lc = 2) := by decide +kernel

end Sys2Proof.Tests
end

section
/-!
SUPPORT. The lane instructions of the vector slot: one rule for every instruction that merges computed lanes into V[D]
under P[PR], and from it the floating-point lane instructions (R61, R62, R161).
-/

namespace Sys2Proof.Machine

open Sys2Proof Sys2Proof.Safety

theorem nth_map_upto {α : Type} (z : α) (f : Nat → α) {n i : Nat} (h : i < n) : nth z ((upto n).map f) i = f i := by
  simp [nth, upto, h]

/-- Only the 64 lanes of the written register count. -/
theorem lanesWritten_congr {s t : State} {w v d : Nat} {g g' : Nat → Word} (e : ∀ i, i < 64 → g i = g' i)
    (h : LanesWritten s t w v d g) : LanesWritten s t w v d g' := by
  obtain ⟨written, frame⟩ := h
  exact ⟨fun i hi => (written i hi).trans (e i hi), frame⟩

section Lanes

variable {s : State} {w : Fin 8} {v : Fin 32} {c : Instr} {word d a b pr : Nat} {eff : VEff}

/-- The rule of the vector slot's lane instructions: a meaning that merges the lanes `g` under P[PR] does so and no more. -/
theorem lanes_of_mergeV {g : Nat → Word} (hc : exec c s = slotOn s w v 2 word eff)
    (he : ∀ x nx m, eff ⟨x, v, slotSrc s w v, nx, m⟩ = mergeV ⟨x, v, slotSrc s w v, nx, m⟩ d pr g) :
    Lanes s w v c word d pr g := by
  intro ho
  have merged := slotCmd_lanes (d := d) (xs := (upto 64).map fun i =>
    if pLane (slotSrc s w v) pr i then g i else vLane (slotSrc s w v) d i) ho he
  exact ⟨_, hc, lanesWritten_congr (fun _ hi => nth_map_upto 0 _ hi) merged⟩

theorem lanes_of_effV3 (f : Word → Word → Word) (hc : exec c s = slotOn s w v 2 word (effV3 f d a b pr)) :
    Lanes s w v c word d pr (fun i => f (vLane (slotSrc s w v) a i) (vLane (slotSrc s w v) b i)) :=
  lanes_of_mergeV hc fun _ _ _ => rfl

theorem lanes_of_effV2 (f : Word → Word) (hc : exec c s = slotOn s w v 2 word (effV2 f d a pr)) :
    Lanes s w v c word d pr (fun i => f (vLane (slotSrc s w v) a i)) :=
  lanes_of_mergeV hc fun _ _ _ => rfl

theorem lanes_of_effSpecial (f : Special) (hc : exec c s = slotOn s w v 2 word (effSpecial f d a pr)) :
    Lanes s w v c word d pr (fun i => BitVec.ofNat 32 (specialFn f (vLane (slotSrc s w v) a i).toNat)) :=
  lanes_of_effV2 (fun x => wordOf (specialFn f x.toNat)) hc

end Lanes

/-- The canonical NaN of FP32 (R161). -/
theorem wordOf_nanOf_fp32 : wordOf (nanOf fp32) = 0x7FC00000 := rfl

theorem lMin_eq (a b : Word) : lMin a b =
    if numIsNan (numOf fp32 a.toNat) || numIsNan (numOf fp32 b.toNat) then 0x7FC00000
    else if numLt (numOf fp32 a.toNat) (numOf fp32 b.toNat) then a
    else if numLt (numOf fp32 b.toNat) (numOf fp32 a.toNat) then b
    else if a.msb then a else b := by
  rw [← wordOf_nanOf_fp32, lMin]

theorem lMax_eq (a b : Word) : lMax a b =
    if numIsNan (numOf fp32 a.toNat) || numIsNan (numOf fp32 b.toNat) then 0x7FC00000
    else if numLt (numOf fp32 a.toNat) (numOf fp32 b.toNat) then b
    else if numLt (numOf fp32 b.toNat) (numOf fp32 a.toNat) then a
    else if a.msb then b else a := by
  rw [← wordOf_nanOf_fp32, lMax]

/-- Clearing the sign bit leaves the code's lower 31 bits. -/
theorem lAbs_eq (a : Word) : lAbs a = BitVec.ofNat 32 (a.toNat % 2 ^ 31) := by
  apply BitVec.eq_of_toNat_eq
  calc (lAbs a).toNat = a.toNat &&& (2 ^ 31 - 1) := by rw [lAbs, BitVec.toNat_and]; rfl
    _ = a.toNat % 2 ^ 31 := Nat.and_two_pow_sub_one_eq_mod _ _
    _ = (BitVec.ofNat 32 (a.toNat % 2 ^ 31)).toNat := by rw [BitVec.toNat_ofNat]; omega

/-- Settles O4: each instruction merges its lane function of the operands under P[PR]. The lane functions of
VADD, VSUB, VMUL, VFMA, VNEG and the special functions are the statement's by definition; those of VMIN, VMAX and VABS by
`lMin_eq`, `lMax_eq` and `lAbs_eq`. -/
theorem floatLanes : Obligations.FloatLanes := by
  intro s w v d a b e pr
  refine ⟨lanes_of_effV3 lAdd rfl, lanes_of_effV3 lSub rfl, lanes_of_effV3 lMul rfl,
    lanes_of_mergeV rfl fun _ _ _ => rfl, ?vmin, ?vmax, ?vabs, lanes_of_effV2 lNeg rfl,
    lanes_of_effSpecial .exp2 rfl, lanes_of_effSpecial .log2 rfl, lanes_of_effSpecial .recip rfl,
    lanes_of_effSpecial .rsqrt rfl, lanes_of_effSpecial .tanh rfl, lanes_of_effSpecial .erf rfl⟩
  case vmin => simpa only [lMin_eq] using lanes_of_effV3 lMin rfl
  case vmax => simpa only [lMax_eq] using lanes_of_effV3 lMax rfl
  case vabs => simpa only [lAbs_eq] using lanes_of_effV2 lAbs rfl

end Sys2Proof.Machine
end

section
/-!
SUPPORT. A byte read back after a write, and what a read that meets single-bit errors leaves as it was (R112).
-/

namespace Sys2Proof.Machine

/-- A byte inside the range just written, with the default of the list as that of the memory. -/
theorem rdByte_wrMem_getD (d : Byte) (m : List Host.Cell) (a : Nat) (bs : List Byte) {i : Nat} (h : i < bs.length) :
    rdByte d (wrMem d m a bs) (a + i) = bs.getD i d := by
  rw [rdByte_wrMem_in d m a bs i h, List.getD_eq_getElem?_getD, List.getElem?_eq_getElem h, Option.getD_some]

/-- `y` is `x` after reads corrected single-bit errors (R112): the Cave reads the same, and of a vat only the error and
statistics registers differ. -/
def Corrected (x y : Wheel) : Prop :=
  y.cave = x.cave ∧ ∀ v, ∃ g, vatOf y v = { vatOf x v with regs := g }

theorem Corrected.refl (x : Wheel) : Corrected x x := ⟨rfl, fun v => ⟨(vatOf x v).regs, rfl⟩⟩

theorem Corrected.trans {x y z : Wheel} (h : Corrected x y) (h' : Corrected y z) : Corrected x z := by
  obtain ⟨cave, vats⟩ := h
  obtain ⟨cave', vats'⟩ := h'
  refine ⟨cave'.trans cave, fun v => ?_⟩
  obtain ⟨g, hg⟩ := vats v
  obtain ⟨g', hg'⟩ := vats' v
  exact ⟨g', by rw [hg', hg]⟩

theorem corrected_onVat_regs (x : Wheel) (v : Nat) (bad : List (Nat × Nat)) (f : Regs → Regs) :
    Corrected x (onVat { x with caveBad := bad } v (fun t => { t with regs := f t.regs })) := by
  refine ⟨rfl, fun u => ?_⟩
  by_cases h : u = v
  · subst h; exact ⟨_, vatOf_onVat_self _ _ _⟩
  · exact ⟨(vatOf x u).regs, vatOf_onVat_ne _ _ _ _ h⟩

theorem corrected_caveCorrect (x : Wheel) (a n : Nat) : Corrected x (caveCorrect x a n) :=
  List.foldlRecOn (motive := Corrected x) _ _ (.refl x) fun y hy _ _ =>
    hy.trans (corrected_onVat_regs y _ _ fun r => errSet (bump r 7 1) 0x2 0 0)

end Sys2Proof.Machine
end

section
/-!
SUPPORT. The ring between a vat and the next one (R113–R116): the arrival of a slice, its credit, and what a fault leaves.
-/

namespace Sys2Proof.Machine

open Sys2Proof Sys2Proof.Safety

theorem vatAway_iff (t : Vat) : vatAway t = true ↔ t.st = .fenced ∨ t.st = .outOfService := by
  simp [vatAway]

theorem vatAway_eq_false {t : Vat} (h : ¬ (t.st = .fenced ∨ t.st = .outOfService)) : vatAway t = false :=
  Bool.eq_false_iff.mpr (mt (vatAway_iff t).mp h)

theorem nextVat_ne (v : Fin 32) : nextVat v.val ≠ v.val := by
  have := v.isLt
  simp only [nextVat]
  omega

theorem ringFault_wheelOf (s : State) (w v : Nat) : wheelOf (ringFaultOn s w v) w = ringFault (wheelOf s w) v := by
  simp only [ringFaultOn, wheelOf_onWheel_self]
  split <;> rfl

section Transfer

variable {x : Wheel} {v : Nat} {r : RingOut}

theorem ringFailed_cave (x : Wheel) (v : Nat) (r : RingOut) (code : Nat) : (ringFailed x v r code).cave = x.cave := by
  unfold ringFailed
  split
  · rfl
  · split <;> rfl

theorem ringFailed_ring (x : Wheel) (v : Nat) (r : RingOut) (code : Nat) : (vatOf (ringFailed x v r code) v).ring = none := by
  unfold ringFailed
  split
  · simp [endSaved]
  · split <;> simp [raiseAt]

/-- The failed transfer of the operation in service ends it (R116). -/
theorem ringFailed_running (code : Nat) (hs : savedSlot (vatOf x v) r.op = none) (ho : sameRun r.op (vatOf x v).op = true) :
    (vatOf (ringFailed x v r code) v).fin = some ⟨code, r.pc, 0⟩ := by
  simp [ringFailed, hs, ho, raiseAt]

/-- The failed transfer of a saved operation is kept with its slot, and leaves the operation in service alone (R116). -/
theorem ringFailed_saved (code : Nat) {k : Nat} (hs : savedSlot (vatOf x v) r.op = some k) :
    (vatOf (ringFailed x v r code) v).fin = (vatOf x v).fin ∧
    ∀ q ∈ (vatOf (ringFailed x v r code) v).saved, q.1 = k → q.2.fault = some ⟨code, r.pc, 0⟩ := by
  simp only [ringFailed, hs, vatOf_onVat_self, endSaved, true_and]
  intro q hq hk
  obtain ⟨p, -, rfl⟩ := List.mem_map.mp hq
  by_cases hp : p.1 = k
  · rw [if_pos hp]
  · rw [if_neg hp] at hk
    exact absurd hk hp

theorem ringFault_receiverAway (hr : (vatOf x v).ring = some r) (hn : vatAway (vatOf x (nextVat v)) = true)
    (hv : vatAway (vatOf x v) = false) : ringFault x v = ringFailed x v r 0x0105 := by
  simp [ringFault, hr, hn, hv]

/-- A sender that is away leaves the next vat a failed slice (R116). -/
theorem ringFault_senderAway (hne : nextVat v ≠ v) (hr : (vatOf x v).ring = some r) (hv : vatAway (vatOf x v) = true) :
    (vatOf (ringFault x v) v).ring = none ∧
    (vatOf (ringFault x v) (nextVat v)).slices = (vatOf x (nextVat v)).slices ++ [⟨r.dst, r.len, true, none, false⟩] ∧
    (ringFault x v).cave = x.cave := by
  simp only [ringFault, hr, hv, Bool.not_true, Bool.and_false, Bool.false_eq_true, if_false, if_true]
  refine ⟨?_, ?_, rfl⟩
  · rw [vatOf_onVat_ne _ _ _ _ hne.symm, vatOf_onVat_self]
  · rw [vatOf_onVat_self, vatOf_onVat_ne _ _ _ _ hne]

/-- The wheel after the arrival of a transfer that holds a credit: the Cave is written and the two vats note it (R114). -/
theorem ringArrive_credited (hne : nextVat v ≠ v) (hr : (vatOf x v).ring = some r)
    (hc : ringCredit x (nextVat v) r.dst r.len = true) (hn : vatAway (vatOf x (nextVat v)) = false)
    (hu : caveUncorr x (bankAddr v r.src) r.len = false) :
    (ringArrive x v).cave = wrMem 0 x.cave (bankAddr (nextVat v) r.dst) (caveRead x (bankAddr v r.src) r.len) ∧
    (vatOf (ringArrive x v) v).ring = none ∧
    (vatOf (ringArrive x v) (nextVat v)).slices = (vatOf x (nextVat v)).slices ++ [⟨r.dst, r.len, false, none, false⟩] := by
  obtain ⟨cave, vats⟩ := corrected_caveCorrect x (bankAddr v r.src) r.len
  obtain ⟨g, receiver⟩ := vats (nextVat v)
  simp only [ringArrive, hr, hc, hn, hu, Bool.not_true, Bool.false_eq_true, Bool.or_self, if_false]
  refine ⟨?_, ?_, ?_⟩
  · exact congrArg (fun m => wrMem 0 m _ _) cave
  · rw [vatOf_onVat_ne _ _ _ _ hne.symm, vatOf_onVat_self]
  · rw [vatOf_onVat_self, vatOf_onVat_ne _ _ _ _ hne]
    change (vatOf (caveCorrect x (bankAddr v r.src) r.len) (nextVat v)).slices ++ _ = _
    rw [receiver]

theorem ringCreditAt_done {off : Nat} {q : Slice} (hq : (vatOf x v).slices.find? (fun p => p.dst == off) = some q)
    (hd : sliceDone x v q = true) : ringCreditAt x v off = onVat x v (fun t => { t with slices := t.slices.erase q }) := by
  simp [ringCreditAt, hq, hd]

end Transfer

/-- Settles O14: the arrival writes the slice (`ringArrive_credited`); a failed transfer ends its operation, running or
saved (`ringFailed_running`, `ringFailed_saved`), or marks the slice (`ringFault_senderAway`). -/
theorem ring : Obligations.Ring := by
  intro s w v r off q
  have hne := nextVat_ne v
  refine ⟨?arrival, ?credit, ?running, ?saved, ?senderAway⟩
  case arrival =>
    intro hr hc hn hu
    obtain ⟨cave, sender, receiver⟩ := ringArrive_credited hne hr hc (vatAway_eq_false hn) hu
    have len : (caveRead (wheelOf s w) (bankAddr v r.src) r.len).length = r.len := rdMem_length ..
    refine ⟨_, rfl, ?_⟩
    simp only [vatAt, wheelOf_onWheel_self, cave]
    refine ⟨fun i hi => ?_, fun p hp => ?_, sender, receiver⟩
    · exact rdByte_wrMem_getD 0 _ _ _ (by rwa [len])
    · exact rdByte_wrMem_out 0 _ _ _ p (by rwa [len])
  case credit =>
    intro hq hd
    refine ⟨_, rfl, ?_⟩
    simp [vatAt, ringCreditAt_done hq hd]
  case running =>
    intro hr hn hv hs ho
    have failed := ringFault_receiverAway hr ((vatAway_iff _).mpr hn) (vatAway_eq_false hv)
    refine ⟨_, rfl, ?_⟩
    simp only [vatAt, ringFault_wheelOf, failed]
    exact ⟨ringFailed_ring .., ringFailed_running 0x0105 hs ho, ringFailed_cave ..⟩
  case saved =>
    intro k hr hn hv hs
    have failed := ringFault_receiverAway hr ((vatAway_iff _).mpr hn) (vatAway_eq_false hv)
    obtain ⟨fin, fault⟩ := ringFailed_saved 0x0105 hs
    refine ⟨_, rfl, ?_⟩
    simp only [vatAt, ringFault_wheelOf, failed]
    exact ⟨ringFailed_ring .., fin, fault, ringFailed_cave ..⟩
  case senderAway =>
    intro hr hv
    refine ⟨_, rfl, ?_⟩
    simp only [vatAt, ringFault_wheelOf]
    exact ringFault_senderAway hne hr ((vatAway_iff _).mpr hv)

end Sys2Proof.Machine
end

section
/-!
SUPPORT. The life of a saved vat operation: what a save writes (R122, R123), what SAVE_DONE leaves (R428), and what a
restore recovers (R124, R172).
-/

namespace Sys2Proof.Machine

open Sys2Proof Sys2Proof.Safety

/-! ## Starting a save -/

theorem mem_tins {V : Type} (k : Nat) (z : V) (l : List (Nat × V)) : (k, z) ∈ tins k z l := by
  induction l with
  | nil => simp [tins]
  | cons c l ih =>
    obtain ⟨a, b⟩ := c
    simp only [tins]
    split
    · exact List.mem_cons_self
    · exact List.mem_cons_of_mem _ ih

/-- `y` is the wheel `x` with vat `v` in SAVE, its operation `op` kept in slot `k` and the save area written. -/
def SaveStarted (x : Wheel) (v : Nat) (op : OpRef) (k : Nat) (yl : Bool) (y : Wheel) : Prop :=
  let a := vatOf x v
  let at' := bankAddr v (slotOffset x.saveSlots k)
  let area := saveArea a.prog op (mmaDone a.issue)
  (vatOf y v).st = .save ∧ (vatOf y v).saving = some (k, yl) ∧
  (k, ⟨op, a.prog, a.issue, a.wait, yl, a.irrev, a.record, none⟩) ∈ (vatOf y v).saved ∧
  (∀ i, i < area.length → rdByte 0 y.cave (at' + i) = area.getD i 0) ∧
  (∀ p, p < at' ∨ at' + area.length ≤ p → rdByte 0 y.cave p = rdByte 0 x.cave p) ∧
  y.hoops = x.hoops

theorem startSave_started {x : Wheel} {v : Nat} {op : OpRef} (k : Nat) (yl : Bool) (ho : (vatOf x v).op = some op) :
    SaveStarted x v op k yl (startSave x v k yl) := by
  simp only [startSave, ho, SaveStarted, vatOf_onVat_self, onVat_cave, onVat_hoops, caveStore_hoops, true_and]
  exact ⟨mem_tins .., fun i hi => rdByte_wrMem_getD 0 _ _ _ hi, fun p hp => rdByte_wrMem_out 0 _ _ _ p hp, trivial⟩

/-- A save does not depend on the vat's error and statistics registers. -/
theorem saveStarted_of_regs {x y : Wheel} {v : Nat} {op : OpRef} {k : Nat} {yl : Bool} {g : Regs → Regs}
    (h : SaveStarted (onVat x v (fun t => { t with regs := g t.regs })) v op k yl y) : SaveStarted x v op k yl y := by
  simpa only [SaveStarted, vatOf_onVat_self, onVat_cave, onVat_hoops, onVat_saveSlots] using h

/-- The yield wait ends with an empty hoop, ready work and a free slot (R118, R119). -/
theorem vatYield_saves {x : Wheel} {v k : Nat} {op : OpRef} (ho : (vatOf x v).op = some op) (hf : freeSlot x v = some k)
    (hb : atBoundary (vatOf x v) = true) (hst : (vatOf x v).st = .handleWait)
    (hq : ∀ h, waitHoop (vatOf x v) = some h → (hoopOf x h).q = []) (hw : (waitHoop (vatOf x v)).isSome)
    (hr : readyFor x v ≠ []) : SaveStarted x v op k true (vatYield x v) := by
  obtain ⟨h, hh⟩ := Option.isSome_iff_exists.mp hw
  have yields : vatYield x v = startSave (onVat x v fun t => { t with regs := bump t.regs 2 x.yieldWait }) v k true := by
    simp [vatYield, hst, hb, hh, hq h hh, hr, hf]
  rw [yields]
  exact saveStarted_of_regs (g := fun r => bump r 2 x.yieldWait) (startSave_started k true (by simpa using ho))

theorem not_insideMma_of_atBoundary {t : Vat} (h : atBoundary t = true) : insideMma t = false := by
  simp only [atBoundary, Bool.and_eq_true, Bool.or_eq_true, beq_iff_eq] at h
  obtain ⟨-, ⟨⟨-, issue⟩, -⟩ | ⟨st, -⟩⟩ := h
  · simp [insideMma, Option.isNone_iff_eq_none.mp issue]
  · simp [insideMma, st]

theorem vatPreempt_saves {x : Wheel} {v k : Nat} {op : OpRef} (pick : Nat) (ho : (vatOf x v).op = some op)
    (hf : freeSlot x v = some k) (hb : atBoundary (vatOf x v) = true) (he : ∃ e ∈ x.rnt.intr, e.1 = ⟨1, v⟩) :
    SaveStarted x v op k false (vatPreempt x v pick) := by
  obtain ⟨e, he⟩ : ∃ e, x.rnt.intr.find? (fun e => e.1 == ⟨1, v⟩) = some e := by
    rw [← Option.isSome_iff_exists, List.find?_isSome]
    simpa using he
  simp only [vatPreempt, he, hf, hb, if_true]
  exact startSave_started k false ho

/-! ## What Rennet reports leaves the vats and its matching store alone -/

/-- Wheel `w` has the same vats and holds the same work in its matching store in both states. -/
def UnitsKept (w : Nat) (s t : State) : Prop :=
  (wheelOf t w).vats = (wheelOf s w).vats ∧ (wheelOf t w).rnt.insts = (wheelOf s w).rnt.insts

theorem UnitsKept.refl (w : Nat) (s : State) : UnitsKept w s s := ⟨rfl, rfl⟩

theorem UnitsKept.trans {w : Nat} {a b c : State} (h : UnitsKept w a b) (h' : UnitsKept w b c) : UnitsKept w a c :=
  ⟨h'.1.trans h.1, h'.2.trans h.2⟩

theorem unitsKept_onWheel {w : Nat} (s : State) (u : Nat) {f : Wheel → Wheel} (hv : ∀ x, (f x).vats = x.vats)
    (hi : ∀ x, (f x).rnt.insts = x.rnt.insts) : UnitsKept w s (onWheel s u f) := by
  by_cases h : w = u
  · subst h; simp [UnitsKept, hv, hi]
  · simp [UnitsKept, wheelOf_onWheel_ne _ _ _ _ h]

theorem unitsKept_devWrite (w : Nat) (s : State) (u pa : Nat) (bs : List Byte) : UnitsKept w s (devWrite s u pa bs).1 := by
  unfold devWrite
  dsimp only
  split
  · exact .refl w s
  · exact unitsKept_onWheel s _ (fun _ => rfl) (fun _ => rfl)

theorem unitsKept_traceWrite (w : Nat) (s : State) (u : Nat) (r : BitVec 128) : UnitsKept w s (traceWrite s u r) := by
  unfold traceWrite
  dsimp only
  split
  · exact unitsKept_onWheel s u (fun _ => rfl) (fun _ => rfl)
  · split
    · exact unitsKept_onWheel s u (fun _ => rfl) (fun _ => rfl)
    · exact (unitsKept_devWrite w s u _ _).trans (unitsKept_onWheel _ u (fun _ => rfl) (fun _ => rfl))

theorem unitsKept_flushTrace (w : Nat) (s : State) (u : Nat) : UnitsKept w s (flushTrace s u) :=
  List.foldlRecOn (motive := UnitsKept w s) _ _ (unitsKept_onWheel s u (fun _ => rfl) (fun _ => rfl))
    fun t ht r _ => ht.trans (unitsKept_traceWrite w t u r)

/-- Where no flow fails and no counter saturates, the vats and the matching store are as Rennet's work leaves them. -/
theorem rRun_quiet (s : State) (w : Nat) (f : RCtx → RCtx) (hf : (f { x := wheelOf s w, w := w }).fails = [])
    (hs : (f { x := wheelOf s w, w := w }).sats = []) :
    (wheelOf (rRun s w f) w).vats = (f { x := wheelOf s w, w := w }).x.vats ∧
    (wheelOf (rRun s w f) w).rnt.insts = (f { x := wheelOf s w, w := w }).x.rnt.insts := by
  simp only [rRun, hf, hs, List.foldl_nil]
  rw [(unitsKept_flushTrace w _ w).1, (unitsKept_flushTrace w _ w).2]
  simp [wheyBump, onWhey]

/-! ## SAVE_DONE -/

theorem mem_insertBy {α : Type} {before : α → α → Bool} {a b : α} {l : List α} (h : a ∈ insertBy before b l) :
    a = b ∨ a ∈ l := by
  induction l with
  | nil => simpa [insertBy] using h
  | cons c l ih =>
    simp only [insertBy] at h
    split at h
    · exact List.mem_cons.mp h
    · rcases List.mem_cons.mp h with rfl | h
      · simp
      · exact (ih h).imp_right (List.mem_cons_of_mem _)

theorem mem_of_mem_sortBy {α : Type} {before : α → α → Bool} {a : α} {l : List α} (h : a ∈ sortBy before l) : a ∈ l := by
  have sub : ∀ b ∈ sortBy before l, b ∈ l :=
    List.foldlRecOn (motive := fun acc => ∀ b ∈ acc, b ∈ l) _ _ (by simp) fun acc hacc c hc b hb =>
      (mem_insertBy hb).elim (fun e => e ▸ hc) (hacc b)
  exact sub a h

/-- What Rennet offers a vat is ready in the matching store. -/
theorem readyFor_inst {x : Wheel} {v : Nat} {p : OpRec × Inst} (h : p ∈ readyFor x v) :
    p.2 ∈ x.rnt.insts ∧ p.2.ready.isSome := by
  obtain ⟨i, hi, hp⟩ := List.mem_filterMap.mp (mem_of_mem_sortBy (List.mem_filter.mp h).1)
  obtain ⟨mem, ready⟩ := List.mem_filter.mp hi
  obtain ⟨o, -, rfl⟩ := Option.map_eq_some_iff.mp hp
  exact ⟨mem, (Bool.and_eq_true_iff.mp ready).1⟩

theorem findInst_same {r : Rennet} {ctx opid iter : Nat} {i : Inst} (h : findInst r ctx opid iter = some i) :
    sameInst i ctx opid iter = true :=
  List.find?_some (p := fun i => sameInst i ctx opid iter) h

theorem sameInst_iff (i : Inst) (ctx opid iter : Nat) :
    sameInst i ctx opid iter = true ↔ i.ctx = ctx ∧ i.opid = opid ∧ i.iter = iter := by
  simp [sameInst, and_assoc]

theorem findInst_setInst_self {r : Rennet} {ctx opid iter : Nat} {i j : Inst} (h : findInst r ctx opid iter = some i)
    (self : sameInst j ctx opid iter = true) : findInst (setInst r j) ctx opid iter = some j := by
  obtain ⟨rfl, rfl, rfl⟩ := (sameInst_iff ..).mp self
  simp only [findInst, setInst] at h ⊢
  generalize r.insts = l at h
  induction l with
  | nil => contradiction
  | cons c l ih =>
    by_cases hc : sameInst c j.ctx j.opid j.iter = true
    · simp [hc, self]
    · rw [Bool.not_eq_true] at hc
      simp only [List.map_cons, hc, Bool.false_eq_true, if_false, List.find?_cons] at h ⊢
      exact ih h

theorem mem_setInst {r : Rennet} {j k : Inst} (h : k ∈ (setInst r j).insts) :
    k = j ∨ k ∈ r.insts ∧ sameInst k j.ctx j.opid j.iter = false := by
  obtain ⟨c, hc, rfl⟩ := List.mem_map.mp h
  by_cases e : sameInst c j.ctx j.opid j.iter = true
  · exact .inl (if_pos e)
  · rw [if_neg e]
    exact .inr ⟨hc, Bool.eq_false_iff.mpr e⟩

/-- A trace event is all that recording one adds. -/
theorem traceEv_frame (c : RCtx) (event prio cls engine flow iter opid code : Nat) :
    (traceEv c event prio cls engine flow iter opid code).fails = c.fails ∧
    (traceEv c event prio cls engine flow iter opid code).sats = c.sats ∧
    (traceEv c event prio cls engine flow iter opid code).x.vats = c.x.vats ∧
    (traceEv c event prio cls engine flow iter opid code).x.rnt.insts = c.x.rnt.insts := by
  unfold traceEv
  dsimp only
  split <;> exact ⟨rfl, rfl, rfl, rfl⟩

/-- The vat that a save leaves: no operation, cleared registers. -/
def vatFreed (t : Vat) : Vat :=
  { t with op := none, st := .idle, saving := none, started := false, issue := none, wait := none, prog := {} }

/-- The save has ended and nothing else is ready: the operation is saved on its vat, and the vat is free (R428). -/
theorem saveDone_alone {c : RCtx} {v k : Nat} {yl : Bool} {op : OpRef} {i : Inst} (ho : (vatOf c.x v).op = some op)
    (hs : (vatOf c.x v).saving = some (k, yl)) (hst : (vatOf c.x v).st = .save) (hc : saveCancelled (vatOf c.x v) k = none)
    (hi : findInst c.x.rnt op.ctx op.opid op.iter = some i)
    (hr : ∀ j ∈ c.x.rnt.insts, sameInst j op.ctx op.opid op.iter = false → j.ready = none) :
    (saveDone c v).fails = c.fails ∧ (saveDone c v).sats = c.sats ∧
    (saveDone c v).x.vats = (onVat c.x v vatFreed).vats ∧
    (saveDone c v).x.rnt.insts = (setInst c.x.rnt { i with st := .saved v yl }).insts := by
  obtain ⟨ectx, eopid, eiter⟩ := (sameInst_iff ..).mp (findInst_same hi)
  simp only [saveDone, ho, hs, hst, hc, ne_eq, not_true_eq_false, if_false, Option.isSome_none, Bool.false_eq_true]
  generalize hc1 : rOn c _ = c1
  obtain ⟨fails, sats, vats, insts⟩ := traceEv_frame c1 5 op.prio 1 v op.flow op.iter op.opid 0
  replace insts := insts.trans (show c1.x.rnt.insts = (setInst c.x.rnt { i with st := .saved v yl }).insts by
    rw [← hc1]; simp [rOn, hi])
  replace vats := vats.trans (show c1.x.vats = c.x.vats from hc1 ▸ rfl)
  generalize traceEv c1 5 op.prio 1 v op.flow op.iter op.opid 0 = c2 at *
  have none_ready : (readyFor (onVat c2.x v vatFreed) v).filter
      (fun p => !(p.2.ctx == op.ctx && p.2.opid == op.opid && p.2.iter == op.iter)) = [] := by
    refine List.filter_eq_nil_iff.mpr fun p hp => ?_
    obtain ⟨mem, ready⟩ := readyFor_inst hp
    rw [onVat_rnt, insts] at mem
    rcases mem_setInst mem with e | ⟨mem, other⟩
    · simp [e, ectx, eopid, eiter]
    · rw [ectx, eopid, eiter] at other
      simp [hr _ mem other] at ready
  unfold vatFreed at none_ready
  simp only [none_ready]
  refine ⟨fails.trans (hc1 ▸ rfl), sats.trans (hc1 ▸ rfl), ?_, insts⟩
  simp only [onVat, setVat, vatOf, vats, vatFreed]

end Sys2Proof.Machine
end

section
/-!
SUPPORT. The restore of a saved vat operation (R124, R172): what its repeated pre-pass and MCVT recover, how it ends on a
damaged area, and from these the life of a saved operation.
-/

namespace Sys2Proof.Machine

open Sys2Proof Sys2Proof.Safety

/-! ## The table of a tile's outputs -/

theorem tget_zipIdx_nondefault {α : Type} [DecidableEq α] (d : α) (l : List α) (n i : Nat) (hi : i < l.length) :
    tget d (((l.zipIdx n).filter fun p => p.1 ≠ d).map fun p => (p.2, p.1)) (n + i) = l[i] := by
  induction l generalizing n i with
  | nil => simp at hi
  | cons a l ih =>
    rw [List.zipIdx_cons, List.filter_cons]
    cases i with
    | zero =>
      by_cases ha : a = d
      · have later : ∀ c ∈ ((l.zipIdx (n + 1)).filter fun p => p.1 ≠ d).map (fun p => (p.2, p.1)), c.1 ≠ n := by
          intro c hc
          obtain ⟨p, hp, rfl⟩ := List.mem_map.mp hc
          have := List.le_snd_of_mem_zipIdx (List.mem_filter.mp hp).1
          dsimp only
          omega
        simpa [ha, tget] using tget_append_miss d _ [] n later
      · simp [ha, tget]
    | succ i =>
      have e : n + (i + 1) = n + 1 + i := by omega
      have tail := ih (n + 1) i (by simpa using hi)
      by_cases ha : a = d
      · simpa [ha, e] using tail
      · simpa [ha, e, tget, show n ≠ n + 1 + i by omega] using tail

/-- A tile reads at each of its 4096 outputs what its table was built from. -/
theorem tileOut_outsOf (t : Tile) (f : Nat → TileOut) {i : Nat} (hi : i < 4096) :
    tileOut { t with outs := outsOf ((upto 4096).map f) } i = f i := by
  have := tget_zipIdx_nondefault {} ((upto 4096).map f) 0 i (by simpa [upto] using hi)
  simpa [tileOut, outsOf, upto] using this

/-! ## What a restore repeats -/

/-- `t'` recovers the saved tile `t` (R172): every W and flag is as saved, and everything of a tile without a MANC. -/
def Recovered (t t' : Tile) : Prop :=
  (∀ i, i < 4096 → (tileOut t' i).w = (tileOut t i).w ∧ (tileOut t' i).flags = (tileOut t i).flags) ∧
  (t.manc = none → t' = t)

theorem Recovered.refl (t : Tile) : Recovered t t := ⟨fun _ _ => ⟨rfl, rfl⟩, fun _ => rfl⟩

/-- New anchors for a tile with a MANC recover it. -/
theorem recovered_of_anchors {t : Tile} (hm : t.manc ≠ none) (f : Nat → Option Int) :
    Recovered t { t with outs := outsOf ((upto 4096).map fun i => { tileOut t i with anchor := f i }) } := by
  refine ⟨fun i hi => ?_, fun h => absurd h hm⟩
  rw [tileOut_outsOf t _ hi]
  exact ⟨rfl, rfl⟩

/-- `c'` is the slot context `c` after reads corrected single-bit errors. -/
def SlotCorrected (c c' : VCtx) : Prop := c'.v = c.v ∧ Corrected c.x c'.x

theorem SlotCorrected.refl (c : VCtx) : SlotCorrected c c := ⟨rfl, .refl c.x⟩

theorem SlotCorrected.trans {a b c : VCtx} (h : SlotCorrected a b) (h' : SlotCorrected b c) : SlotCorrected a c :=
  ⟨h'.1.trans h.1, h.2.trans h'.2⟩

theorem slotCorrected_bankCorrect (c : VCtx) (off n : Nat) : SlotCorrected c (bankCorrect c off n) :=
  ⟨rfl, corrected_caveCorrect ..⟩

theorem slotCorrected_correctIndex (c : VCtx) (d : Desc) (rows : List Nat) : SlotCorrected c (correctIndex c d rows) := by
  unfold correctIndex
  split
  · exact List.foldlRecOn (motive := SlotCorrected c) _ _ (.refl c) fun b hb r _ => hb.trans (slotCorrected_bankCorrect b _ _)
  · exact .refl c

theorem slotCorrected_correctScales (c : VCtx) (d : Desc) (rows : List Nat) : SlotCorrected c (correctScales c d rows) := by
  unfold correctScales
  split
  · exact .refl c
  · refine List.foldlRecOn (motive := SlotCorrected c) _ _ (.refl c) fun b hb r _ => ?_
    have index := hb.trans (slotCorrected_correctIndex b d [r])
    dsimp only
    split
    · split
      · exact index.trans (slotCorrected_bankCorrect _ _ _)
      · exact index
    · exact index

/-- From `c` to `c'` the Cave is the same, and of the vat only tile `n`, which is recovered, and the error and statistics
registers differ. -/
def TileRepeated (c c' : VCtx) (n : Nat) : Prop :=
  c'.v = c.v ∧ c'.x.cave = c.x.cave ∧ ∃ t g, Recovered (tileGet (vNow c) n) t ∧
    vatOf c'.x c.v = { vatOf c.x c.v with prog := tileSet (vNow c) n t, regs := g }

theorem tileSet_tileGet (r : VatProg) (n : Nat) : tileSet r n (tileGet r n) = r := by
  unfold tileSet tileGet
  split <;> rfl

theorem TileRepeated.refl (c : VCtx) (n : Nat) : TileRepeated c c n :=
  ⟨rfl, rfl, _, (vatOf c.x c.v).regs, .refl _, by rw [tileSet_tileGet]; rfl⟩

/-- Repeating a MANC recovers its tile. -/
theorem repeatManc_recovers {c c' : VCtx} {n : Nat} (h : repeatManc c n = .ok c') : TileRepeated c c' n := by
  unfold repeatManc at h
  dsimp only at h
  split at h
  · exact Except.ok.inj h ▸ .refl c n
  · next m hm =>
    split at h
    · exact Except.ok.inj h ▸ .refl c n
    · split at h
      · split at h
        · cases h
        · next ls _ =>
          obtain ⟨sameVat, cave, vats⟩ := (slotCorrected_correctScales _ _ _).trans
            (Except.ok.inj h ▸ slotCorrected_correctScales _ _ _)
          obtain ⟨g, hg⟩ := vats c.v
          refine ⟨sameVat, cave, _, g, recovered_of_anchors (by simp [hm]) (fun i => some (nth 0 ls i)), hg.trans ?_⟩
          simp [putTile, vProg, vOn, vNow]
      · cases h
      · cases h

/-- Repeating an MCVT changes the staging buffer where it was valid, and nothing else. -/
theorem repeatMcvt_staging {c c' : VCtx} (h : repeatMcvt c = .ok c') :
    c'.x.cave = c.x.cave ∧ ∃ g, ((vNow c).staging = none → g = none) ∧
      vatOf c'.x c.v = { vatOf c.x c.v with prog := { vNow c with staging := g } } := by
  unfold repeatMcvt at h
  dsimp only at h
  split at h
  · next hs => exact Except.ok.inj h ▸ ⟨rfl, _, fun e => e, rfl⟩
  · next hs =>
    split at h
    · cases h
    · split at h
      · cases h
      · obtain rfl := Except.ok.inj h
        exact ⟨rfl, _, fun e => by simp [hs] at e, vatOf_onVat_self ..⟩

/-- What a restore's repetitions leave: both tiles recovered, the staging buffer still invalid where it was, and nothing
else of the registers or the Cave changed (R172). -/
theorem restoreRepeat_recovers {x z : Wheel} {v : Nat} (h : restoreRepeat x v = .ok z) :
    z.cave = x.cave ∧ ∃ t0 t1 g r, Recovered (vatOf x v).prog.c0 t0 ∧ Recovered (vatOf x v).prog.c1 t1 ∧
      ((vatOf x v).prog.staging = none → g = none) ∧
      vatOf z v = { vatOf x v with prog := { (vatOf x v).prog with c0 := t0, c1 := t1, staging := g }, regs := r } := by
  unfold restoreRepeat at h
  dsimp only at h
  split at h
  · cases h
  · next c1 h1 =>
    split at h
    · cases h
    · next c2 h2 =>
      obtain ⟨c3, h3, rfl⟩ : ∃ c3, repeatMcvt c2 = .ok c3 ∧ c3.x = z := by
        cases e : repeatMcvt c2 with
        | error => rw [e] at h; cases h
        | ok c3 => rw [e] at h; exact ⟨c3, rfl, Except.ok.inj h⟩
      obtain ⟨v1, cave1, t0, r0, rec0, e1⟩ := repeatManc_recovers h1
      obtain ⟨v2, cave2, t1, r1, rec1, e2⟩ := repeatManc_recovers h2
      obtain ⟨cave3, g, stag, e3⟩ := repeatMcvt_staging h3
      have v1 : c1.v = v := v1
      rw [v1] at v2 e2
      simp only [vNow, v1, v2, e1, e2] at rec0 rec1 stag e3
      exact ⟨cave3.trans (cave2.trans cave1), t0, t1, g, r1, rec0, rec1, stag, e3⟩

/-! ## RESTORE -/

theorem areaCode_of_ok {x : Wheel} {v k : Nat} (h : areaOk x v k = true) : areaCode x v k = 0 := by
  have readable : caveUncorr x (bankAddr v (slotOffset x.saveSlots k)) saveSlotBytes = false := by
    simp only [areaOk, Bool.and_eq_true, Bool.not_eq_true'] at h
    exact h.1
  simp [areaCode, readable, h]

theorem areaCode_of_bad {x : Wheel} {v k : Nat} (h : areaOk x v k = false) : areaCode x v k =
    if caveUncorr x (bankAddr v (slotOffset x.saveSlots k)) saveSlotBytes then 0x0101 else 0x0104 := by
  simp [areaCode, h]

/-- The wheel as a restore finds it after the read of the area: the slot's operation on the vat, the slot freed. -/
def restoreBase (x : Wheel) (v k : Nat) (sv : SavedOp) : Wheel :=
  onVat (caveCorrect (caveShow x (bankAddr v 0) bankBytes) (bankAddr v (slotOffset x.saveSlots k)) saveSlotBytes) v
    (fun t => restored t k sv)

theorem restoreBase_cave (x : Wheel) (v k : Nat) (sv : SavedOp) : (restoreBase x v k sv).cave = x.cave :=
  (corrected_caveCorrect _ _ _).1

theorem restoreBase_vat (x : Wheel) (v k : Nat) (sv : SavedOp) : ∃ t, vatOf (restoreBase x v k sv) v = restored t k sv :=
  ⟨_, vatOf_onVat_self _ _ _⟩

theorem restored_slot_free (t : Vat) (k : Nat) (sv : SavedOp) : ∀ q ∈ (restored t k sv).saved, q.1 ≠ k := by
  simp [restored]

section Restore

variable {x : Wheel} {v k : Nat} {op : OpRef} {sv : SavedOp}
  (ho : (vatOf x v).op = some op) (hr : (vatOf x v).restoring = some k) (hst : (vatOf x v).st = .restore)
  (hs : (vatOf x v).saved.find? (fun q => q.1 == k) = some (k, sv))
include ho hr hst hs

/-- A damaged area ends the operation with its code (R112, R124). -/
theorem vatRestore_bad (ha : areaOk x v k = false) :
    vatRestore x v = raiseAt (restoreBase x v k sv) v (areaCode x v k) sv.prog.pc 0 := by
  have code : areaCode x v k ≠ 0 := by
    rw [areaCode_of_bad ha]
    split <;> decide
  simp only [vatRestore, ho, hr, hst, hs, restoreBase, ne_eq, not_true_eq_false, code, not_false_eq_true, if_false, if_true]

/-- An intact area and repetitions that raise nothing: the operation goes on (R124, R172). -/
theorem vatRestore_done {z : Wheel} (ha : areaOk x v k = true) (hw : sv.wait = none) (hf : sv.fault = none)
    (hz : restoreRepeat (restoreBase x v k sv) v = .ok z) : vatRestore x v = onVat z v issueTiles := by
  obtain ⟨-, t0, t1, g, r, -, -, -, vat⟩ := restoreRepeat_recovers hz
  obtain ⟨t, base⟩ := restoreBase_vat x v k sv
  have noWait : (vatOf (onVat z v issueTiles) v).wait = none := by
    simp [vat, base, issueTiles, restored, hw]
  unfold restoreBase at hz
  simp only [vatRestore, ho, hr, hst, hs, areaCode_of_ok ha, hf, hz, ne_eq, not_true_eq_false, if_false]
  simp only [deliverHandle, noWait]

end Restore

/-- The vat after a restore that succeeds, against the slot's operation. -/
theorem restoreRepeat_restored {x z : Wheel} {v k : Nat} {sv : SavedOp} (hw : sv.wait = none)
    (hz : restoreRepeat (restoreBase x v k sv) v = .ok z) :
    let t := vatOf (onVat z v issueTiles) v
    { t.prog with c0 := sv.prog.c0, c1 := sv.prog.c1, staging := sv.prog.staging } = sv.prog ∧
    (∀ c, Recovered (tileGet sv.prog c) (tileGet t.prog c)) ∧ (sv.prog.staging = none → t.prog.staging = none) ∧
    t.st = .run ∧ t.record = sv.record ∧ t.fin = none ∧ (∀ q ∈ t.saved, q.1 ≠ k) ∧ z.cave = x.cave := by
  obtain ⟨cave, t0, t1, g, r, rec0, rec1, stag, vat⟩ := restoreRepeat_recovers hz
  obtain ⟨t, base⟩ := restoreBase_vat x v k sv
  have free := restored_slot_free t k sv
  rw [base] at rec0 rec1 stag vat
  simp only [vatOf_onVat_self, vat, issueTiles]
  refine ⟨rfl, fun c => ?_, stag, by simp [restored, hw], rfl, rfl, free, cave.trans (restoreBase_cave ..)⟩
  unfold tileGet
  split
  · exact rec0
  · exact rec1

/-- Outside an MMA a pre-emption leaves no choice to the clock. -/
theorem exec_preemption_outside {s : State} {w : Fin 8} {v : Fin 32} (h : insideMma (vatAt s w v) = false) :
    exec (.preemption w v) s = .next (onWheel s w fun x => vatPreempt x v 0) := by
  unfold vatAt at h
  change execPreemption w v s = _
  simp only [execPreemption, h, Bool.false_eq_true, if_false]
  rfl

/-- Settles O13: a yield and a pre-emption start a save (`vatYield_saves`, `vatPreempt_saves`); SAVE_DONE frees the vat
(`saveDone_alone`); RESTORE goes on (`vatRestore_done`) or ends on a damaged area (`vatRestore_bad`). -/
theorem vatSaveAndRestore : Obligations.VatSaveAndRestore := by
  refine ⟨fun s w v op k => ⟨?yields, ?preempts⟩, fun s w v op k yl i sv => ⟨?done, ?restores⟩⟩
  case yields =>
    intro ho hf hb hst hq hw hr
    refine ⟨_, rfl, ?_⟩
    obtain ⟨save, saving, saved, area, others, hoops⟩ := vatYield_saves ho hf hb hst hq hw hr
    simp only [vatAt, wheelOf_onWheel_self]
    exact ⟨save, saving, saved, area, others, hoops, fun u hu => wheelOf_onWheel_ne _ _ _ _ hu⟩
  case preempts =>
    intro ho hf hb he
    refine ⟨_, exec_preemption_outside (not_insideMma_of_atBoundary hb), ?_⟩
    obtain ⟨save, saving, saved, area, others, hoops⟩ := vatPreempt_saves 0 ho hf hb he
    simp only [vatAt, wheelOf_onWheel_self]
    exact ⟨⟨save, saving, saved, area, others, hoops, fun u hu => wheelOf_onWheel_ne _ _ _ _ hu⟩, rfl⟩
  case done =>
    intro ho hs hst hc hi hr
    refine ⟨_, rfl, ?_⟩
    obtain ⟨fails, sats, vats, insts⟩ := saveDone_alone (c := { x := wheelOf s w, w := w }) ho hs hst hc hi hr
    obtain ⟨vats', insts'⟩ := rRun_quiet s w (fun c => saveDone c v) fails sats
    have vat : vatAt (rRun s w fun c => saveDone c v) w v = vatFreed (vatAt s w v) := by
      rw [vatAt, vatOf, vats', vats]
      exact vatOf_onVat_self _ _ _
    have inst : findInst (wheelOf (rRun s w fun c => saveDone c v) w).rnt op.ctx op.opid op.iter =
        some { i with st := .saved v yl } := by
      rw [findInst, insts', insts]
      exact findInst_setInst_self hi (show sameInst i _ _ _ = true from findInst_same hi)
    rw [vat]
    exact ⟨inst, rfl, rfl, rfl, rfl⟩
  case restores =>
    intro ho hr hst hs
    refine ⟨fun ha hw hf z hz => ?_, fun ha => ?_⟩
    · refine ⟨_, rfl, ?_⟩
      obtain ⟨regs, tiles, stag, run, record, fin, free, cave⟩ := restoreRepeat_restored hw hz
      simp only [vatAt, wheelOf_onWheel_self, vatRestore_done ho hr hst hs ha hw hf hz]
      exact ⟨regs, fun c i _ hi => (tiles c).1 i hi, fun c => (tiles c).2, stag, run, record, fin, free, cave⟩
    · refine ⟨_, rfl, ?_⟩
      obtain ⟨t, base⟩ := restoreBase_vat (wheelOf s w) v k sv
      simp only [vatAt, wheelOf_onWheel_self, vatRestore_bad ho hr hst hs ha, areaCode_of_bad ha, raiseAt, vatOf_onVat_self,
        base, true_and]
      exact restored_slot_free t k sv

end Sys2Proof.Machine
end

section
/-!
SUPPORT. Predicate instructions of a press that waits for output credits (R196): its work does not move, so none of the
predicate program's statements holds there.
-/

namespace Sys2Proof.Machine

open Sys2Proof Sys2Proof.Safety

/-- The work after an instruction is never the work before it: the instruction or the group counts on. -/
theorem predNext_ne_self (desc : List Byte) (wk : PWork) (q : List (Nat × Lane)) : predNext desc wk q ≠ wk := by
  intro h
  unfold predNext at h
  split at h
  · simpa using congrArg PWork.group h
  · simpa using congrArg PWork.ip h

/-- A press in OUT_WAIT runs no instruction (R196). -/
theorem predRow_outWait {x : Wheel} {p : Nat} (h : (pressOf x p).st = .outWait) (op d a b : Nat) (k : Bool) (imm : Nat) :
    predRow x p op d a b k imm = x := by
  replace h : (engOf x (pressUnit p)).st = .outWait := h
  unfold predRow
  dsimp only
  split
  · rfl
  · exact if_neg fun ⟨_, _, _, _, running, _⟩ => running h

/-- In OUT_WAIT no predicate instruction does what it writes, though it is the next of the program. -/
theorem not_predWrites_outWait {s : State} {w p : Nat} {c : Instr} {op d a b : Nat} {k : Bool} {imm : Nat} {wk : PWork}
    {g : PWork → Nat → Lane} (hc : exec c s = predCmd w p op d a b k imm s) (hst : (pressOf (wheelOf s w) p).st = .outWait)
    (hat : PredAt s w p (predEncode op d a b k imm) wk) : ¬ PredWrites s w p c op d a b k imm g := by
  intro hw
  obtain ⟨t, ht, q, -, -, moved, -⟩ := hw wk hat
  obtain ⟨work, -⟩ := hat
  have still : wheelOf t w = wheelOf s w := by
    obtain rfl := Host.Outcome.next.inj (hc.symm.trans ht)
    rw [wheelOf_onWheel_self, predRow_outWait hst]
  rw [still] at moved
  exact predNext_ne_self _ wk q (Option.some.inj ((congrArg Eng.work moved).symm.trans work))

/-- A program of one instruction, with registers Q0 and IMM 0. -/
def oneInstr (op : Nat) : List Byte :=
  leBytes 8 (1 + 2 ^ 60) ++ leBytes 24 0 ++ leBytes 8 (predEncode op 0 0 0 false 0)

/-- The work of a curd of two groups with this program after the first of them, which selected no row. -/
def secondGroup (op : Nat) : PWork := { prog := oneInstr op, limit := 2, group := 1, sel := List.replicate 64 false }

/-- A press whose curd of 128 rows, with PRED_EN, waits for output credits before its second group. -/
def creditWait (op : Nat) : State :=
  { wheels := [(0, { presses := [(0, { st := .outWait, op := some ⟨0, 0, 0, 0, 0, 0, 0⟩
                                       desc := leBytes 8 (128 + 2 ^ 54 + 2 ^ 60) ++ leBytes 56 0
                                       work := some (secondGroup op) })] })] }

/-- The waiting press has come to the instruction. -/
theorem creditWait_predAt : ∀ op ∈ [0x03, 0x18, 0x28],
    PredAt (creditWait op) 0 0 (predEncode op 0 0 0 false 0) (secondGroup op) := by
  have word : ∀ op ∈ [0x03, 0x18, 0x28], predWord (oneInstr op) 0 = predEncode op 0 0 0 false 0 := by decide +kernel
  exact fun op hop => ⟨rfl, Nat.one_lt_two, word op hop, rfl, rfl⟩

/-- Refutes O16: `PredAt` admits a press in OUT_WAIT, where LDNULL is next and does not run. -/
theorem not_predicateArithmetic : ¬ Obligations.PredicateArithmetic := by
  intro h
  obtain ⟨-, ldnull, -⟩ := h (creditWait 0x03) 0 0 0 0 0 false 0
  exact not_predWrites_outWait rfl rfl (creditWait_predAt 0x03 (by decide)) ldnull

/-- Refutes O17: `PredAt` admits a press in OUT_WAIT, where EQ is next and does not run. -/
theorem not_predicateComparisons : ¬ Obligations.PredicateComparisons := by
  intro h
  obtain ⟨eq, -⟩ := h (creditWait 0x18) 0 0 0 0 0 false 0
  exact not_predWrites_outWait rfl rfl (creditWait_predAt 0x18 (by decide)) eq

/-- Refutes O18: `PredAt` admits a press in OUT_WAIT, where LAND is next and does not run. -/
theorem not_predicateLogic : ¬ Obligations.PredicateLogic := by
  intro h
  obtain ⟨land, -⟩ := h (creditWait 0x28) 0 0 0 0 0 false 0
  exact not_predWrites_outWait rfl rfl (creditWait_predAt 0x28 (by decide)) land

end Sys2Proof.Machine
end

section
/-!
SUPPORT. What taking input and delivering output leave of an engine (R196, R380–R383): its task stays, every buffer of its
output streams is put in its hoop, and nothing else is.
-/

namespace Sys2Proof.Machine

/-! ## The engine of a unit -/

@[simp] theorem engOf_setEng_self (x : Wheel) (u : UnitId) (e : Eng) : engOf (setEng x u e) u = e := by
  unfold engOf setEng
  split <;> simp [pressOf, setPress, ladleOf, setLadle, graderOf, setGrader]

@[simp] theorem engOf_onEng_self (x : Wheel) (u : UnitId) (f : Eng → Eng) : engOf (onEng x u f) u = f (engOf x u) :=
  engOf_setEng_self ..

theorem setEng_setEng (x : Wheel) (u : UnitId) (e e' : Eng) : setEng (setEng x u e) u e' = setEng x u e' := by
  unfold setEng
  split <;> simp [setPress, setLadle, setGrader]

/-- Two updates of an engine are one. -/
theorem onEng_onEng (x : Wheel) (u : UnitId) (f g : Eng → Eng) : onEng (onEng x u f) u g = onEng x u (fun e => g (f e)) := by
  rw [onEng, engOf_onEng_self, onEng, setEng_setEng, onEng]

theorem onEng_congr {x : Wheel} {u : UnitId} {f g : Eng → Eng} (h : f (engOf x u) = g (engOf x u)) :
    onEng x u f = onEng x u g := by
  rw [onEng, h, onEng]

@[simp] theorem hoopOf_onEng (x : Wheel) (u : UnitId) (f : Eng → Eng) (h : Nat) : hoopOf (onEng x u f) h = hoopOf x h := by
  unfold onEng setEng
  split <;> rfl

@[simp] theorem engOf_onHoop (x : Wheel) (h : Nat) (f : Hoop → Hoop) (u : UnitId) : engOf (onHoop x h f) u = engOf x u := rfl
@[simp] theorem engOf_caveWrite (x : Wheel) (a : Nat) (bs : List Byte) (u : UnitId) : engOf (caveWrite x a bs) u = engOf x u := rfl

@[simp] theorem hoopOf_caveWrite (x : Wheel) (a : Nat) (bs : List Byte) (h : Nat) : hoopOf (caveWrite x a bs) h = hoopOf x h := rfl

@[simp] theorem engOf_caveCorrect (x : Wheel) (a n : Nat) (u : UnitId) : engOf (caveCorrect x a n) u = engOf x u :=
  List.foldlRecOn (motive := fun y => engOf y u = engOf x u) _ _ rfl fun _ hy _ _ => hy

/-! ## The task of an engine -/

/-- `e'` is `e` but for its input, its output and its registers: the operation, its work and its end are the same. -/
def SameTask (e e' : Eng) : Prop :=
  ∃ acc held outs irrev regs, e' = { e with acc := acc, held := held, outs := outs, irrev := irrev, regs := regs }

theorem SameTask.refl (e : Eng) : SameTask e e := ⟨_, _, _, _, _, rfl⟩

theorem SameTask.trans {a b c : Eng} (h : SameTask a b) (h' : SameTask b c) : SameTask a c := by
  obtain ⟨_, _, _, _, _, rfl⟩ := h
  obtain ⟨_, _, _, _, _, rfl⟩ := h'
  exact ⟨_, _, _, _, _, rfl⟩

section Fields

variable {e e' : Eng} (h : SameTask e e')
include h

theorem SameTask.work : e'.work = e.work := by obtain ⟨_, _, _, _, _, rfl⟩ := h; rfl
theorem SameTask.pend : e'.pend = e.pend := by obtain ⟨_, _, _, _, _, rfl⟩ := h; rfl
theorem SameTask.outP : e'.outP = e.outP := by obtain ⟨_, _, _, _, _, rfl⟩ := h; rfl

end Fields

/-! ## Taking input -/

theorem engTake_sameTask (x : Wheel) (u : UnitId) (port h need kIn : Nat) :
    SameTask (engOf x u) (engOf (engTake x u port h need kIn) u) := by
  unfold engTake
  split
  · exact .refl _
  · simp only [engOf_onEng_self, hoopRelease, engOf_onHoop, engOf_caveCorrect]
    exact ⟨_, _, _, _, _, rfl⟩

theorem pullPort_sameTask (u : UnitId) (port need kIn n : Nat) (x : Wheel) :
    SameTask (engOf x u) (engOf (pullPort u port need kIn n x) u) := by
  induction n generalizing x with
  | zero => exact .refl _
  | succ n ih =>
    unfold pullPort
    split
    · exact .refl _
    · split
      · exact .refl _
      · split
        · exact .refl _
        · exact (engTake_sameTask ..).trans (ih _)

/-- Taking input leaves the task. -/
theorem pullAll_sameTask (u : UnitId) (kIn : Nat) (ps : List (Nat × Nat)) (x : Wheel) :
    SameTask (engOf x u) (engOf (pullAll u kIn ps x) u) := by
  refine List.foldlRecOn (motive := fun y => SameTask (engOf x u) (engOf y u)) _ _ (.refl _) fun y hy p _ => ?_
  split
  · exact hy
  · exact hy.trans (pullPort_sameTask ..)

/-! ## Obtaining buffers -/

/-- From `x` to `y` the engine only obtained buffers: no put began. -/
structure Obtained (u : UnitId) (x y : Wheel) : Prop where
  eng : ∃ held, engOf y u = { engOf x u with held := held }
  puts : ∀ h, (hoopOf y h).puts = (hoopOf x h).puts

theorem Obtained.refl (u : UnitId) (x : Wheel) : Obtained u x x := ⟨⟨_, rfl⟩, fun _ => rfl⟩

theorem Obtained.trans {u : UnitId} {x y z : Wheel} (h : Obtained u x y) (h' : Obtained u y z) : Obtained u x z := by
  obtain ⟨⟨held, eng⟩, puts⟩ := h
  obtain ⟨⟨held', eng'⟩, puts'⟩ := h'
  exact ⟨⟨held', by rw [eng', eng]⟩, fun h => (puts' h).trans (puts h)⟩

theorem hoopObtain_puts (x : Wheel) (h k j : Nat) : (hoopOf (hoopObtain x h k) j).puts = (hoopOf x j).puts := by
  unfold hoopObtain
  by_cases hj : j = h
  · subst hj; simp
  · rw [hoopOf_onHoop_ne _ _ _ _ hj]

theorem engObtain_obtained (x : Wheel) (u : UnitId) (port : Nat) : Obtained u x (engObtain x u port) := by
  unfold engObtain
  split
  · exact .refl ..
  · split
    · exact .refl ..
    · refine ⟨⟨_, engOf_onEng_self ..⟩, fun j => ?_⟩
      rw [hoopOf_onEng, hoopObtain_puts]

theorem obtainPort_obtained (u : UnitId) (port n : Nat) (x : Wheel) : Obtained u x (obtainPort u port n x) := by
  induction n generalizing x with
  | zero => exact .refl ..
  | succ n ih => exact (engObtain_obtained x u port).trans (ih _)

theorem obtainAll_obtained (x : Wheel) (u : UnitId) : Obtained u x (obtainAll x u) :=
  List.foldlRecOn (motive := Obtained u x) _ _ (.refl ..) fun _ hy _ _ => hy.trans (obtainPort_obtained ..)

/-- Asking for the credits of a group obtains buffers and no more (R196). -/
theorem outObtain_obtained {x y : Wheel} {u : UnitId} {lens : List (Nat × Nat × Nat)} {all : Bool}
    (h : outObtain x u lens = .ok (y, all)) : Obtained u x y := by
  unfold outObtain at h
  dsimp only at h
  split at h
  · cases h
  · obtain ⟨rfl, -⟩ := Prod.mk.inj (Except.ok.inj h)
    exact List.foldlRecOn (motive := Obtained u x) _ _ (.refl ..) fun _ hy _ _ => hy.trans (obtainPort_obtained ..)

/-! ## Putting buffers -/

/-- The puts under way in a hoop: the producers with their lengths. -/
def putsOf (x : Wheel) (h : Nat) : List (UnitId × Nat) := (hoopOf x h).puts.map fun q => (q.1, q.2.len)

/-- The puts that output streams make in a hoop. -/
def streamPuts (u : UnitId) (outP : List (Nat × Nat)) (h : Nat) (outs : List OutStream) : List (UnitId × Nat) :=
  outs.flatMap fun o => if portHoop outP o.port = some h then o.bufs.map (fun b => (u, b.length)) else []

theorem putsFrom_iff (x : Wheel) (t : State) (w : Nat) (u : UnitId) (outP : List (Nat × Nat)) (outs : List OutStream) :
    Safety.PutsFrom x t w u outP outs ↔ ∀ h, putsOf (wheelOf t w) h = putsOf x h ++ streamPuts u outP h outs := Iff.rfl

/-- Buffers an engine holds on a port. -/
def heldOn (e : Eng) (port : Nat) : Nat := (e.held.filter (fun p => p.1 == port)).length

/-- From `x` to `y` the engine put buffers of these lengths on a port, each in one that it held there. -/
structure PutOn (u : UnitId) (port : Nat) (lens : List Nat) (x y : Wheel) : Prop where
  task : SameTask (engOf x u) (engOf y u)
  puts : ∀ h, putsOf y h = putsOf x h ++ if portHoop (engOf x u).outP port = some h then lens.map (fun n => (u, n)) else []
  held : ∀ q, heldOn (engOf x u) q ≤ heldOn (engOf y u) q + if q = port then lens.length else 0

theorem PutOn.refl (u : UnitId) (port : Nat) (x : Wheel) : PutOn u port [] x x :=
  ⟨.refl _, by simp, by simp⟩

theorem PutOn.trans {u : UnitId} {port : Nat} {l l' : List Nat} {x y z : Wheel} (h : PutOn u port l x y)
    (h' : PutOn u port l' y z) : PutOn u port (l ++ l') x z := by
  obtain ⟨task, puts, held⟩ := h
  obtain ⟨task', puts', held'⟩ := h'
  refine ⟨task.trans task', fun h => ?_, fun q => ?_⟩
  · rw [puts', puts, task.outP]
    split <;> simp
  · have := held q
    have := held' q
    split <;> simp_all <;> omega

theorem putsOf_hoopPut (x : Wheel) (h : Nat) (u : UnitId) (hd : Handle) (j : Nat) :
    putsOf (hoopPut x h u hd) j = putsOf x j ++ if h = j then [(u, hd.len)] else [] := by
  unfold putsOf hoopPut
  by_cases hj : j = h
  · subst hj; simp
  · rw [hoopOf_onHoop_ne _ _ _ _ hj, if_neg (Ne.symm hj), List.append_nil]

theorem heldOn_erase (held : List (Nat × Nat)) (port i q : Nat) :
    (held.filter (fun p => p.1 == q)).length ≤
      ((held.erase (port, i)).filter (fun p => p.1 == q)).length + if q = port then 1 else 0 := by
  rw [← List.erase_filter]
  split
  · exact Nat.le_add_of_sub_le List.le_length_erase
  · next hq =>
    have absent : (port, i) ∉ held.filter (fun p => p.1 == q) := by simp [Ne.symm hq]
    exact Nat.le_of_eq (by rw [List.erase_of_not_mem absent, Nat.add_zero])

theorem find?_held {e : Eng} {port : Nat} (h : 0 < heldOn e port) :
    ∃ i, e.held.find? (fun p => p.1 == port) = some (port, i) := by
  obtain ⟨⟨p, i⟩, mem⟩ := List.exists_mem_of_length_pos h
  obtain ⟨mem, hp⟩ := List.mem_filter.mp mem
  obtain ⟨⟨q, j⟩, found⟩ := Option.isSome_iff_exists.mp
    ((List.find?_isSome (p := fun p => p.1 == port)).mpr ⟨(p, i), mem, hp⟩)
  obtain rfl : q = port := by simpa using List.find?_some found
  exact ⟨j, found⟩

/-- A put of a buffer for which one is held on the port; on a port without a hoop nothing is put. -/
theorem putBuffer_putOn {x : Wheel} {u : UnitId} {port : Nat} (kOut : Nat) (bs : List Byte) (last err fill : Bool)
    (hh : 0 < heldOn (engOf x u) port) : PutOn u port [bs.length] x (putBuffer x u kOut port bs last err fill) := by
  obtain ⟨i, found⟩ := find?_held hh
  cases hport : portHoop (engOf x u).outP port with
  | none =>
    simp only [putBuffer, hport]
    exact ⟨.refl _, by simp [hport], fun q => Nat.le_add_right ..⟩
  | some h =>
    simp only [putBuffer, hport, found]
    refine ⟨?task, fun j => ?puts, fun q => ?held⟩
    case task =>
      simp only [engOf_onEng_self, hoopPut, engOf_onHoop, engOf_caveWrite]
      exact ⟨_, _, _, _, _, rfl⟩
    case puts =>
      simp only [putsOf, hoopOf_onEng, hport, Option.some.injEq]
      exact putsOf_hoopPut (caveWrite x _ _) h u _ j
    case held =>
      simp only [heldOn, engOf_onEng_self, hoopPut, engOf_onHoop, engOf_caveWrite]
      exact heldOn_erase ..

theorem putBufs_putOn (u : UnitId) (kOut : Nat) (o : OutStream) (bufs : List (List Byte)) (x : Wheel)
    (hh : bufs.length ≤ heldOn (engOf x u) o.port) :
    PutOn u o.port (bufs.map List.length) x (putBufs u kOut o bufs x) := by
  match bufs with
  | [] => exact .refl ..
  | [b] => exact putBuffer_putOn kOut b _ _ _ hh
  | b :: c :: r =>
    have first := putBuffer_putOn kOut b false false o.fill (Nat.zero_lt_of_lt hh)
    have left := first.held o.port
    simp only [if_true, List.length_cons, List.length_nil] at hh left
    exact first.trans (putBufs_putOn u kOut o (c :: r) _ (by simp only [List.length_cons]; omega))

/-- Buffers that output streams need on a port. -/
def portNeed (outs : List OutStream) (port : Nat) : Nat :=
  ((outs.filter (fun o => o.port == port)).map (fun o => o.bufs.length)).sum

theorem outNeed_eq (e : Eng) (port : Nat) : outNeed e port = portNeed e.outs port - heldOn e port := by
  rw [outNeed, portNeed, List.sum_eq_foldl, List.foldl_map]
  rfl

/-- Every buffer is held: on each port as many as its streams need. -/
theorem portNeed_le_of_outsHeld {e : Eng} (h : outsHeld e = true) (port : Nat) : portNeed e.outs port ≤ heldOn e port := by
  by_cases hp : ∃ o ∈ e.outs, o.port = port
  · obtain ⟨o, ho, rfl⟩ := hp
    have := List.all_eq_true.mp h o ho
    rw [outNeed_eq, beq_iff_eq] at this
    omega
  · have : e.outs.filter (fun o => o.port == port) = [] := by
      simpa using hp
    simp [portNeed, this]

/-- The streams are put one after another where every buffer is held. -/
theorem putStreams_puts (u : UnitId) (kOut : Nat) (outs : List OutStream) (x : Wheel)
    (hh : ∀ q, portNeed outs q ≤ heldOn (engOf x u) q) :
    let y := outs.foldl (fun x o => putBufs u kOut o o.bufs x) x
    SameTask (engOf x u) (engOf y u) ∧ ∀ h, putsOf y h = putsOf x h ++ streamPuts u (engOf x u).outP h outs := by
  induction outs generalizing x with
  | nil => exact ⟨.refl _, by simp [streamPuts]⟩
  | cons o r ih =>
    have need : ∀ q, portNeed (o :: r) q = (if q = o.port then o.bufs.length else 0) + portNeed r q := by
      intro q
      by_cases hq : o.port = q
      · simp [portNeed, hq]
      · simp [portNeed, hq, Ne.symm hq]
    have own := hh o.port
    rw [need, if_pos rfl] at own
    obtain ⟨task, puts, held⟩ := putBufs_putOn u kOut o o.bufs x (by omega)
    obtain ⟨task', puts'⟩ := ih (putBufs u kOut o o.bufs x) fun q => by
      have := need q
      have := hh q
      have := held q
      simp only [List.length_map] at this
      omega
    refine ⟨task.trans task', fun h => ?_⟩
    rw [List.foldl_cons, puts', puts, task.outP, List.append_assoc]
    simp [streamPuts, Function.comp_def]

/-! ## Delivering the output -/

/-- From `x` to `y` the engine delivered a part of its output: in each hoop the puts made and the puts to come are the
same. -/
structure Delivered (u : UnitId) (x y : Wheel) : Prop where
  task : SameTask (engOf x u) (engOf y u)
  puts : ∀ h, putsOf y h ++ streamPuts u (engOf y u).outP h (engOf y u).outs =
    putsOf x h ++ streamPuts u (engOf x u).outP h (engOf x u).outs

theorem Delivered.refl (u : UnitId) (x : Wheel) : Delivered u x x := ⟨.refl _, fun _ => rfl⟩

theorem Delivered.trans {u : UnitId} {x y z : Wheel} (h : Delivered u x y) (h' : Delivered u y z) : Delivered u x z := by
  obtain ⟨task, puts⟩ := h
  obtain ⟨task', puts'⟩ := h'
  exact ⟨task.trans task', fun h => (puts' h).trans (puts h)⟩

theorem Obtained.delivered {u : UnitId} {x y : Wheel} (h : Obtained u x y) : Delivered u x y := by
  obtain ⟨⟨held, eng⟩, puts⟩ := h
  refine ⟨⟨_, held, _, _, _, eng⟩, fun j => ?_⟩
  rw [eng, putsOf, puts, putsOf]

theorem sameTask_setOuts (x : Wheel) (u : UnitId) (outs : List OutStream) :
    SameTask (engOf x u) (engOf (onEng x u fun e => { e with outs := outs }) u) := by
  rw [engOf_onEng_self]
  exact ⟨_, _, _, _, _, rfl⟩

theorem putAll_delivered {x : Wheel} {u : UnitId} (kOut : Nat) (hh : outsHeld (engOf x u) = true) :
    Delivered u x (putAll x u kOut) ∧ (engOf (putAll x u kOut) u).outs = [] := by
  obtain ⟨task, puts⟩ := putStreams_puts u kOut (engOf x u).outs x (portNeed_le_of_outsHeld hh)
  unfold putAll
  refine ⟨⟨task.trans (sameTask_setOuts ..), fun h => ?_⟩, by simp⟩
  simp only [putsOf, hoopOf_onEng, engOf_onEng_self] at puts ⊢
  simp [puts, streamPuts]

/-- Every step of an eager stream moves puts to come to puts made. -/
theorem eagerPut_delivered (u : UnitId) (kOut n : Nat) (x : Wheel) : Delivered u x (eagerPut u kOut n x) := by
  induction n generalizing x with
  | zero => exact .refl ..
  | succ n ih =>
    unfold eagerPut
    split
    · exact .refl ..
    · next o r houts =>
      split
      · exact .refl ..
      · split
        · next hb =>
          refine Delivered.trans ⟨sameTask_setOuts .., fun h => ?_⟩ (ih _)
          simp [putsOf, streamPuts, houts, hb]
        · next b bs hb =>
          have obtained := engObtain_obtained x u o.port
          dsimp only
          split
          · next hany =>
            refine obtained.delivered.trans (Delivered.trans ?_ (ih _))
            obtain ⟨⟨held, eng⟩, -⟩ := obtained
            have outs : (engOf (engObtain x u o.port) u).outs = o :: r := by rw [eng, houts]
            have holds : 0 < heldOn (engOf (engObtain x u o.port) u) o.port := by
              obtain ⟨p, mem, hp⟩ := List.any_eq_true.mp hany
              exact List.length_pos_of_mem (List.mem_filter.mpr ⟨mem, hp⟩)
            obtain ⟨task, puts, -⟩ := putBuffer_putOn kOut b (bs.isEmpty && o.last) (bs.isEmpty && o.err) o.fill holds
            refine ⟨task.trans (sameTask_setOuts ..), fun h => ?_⟩
            simp only [putsOf, hoopOf_onEng, engOf_onEng_self] at puts ⊢
            rw [puts, task.outP, outs]
            simp only [streamPuts, List.flatMap_cons, hb]
            split <;> simp
          · exact obtained.delivered

theorem outAdvance_delivered (x : Wheel) (u : UnitId) (kOut : Nat) : Delivered u x (outAdvance x u kOut) := by
  have eager := eagerPut_delivered u kOut (outCount (engOf x u) + 1) x
  unfold outAdvance
  dsimp only
  split
  · exact eager
  · exact eager.trans (obtainAll_obtained ..).delivered

theorem outsHeld_of_outsReady {e : Eng} (h : outsReady e = true) : outsHeld e = true := (Bool.and_eq_true_iff.mp h).2

/-- Where every buffer can be had, the engine puts its whole output and ends (R196). -/
theorem deliverOuts_ready {x : Wheel} {u : UnitId} {kOut : Nat} (f : Ended)
    (hr : outsReady (engOf (outAdvance x u kOut) u) = true) :
    let y := deliverOuts x u kOut f
    (engOf y u).fin = some f ∧ (engOf y u).work = (engOf x u).work ∧ (engOf y u).outs = [] ∧
      ∀ h, putsOf y h = putsOf x h ++ streamPuts u (engOf x u).outP h (engOf x u).outs := by
  obtain ⟨delivered, done⟩ := putAll_delivered kOut (outsHeld_of_outsReady hr)
  obtain ⟨task, puts⟩ := (outAdvance_delivered x u kOut).trans delivered
  simp only [deliverOuts, hr, if_true, engOf_onEng_self]
  refine ⟨trivial, task.work, done, fun h => ?_⟩
  have := puts h
  rw [done] at this
  simpa [putsOf, streamPuts] using this

end Sys2Proof.Machine
end

section
/-!
SUPPORT. The end of a curd (R196, R205, R209) and the cancellation of a press operation (R211, R212).
-/

namespace Sys2Proof.Machine

open Sys2Proof Sys2Proof.Safety

/-! ## The last group -/

/-- `w'` is the work `w` at the next group's first instruction. -/
structure GroupDone (w w' : PWork) : Prop where
  group : w'.group = w.group + 1
  ip : w'.ip = 0
  limit : w'.limit = w.limit
  more : w'.more = w.more
  fail : w'.fail = w.fail

theorem workStep_next {desc : List Byte} {w : PWork} (h : w.ip + 1 ≠ predNinstr w.prog) :
    ∃ q, workStep desc w = { w with q := q, ip := w.ip + 1 } := ⟨_, if_neg h⟩

theorem workStep_last {desc : List Byte} {w : PWork} (h : w.ip + 1 = predNinstr w.prog) : GroupDone w (workStep desc w) := by
  rw [workStep, if_pos h]
  exact ⟨rfl, rfl, rfl, rfl, rfl⟩

/-- As many instructions as the program has left end the group. -/
theorem workSteps_groupDone (desc : List Byte) (n : Nat) (w : PWork) (hn : w.ip + (n + 1) = predNinstr w.prog) :
    GroupDone w (workSteps desc (n + 1) w) := by
  induction n generalizing w with
  | zero => exact workStep_last hn
  | succ n ih =>
    obtain ⟨q, next⟩ := workStep_next (desc := desc) (w := w) (by omega)
    rw [workSteps, next]
    obtain ⟨group, ip, limit, more, fail⟩ := ih { w with q := q, ip := w.ip + 1 } (by dsimp only; omega)
    exact ⟨group, ip, limit, more, fail⟩

theorem groupRun_groupDone {desc : List Byte} {w : PWork} (h : curdPredEn desc = true → w.ip < predNinstr w.prog) :
    GroupDone w (groupRun desc w) := by
  unfold groupRun
  split
  · next hp =>
    have left := h hp
    obtain ⟨n, hn⟩ := Nat.exists_eq_add_of_lt left
    rw [show predNinstr w.prog - w.ip = n + 1 by omega]
    exact workSteps_groupDone desc n w (by omega)
  · exact ⟨rfl, rfl, rfl, rfl, rfl⟩

/-! ## The end of a curd -/

theorem outBytes_onEng (x : Wheel) (u : UnitId) (f : Eng → Eng) {e e' : Eng} (hp : e'.outP = e.outP) (port : Nat) :
    outBytes (onEng x u f) e' port = outBytes x e port := by
  unfold outBytes
  rw [hp]
  split <;> simp

/-- The streams of a curd depend on the wheel's hoops, the descriptor and the output ports alone. -/
theorem curdOuts_onEng (x : Wheel) (u : UnitId) (f : Eng → Eng) {e e' : Eng} (hd : e'.desc = e.desc) (hp : e'.outP = e.outP)
    (cols : List ColData) (sel : List Bool) : curdOuts (onEng x u f) e' cols sel = curdOuts x e cols sel := by
  simp only [curdOuts, outStream, outBytes_onEng x u f hp, hd]

theorem outTooLong_onEng (x : Wheel) (u : UnitId) (f : Eng → Eng) {e e' : Eng} (hp : e'.outP = e.outP) :
    outTooLong (onEng x u f) e' = outTooLong x e := by
  funext o
  unfold outTooLong
  rw [hp]
  split <;> simp

/-- The credits of the groups done, as a curd asks for them before its next group (R196). -/
def groupCredits (x : Wheel) (u : UnitId) (desc : List Byte) (wk : PWork) : Except Nat (Wheel × Bool) :=
  if wk.ip = 0 ∧ 0 < wk.group ∧ wk.group < curdGroups desc then outObtain x u (curdOutLens desc wk) else .ok (x, true)

theorem groupCredits_obtained {x x1 : Wheel} {u : UnitId} {desc : List Byte} {wk : PWork} {all : Bool}
    (h : groupCredits x u desc wk = .ok (x1, all)) : Obtained u x x1 := by
  unfold groupCredits at h
  split at h
  · exact outObtain_obtained h
  · obtain ⟨rfl, -⟩ := Prod.mk.inj (Except.ok.inj h)
    exact .refl ..

theorem groupCredits_done (x : Wheel) (u : UnitId) {desc : List Byte} {wk : PWork} (h : wk.group = curdGroups desc) :
    groupCredits x u desc wk = .ok (x, true) :=
  if_neg fun ⟨_, _, before⟩ => Nat.ne_of_lt before h

theorem cancelDue_none {e : Eng} (h : e.cancel = none) (g : Nat) : cancelDue e g = false := by
  rw [cancelDue, h]

section Run

variable {x : Wheel} {u : UnitId} {desc : List Byte} {wk : PWork} (hd : (engOf x u).desc = desc)
  (hw : (engOf x u).work = some wk) (hc : (engOf x u).cancel = none)
include hd hw hc

/-- A group whose credits are there runs (R196, R209). -/
theorem curdGroupsRun_group {x1 : Wheel} (n : Nat) (hl : wk.group < wk.limit)
    (ho : groupCredits x u desc wk = .ok (x1, true)) : curdGroupsRun u (n + 1) x =
      curdGroupsRun u n (onEng x1 u fun e => { e with st := .run, work := some (groupRun e.desc wk) }) := by
  unfold groupCredits at ho
  simp only [curdGroupsRun, hd, hw, cancelDue_none hc, ho, hl, Bool.false_eq_true, and_false, if_false, if_true]

/-- After the last group the curd ends (R209). -/
theorem curdGroupsRun_finish (n : Nat) (hg : wk.group = curdGroups desc) (hl : wk.limit = wk.group)
    (hm : wk.more = false) (hf : wk.fail = none) : curdGroupsRun u (n + 1) x = curdFinish x u wk := by
  simp only [curdGroupsRun, hd, hw, cancelDue_none hc, hg, hl, hm, hf, Nat.lt_irrefl, Bool.false_eq_true, and_false, if_false]

end Run

theorem curdFinish_delivers {x : Wheel} {u : UnitId} {wk : PWork} {outs : List (Nat × OutStream)}
    (ho : curdOuts x (engOf x u) wk.cols wk.sel = outs) (hl : outs.find? (fun o => outTooLong x (engOf x u) o.2) = none) :
    curdFinish x u wk = deliverOuts (onEng x u fun e =>
      { e with outs := outs.map (·.2), regs := bump e.regs 2 (selIndices wk.sel).length }) u 4 ⟨0, 0, 0xFFFF⟩ := by
  subst ho
  simp only [curdFinish, hl]

/-- The work has at most one group left, no column is to come, and none failed. -/
structure AtLastGroup (desc : List Byte) (wk : PWork) : Prop where
  more : wk.more = false
  fail : wk.fail = none
  limit : wk.limit = curdGroups desc
  le : wk.group ≤ curdGroups desc
  last : curdGroups desc ≤ wk.group + 1
  prog : wk.group < curdGroups desc → curdPredEn desc = true → wk.ip < predNinstr wk.prog

/-- The work after what is left of the last group. -/
def lastRun (desc : List Byte) (wk : PWork) : PWork := if wk.group < curdGroups desc then groupRun desc wk else wk

/-- The press with the output of its curd formed. -/
def curdFormed (desc : List Byte) (wk : PWork) (outs : List OutStream) (q : Eng) : Eng :=
  { q with st := (if wk.group < curdGroups desc then .run else q.st), work := some (lastRun desc wk), outs := outs
           regs := bump q.regs 2 (selIndices (lastRun desc wk).sel).length }

/-- What is left of the last group runs, and the curd delivers its output. -/
theorem curdGroupsRun_delivers {x x1 : Wheel} {u : UnitId} {e : Eng} {wk : PWork} {outs : List (Nat × OutStream)}
    (he : engOf x u = { e with store := 0 }) (hw : e.work = some wk) (hc : e.cancel = none) (hg : AtLastGroup e.desc wk)
    (hcred : groupCredits x u e.desc wk = .ok (x1, true))
    (houts : curdOuts x1 e (lastRun e.desc wk).cols (lastRun e.desc wk).sel = outs)
    (hlong : outs.find? (fun o => outTooLong x1 e o.2) = none) : curdGroupsRun u (wk.limit - wk.group + 2) x =
      deliverOuts (onEng x1 u (curdFormed e.desc wk (outs.map (·.2)))) u 4 ⟨0, 0, 0xFFFF⟩ := by
  have hd : (engOf x u).desc = e.desc := by rw [he]
  have hxw : (engOf x u).work = some wk := by rw [he, hw]
  have hxc : (engOf x u).cancel = none := by rw [he, hc]
  obtain ⟨held, eng⟩ := (groupCredits_obtained hcred).eng
  rw [he] at eng
  obtain ⟨more, fail, limit, le, last, prog⟩ := hg
  by_cases hlt : wk.group < curdGroups e.desc
  · have run : lastRun e.desc wk = groupRun e.desc wk := if_pos hlt
    obtain ⟨group', -, limit', more', fail'⟩ := groupRun_groupDone (prog hlt)
    rw [curdGroupsRun_group hd hxw hxc _ (by omega) hcred,
      show wk.limit - wk.group + 1 = 1 + 1 by omega,
      curdGroupsRun_finish (desc := e.desc) (wk := groupRun e.desc wk) (by simp [eng]) (by simp [eng]) (by simp [eng, hc]) _
        (by omega) (by omega) (more'.trans more) (fail'.trans fail),
      curdFinish_delivers (outs := outs) ?_ ?_, onEng_onEng]
    · congr 1
      exact onEng_congr (by simp [curdFormed, hlt, run, eng])
    · rw [curdOuts_onEng (e := e) _ _ _ (by simp [eng]) (by simp [eng]), ← run, houts]
    · rw [outTooLong_onEng (e := e) _ _ _ (by simp [eng]), hlong]
  · have heq : wk.group = curdGroups e.desc := by omega
    have run : lastRun e.desc wk = wk := if_neg hlt
    rw [groupCredits_done x u heq] at hcred
    obtain ⟨rfl, -⟩ := Prod.mk.inj (Except.ok.inj hcred)
    rw [show wk.limit - wk.group + 2 = 1 + 1 by omega,
      curdGroupsRun_finish hd hxw hxc _ heq (by omega) more fail,
      curdFinish_delivers (outs := outs) ?_ ?_]
    · congr 1
      exact onEng_congr (by simp [curdFormed, run, he, hw, heq])
    · rw [he]; rw [run] at houts; exact houts
    · rw [he]; exact hlong

/-- CURD on a press whose columns are decoded goes on with its groups. -/
theorem curdCmd_runs {x : Wheel} {p : Nat} {op : OpRef} {wk : PWork} (seed : Nat) (hop : (pressOf x p).op = some op)
    (hsub : (pressOf x p).sub = 0) (hfin : (pressOf x p).fin = none) (hst : (pressOf x p).st = .run ∨ (pressOf x p).st = .outWait)
    (hpend : (pressOf x p).pend = none) (hstore : (pressOf x p).store ≠ 2) (hw : (pressOf x p).work = some wk)
    (hm : wk.more = false) : curdCmd x p false seed =
      curdGroupsRun (pressUnit p) (wk.limit - wk.group + 2) (storeClean x (pressUnit p)) := by
  have he : engOf x (pressUnit p) = pressOf x p := rfl
  have hwc : (engOf (storeClean x (pressUnit p)) (pressUnit p)).work = some wk := by
    simp only [storeClean, engOf_onEng_self, he, hw]
  rcases hst with hst | hst <;>
    simp [curdCmd, curdRun, he, hop, hsub, hfin, hst, hpend, storeBad, hstore, hw, hm, hwc]

/-! ## Draining (R211, R212) -/

/-- A drain ends at once with the failure, or waits with it for the rest of the input or for its output buffers. -/
theorem drainStep_ends {x : Wheel} {u : UnitId} {f : Ended} (kIn kOut : Nat) (needs : List (Nat × Nat))
    (hp : (engOf x u).pend = some f) (hw : (engOf x u).work = none) :
    (engOf (drainStep x u kIn kOut needs) u).work = none ∧ FailsWith (engOf (drainStep x u kIn kOut needs) u) f := by
  have pulled := pullAll_sameTask u kIn needs x
  have pend := pulled.pend.trans hp
  have work := pulled.work.trans hw
  simp only [drainStep, pend, FailsWith]
  split
  · have advanced := (outAdvance_delivered (pullAll u kIn needs x) u kOut).task
    split
    · next ready =>
      have put := (putAll_delivered kOut (outsHeld_of_outsReady ready)).1.task
      simp only [engOf_onEng_self, put.work, advanced.work, work, true_or, and_self]
    · simp only [engOf_onEng_self, advanced.pend, advanced.work, pend, work, and_self, or_true]
  · simp only [engOf_onEng_self, pend, work, and_self, or_true]

/-- The same for an operator, whose needs may grow with the input it takes. -/
theorem opDrain_ends {x : Wheel} {u : UnitId} {f : Ended} (hp : (engOf x u).pend = some f) (hw : (engOf x u).work = none) :
    (engOf (opDrain x u) u).work = none ∧ FailsWith (engOf (opDrain x u) u) f := by
  have pulled := pullAll_sameTask u 3 (opNeeds (engOf x u)) x
  exact drainStep_ends 3 4 _ (pulled.pend.trans hp) (pulled.work.trans hw)

theorem startDrain_eng (x : Wheel) (u : UnitId) (f : Ended) (outs : List OutStream) :
    (engOf (startDrain x u f outs) u).pend = some f ∧ (engOf (startDrain x u f outs) u).work = none := by
  simp [startDrain]

theorem curdFail_ends (x : Wheel) (u : UnitId) (f : Ended) :
    (engOf (curdFail x u f) u).work = none ∧ FailsWith (engOf (curdFail x u f) u) f := by
  obtain ⟨pend, work⟩ := startDrain_eng x u f (curdErrOuts (engOf x u).desc)
  exact drainStep_ends 3 4 _ pend work

theorem opFail_ends (x : Wheel) (u : UnitId) (f : Ended) (outs : List OutStream) :
    (engOf (opFail x u f outs) u).work = none ∧ FailsWith (engOf (opFail x u f outs) u) f := by
  obtain ⟨pend, work⟩ := startDrain_eng x u f (if outs.isEmpty then opErrOuts (engOf x u) else outs)
  exact opDrain_ends pend work

section Cancel

variable {x : Wheel} {p : Nat} {op : OpRef} (seed : Nat) (hop : (pressOf x p).op = some op)
  (hb : boundaryAhead (pressOf x p) (pressGroups (pressOf x p)) = true) (hc : (pressOf x p).cancel = none)
  (hst : (pressOf x p).st = .run ∨ (pressOf x p).st = .inWait ∨ (pressOf x p).st = .outWait)
include hop hb hc hst

/-- A cancellation with a group ahead: at a boundary, as log 76 reads R212, the operation fails with 0x0701; within a group
the cancellation waits. -/
theorem pressStop_ahead : pressStop x p seed =
    if pressAtBoundary (pressOf x p) then
      (if (pressOf x p).sub = 0 then curdFail x (pressUnit p) ⟨0x0701, (pressOf x p).col, 0xFFFF⟩
        else opFail x (pressUnit p) (ended 0x0701 0) [])
    else onEng x (pressUnit p) (fun e => { e with cancel := e.work.map (·.group) }) := by
  have he : engOf x (pressUnit p) = pressOf x p := rfl
  have hfin : (pressOf x p).fin.isSome = false := by
    simp only [boundaryAhead, Bool.and_eq_true, Option.isNone_iff_eq_none] at hb
    obtain ⟨⟨fin, -⟩, -⟩ := hb
    rw [fin, Option.isSome_none]
  rcases hst with hst | hst | hst <;> simp [pressStop, he, hop, hc, hst, hb, hfin]

end Cancel

@[simp] theorem wheelOf_free (s : State) (n w : Nat) : wheelOf { s with free := n } w = wheelOf s w := rfl

/-- Settles O19: the curd runs what is left of its last group (`curdGroupsRun_delivers`) and puts its streams
(`deliverOuts_ready`); a cancellation (`pressStop_ahead`) drains (`curdFail_ends`, `opFail_ends`) or waits. -/
theorem curdAndCancel : Obligations.CurdAndCancel := by
  intro s w p op
  refine ⟨?curd, ?cancel⟩
  case curd =>
    intro wk x1 hop hsub hfin hst hpend houts hstore hcancel hw hm hf hl hg hg1 hip hpred hcred wk' outs done hlong hready
    have atLast : AtLastGroup (pressOf (wheelOf s w) p).desc wk := ⟨hm, hf, hl, hg, hg1, hpred⟩
    have clean : engOf (storeClean (wheelOf s w) (pressUnit p)) (pressUnit p) = { pressOf (wheelOf s w) p with store := 0 } :=
      engOf_onEng_self ..
    have runs := (curdCmd_runs s.free hop hsub hfin hst hpend hstore hw hm).trans
      (curdGroupsRun_delivers clean hw hcancel atLast hcred rfl hlong)
    obtain ⟨⟨held, eng⟩, obtained⟩ := groupCredits_obtained (desc := (pressOf (wheelOf s w) p).desc) (wk := wk) hcred
    obtain ⟨fin, work, empty, puts⟩ := deliverOuts_ready ⟨0, 0, 0xFFFF⟩ hready
    refine ⟨_, rfl, ?_⟩
    simp only [PutsStreams, putsFrom_iff, wheelOf_free, wheelOf_onWheel_self, runs]
    refine ⟨fin, work.trans ?_, empty, fun h => (puts h).trans ?_, fun j hj => wheelOf_onWheel_ne _ _ _ _ hj⟩
    · rw [engOf_onEng_self]
    · rw [engOf_onEng_self, putsOf, hoopOf_onEng, obtained h, storeClean, hoopOf_onEng]
      simp only [done, eng, clean]
      rfl
  case cancel =>
    intro hcan hop hb hc hst
    have exec_eq : exec (.pressCancel w p) s = .next { onWheel s w (fun x => pressStop x p s.free) with free := s.free + 1 } := by
      change execPressCancel w p s = _
      rw [execPressCancel, if_pos hcan]
    refine ⟨_, exec_eq, fun j hj => (wheelOf_free ..).trans (wheelOf_onWheel_ne _ _ _ _ hj), ?_⟩
    simp only [wheelOf_free, wheelOf_onWheel_self, pressStop_ahead s.free hop hb hc hst]
    split
    · split
      · obtain ⟨work, ends⟩ := curdFail_ends (wheelOf s w) (pressUnit p) ⟨0x0701, (pressOf (wheelOf s w) p).col, 0xFFFF⟩
        exact ⟨work, _, rfl, ends⟩
      · obtain ⟨work, ends⟩ := opFail_ends (wheelOf s w) (pressUnit p) (ended 0x0701 0) []
        exact ⟨work, _, rfl, ends⟩
    · exact engOf_onEng_self (wheelOf s w) (pressUnit p) _

end Sys2Proof.Machine
end

section
/-!
SUPPORT. What the work of a press operator leaves of its engine (R209, R250–R263): rows, groups and the result change no more
than its registers and its output.
-/

namespace Sys2Proof.Machine

open Sys2Proof

theorem SameTask.desc {e e' : Eng} (h : SameTask e e') : e'.desc = e.desc := by obtain ⟨_, _, _, _, _, rfl⟩ := h; rfl

theorem sameTask_onEng {x : Wheel} {u : UnitId} {f : Eng → Eng} (h : SameTask (engOf x u) (f (engOf x u))) :
    SameTask (engOf x u) (engOf (onEng x u f) u) := by
  rwa [engOf_onEng_self]

/-! ## The table and the Mould -/

theorem pressSearch_sameTask (x : Wheel) (u : UnitId) (share ctx key : Nat) :
    SameTask (engOf x u) (engOf (pressSearch x u share ctx key).1 u) :=
  sameTask_onEng (x := { x with mld := (mldSearch x.mld share ctx (BitVec.ofNat 128 key)).1 }) ⟨_, _, _, _, _, rfl⟩

theorem countLines_sameTask (x : Wheel) (u : UnitId) (n : Nat) : SameTask (engOf x u) (engOf (countLines x u n) u) :=
  sameTask_onEng ⟨_, _, _, _, _, rfl⟩

theorem countPairs_sameTask (x : Wheel) (u : UnitId) (n : Nat) : SameTask (engOf x u) (engOf (countPairs x u n) u) :=
  sameTask_onEng ⟨_, _, _, _, _, rfl⟩

@[simp] theorem engOf_caveCorrects (addr : Nat → Nat) (n : Nat) (ks : List Nat) (x : Wheel) (u : UnitId) :
    engOf (ks.foldl (fun x k => caveCorrect x (addr k) n) x) u = engOf x u :=
  List.foldlRecOn (motive := fun y => engOf y u = engOf x u) _ _ rfl fun _ hy _ _ => (engOf_caveCorrect ..).trans hy

theorem tblWalked_sameTask (x : Wheel) (u : UnitId) (t : Tbl) (h : Nat) (r : WalkRes) :
    SameTask (engOf x u) (engOf (tblWalked x u t h r) u) := by
  unfold tblWalked
  refine SameTask.trans ?_ (countLines_sameTask ..)
  rw [engOf_caveCorrects]
  exact .refl _

@[simp] theorem engOf_tblInsert (x : Wheel) (t : Tbl) (r : WalkRes) (bytes : List Byte) (u : UnitId) :
    engOf (tblInsert x t r bytes).1 u = engOf x u := by
  unfold tblInsert
  split
  · rfl
  · split
    · rfl
    · split <;> rfl

@[simp] theorem engOf_tblInit (x : Wheel) (d : List Byte) (u : UnitId) : engOf (tblInit x d) u = engOf x u := by
  unfold tblInit
  split <;> rfl

/-- INIT and the row order leave the engine (R251, R253, R263). -/
@[simp] theorem engOf_opBegin (x : Wheel) (i : OpIn) (d : List Byte) (u : UnitId) : engOf (opBegin x i d).1 u = engOf x u := by
  unfold opBegin
  dsimp only
  split
  · exact engOf_tblInit ..
  · split
    · split <;> rfl
    · rfl

/-! ## The rows of the table operators -/

theorem walkInsert_sameTask (x : Wheel) (u : UnitId) (t : Tbl) (h : Nat) (r : WalkRes) (bytes : List Byte) :
    SameTask (engOf x u) (engOf (tblInsert (tblWalked x u t h r) t r bytes).1 u) := by
  rw [engOf_tblInsert]
  exact tblWalked_sameTask ..

theorem buildRow_sameTask (u : UnitId) (ctx : Nat) (d : List Byte) (i : OpIn) (ks : List (ColTy × List Val)) (row : Nat)
    (x : Wheel) : SameTask (engOf x u) (engOf (buildRow u ctx d i ks row x).1 u) := by
  unfold buildRow
  split
  · exact .refl _
  · split
    · exact .refl _
    · next key _ =>
      dsimp only
      split
      · exact .refl _
      · split
        · have search := pressSearch_sameTask x u 2 ctx (pinKey (opMset d) key)
          generalize pressSearch x u 2 ctx (pinKey (opMset d) key) = found at search ⊢
          obtain ⟨y, _ | _ | _⟩ := found
          · exact search.trans (walkInsert_sameTask ..)
          · dsimp only
            split <;> exact search
          · exact search
        · exact walkInsert_sameTask ..

@[simp] theorem engOf_aggCarry (x : Wheel) (a : Nat) (k : KeyEnt) (st : Nat) (u : UnitId) :
    engOf (aggCarry x a k st).1 u = engOf x u := by
  unfold aggCarry
  split <;> rfl

theorem aggRow_sameTask (u : UnitId) (d : List Byte) (i : OpIn) (ks : List (ColTy × List Val)) (row : Nat) (x : Wheel) :
    SameTask (engOf x u) (engOf (aggRow u d i ks row x).1 u) := by
  unfold aggRow
  split
  · exact .refl _
  · extract_lets e t
    dsimp only
    split
    · dsimp only
      rw [engOf_caveWrite]
      refine List.foldlRecOn (motive := fun (p : Wheel × List Nat) => SameTask (engOf x u) (engOf p.1 u)) _ _
        (tblWalked_sameTask ..) fun p hp k _ => ?_
      dsimp only
      rwa [engOf_aggCarry]
    · exact walkInsert_sameTask ..

@[simp] theorem engOf_hllRow (d : List Byte) (i : OpIn) (ks : List (ColTy × List Val)) (row : Nat) (x : Wheel) (u : UnitId) :
    engOf (hllRow d i ks row x).1 u = engOf x u := by
  unfold hllRow
  split
  · rfl
  · split
    · rfl
    · dsimp only
      split
      · rfl
      · rw [engOf_caveWrite, engOf_caveCorrect]

theorem opRow_sameTask (u : UnitId) (ctx : Nat) (d : List Byte) (i : OpIn) (row : Nat) (x : Wheel) :
    SameTask (engOf x u) (engOf (opRow u ctx d i row x).1 u) := by
  unfold opRow
  split
  · exact buildRow_sameTask ..
  · exact aggRow_sameTask ..
  · rw [engOf_hllRow]
    exact .refl _
  · exact .refl _

theorem rowsDo_sameTask {u : UnitId} {f : Nat → Wheel → Wheel × Option Nat}
    (hf : ∀ i x, SameTask (engOf x u) (engOf (f i x).1 u)) (n i : Nat) (x : Wheel) :
    SameTask (engOf x u) (engOf (rowsDo f n i x).1 u) := by
  induction n generalizing i x with
  | zero => exact .refl _
  | succ n ih =>
    have row := hf i x
    unfold rowsDo
    generalize f i x = done at row ⊢
    obtain ⟨y, _ | code⟩ := done
    · exact row.trans (ih ..)
    · exact row

/-! ## The rows of PROBE -/

theorem probeMatches_sameTask (x : Wheel) (u : UnitId) (ctx : Nat) (d key : List Byte) :
    SameTask (engOf x u) (engOf (probeMatches x u ctx d key).1 u) := by
  unfold probeMatches
  dsimp only
  split
  · have search := pressSearch_sameTask x u 2 ctx (pinKey (opMset d) key)
    generalize pressSearch x u 2 ctx (pinKey (opMset d) key) = found at search ⊢
    obtain ⟨y, _ | _ | _⟩ := found
    · refine search.trans ?_
      dsimp only
      split <;> exact tblWalked_sameTask ..
    · exact search
    · exact search
  · split <;> exact tblWalked_sameTask ..

theorem probeRows_sameTask (u : UnitId) (ctx : Nat) (d : List Byte) (i : OpIn) (ks : List (ColTy × List Val)) (n row : Nat)
    (x : Wheel) (out : List Nat) : SameTask (engOf x u) (engOf (probeRows u ctx d i ks n row x out).1 u) := by
  induction n generalizing row x out with
  | zero => exact .refl _
  | succ n ih =>
    unfold probeRows
    split
    · exact ih ..
    · dsimp only
      split
      · exact .refl _
      · cases rowKey ks row with
        | none => exact ih ..
        | some key =>
          have found := probeMatches_sameTask x u ctx d key
          dsimp only
          split
          · exact found
          · exact found.trans (ih ..)

theorem pairFlush_sameTask (x : Wheel) (u : UnitId) (base : Nat) (w : PWork) :
    SameTask (engOf x u) (engOf (pairFlush x u base w).1 u) := by
  unfold pairFlush
  extract_lets e cap k
  split
  · exact .refl _
  · exact (countPairs_sameTask x u (k * cap)).trans (sameTask_onEng ⟨_, _, _, _, _, rfl⟩)

/-! ## The steps of FEATURE -/

theorem searchRows_sameTask (u : UnitId) (ctx : Nat) (s : StepEnt) (t : ColTy) (rows : List (Val × Bool)) (x : Wheel) :
    SameTask (engOf x u) (engOf (searchRows u ctx s t rows x).1 u) := by
  induction rows generalizing x with
  | nil => exact .refl _
  | cons p r ih =>
    obtain ⟨v, on⟩ := p
    unfold searchRows
    extract_lets nulls miss
    split
    next y row found =>
      have one : SameTask (engOf x u) (engOf y u) := by
        split at found
        · cases found; exact .refl _
        · split at found
          · cases found; exact .refl _
          · next key _ =>
            have search := pressSearch_sameTask x u 3 ctx key
            generalize pressSearch x u 3 ctx key = res at search found
            obtain ⟨z, _ | _ | _⟩ := res <;> cases found <;> exact search
      split
      · exact one
      · have rest := ih y
        generalize searchRows u ctx s t r y = res at rest ⊢
        obtain ⟨z, _ | _⟩ := res <;> exact one.trans rest

theorem runStep_sameTask (x : Wheel) (u : UnitId) (ctx : Nat) (s : StepEnt) (t : ColTy) (rows : List (Val × Bool)) :
    SameTask (engOf x u) (engOf (runStep x u ctx s t rows).1 u) := by
  unfold runStep
  dsimp only
  split
  case h_4 =>
    split
    · exact .refl _
    · split <;> exact .refl _
  case h_12 =>
    have search := searchRows_sameTask u ctx s t rows x
    generalize searchRows u ctx s t rows x = res at search ⊢
    obtain ⟨y, _ | _⟩ := res <;> exact search
  all_goals exact .refl _

theorem stepsOn_sameTask (u : UnitId) (ctx : Nat) (i : OpIn) (ss : List StepEnt) (which : Nat → Bool) (lo n : Nat)
    (todo : List (StepEnt × Nat)) (x : Wheel) (outs : List (List (List Val))) :
    SameTask (engOf x u) (engOf (stepsOn u ctx i ss which lo n todo x outs).1 u) := by
  induction todo generalizing x outs with
  | nil => exact .refl _
  | cons p r ih =>
    obtain ⟨s, k⟩ := p
    unfold stepsOn
    split
    · exact ih ..
    · dsimp only
      generalize ((((stepInput i ss outs s).2.drop lo).take n).zip ((i.sel.drop lo).take n)) = rows
      have step := runStep_sameTask x u ctx s (stepInput i ss outs s).1 rows
      generalize runStep x u ctx s (stepInput i ss outs s).1 rows = res at step ⊢
      obtain ⟨y, _ | _⟩ := res
      · exact step
      · exact step.trans (ih ..)

/-! ## Groups and results -/

/-- `w'` is the work `w` of an operator with one more group done. -/
structure OneMore (w w' : PWork) : Prop where
  group : w'.group = w.group + 1
  limit : w'.limit = w.limit
  more : w'.more = w.more
  fail : w'.fail = w.fail

theorem pairFlush_oneMore {w w' : PWork} (x : Wheel) (u : UnitId) (base : Nat) (h : OneMore w w') :
    OneMore w (pairFlush x u base w').2 := by
  obtain ⟨group, limit, more, fail⟩ := h
  unfold pairFlush
  dsimp only
  split <;> exact ⟨group, limit, more, fail⟩

/-- A group that fails nowhere counts, and leaves the task of the engine (R209). -/
theorem opGroup_done {x y : Wheel} {u : UnitId} {ctx : Nat} {i : OpIn} {w w' : PWork}
    (h : opGroup x u ctx i w = (y, w', none)) : SameTask (engOf x u) (engOf y u) ∧ OneMore w w' := by
  unfold opGroup at h
  extract_lets d lo n w1 ss late outs pairs at h
  have counted : OneMore w w1 := ⟨rfl, rfl, rfl, rfl⟩
  clear_value w1
  split at h
  · have steps := stepsOn_sameTask u ctx i ss (fun k => !(nth false late k)) lo n ss.zipIdx x outs
    generalize stepsOn u ctx i ss (fun k => !(nth false late k)) lo n ss.zipIdx x outs = res at steps h
    obtain ⟨z, _ | _⟩ := res <;> cases h
    exact ⟨steps, { counted with }⟩
  · have rows := probeRows_sameTask u ctx d i (keyCols d i) n lo x (if pairs = true then w.pairs else [])
    generalize probeRows u ctx d i (keyCols d i) n lo x (if pairs = true then w.pairs else []) = res at rows h
    obtain ⟨z, out, _ | _⟩ := res <;> dsimp only at rows h
    · split at h
      · cases h
        exact ⟨rows.trans (pairFlush_sameTask ..), pairFlush_oneMore _ _ _ { counted with }⟩
      · cases h
        exact ⟨rows, { counted with }⟩
    · cases h
  · have rows := rowsDo_sameTask (opRow_sameTask u ctx d i) n lo x
    generalize rowsDo (opRow u ctx d i) n lo x = res at rows h
    obtain ⟨z, _ | _⟩ := res <;> cases h
    exact ⟨rows, counted⟩

theorem runAggEmit_sameTask (x : Wheel) (u : UnitId) (d : List Byte) :
    SameTask (engOf x u) (engOf (runAggEmit x u d).x u) := by
  unfold runAggEmit
  extract_lets e t first r x0 x1
  have emitted : SameTask (engOf x u) (engOf x1 u) := by
    have corrected : engOf x0 u = engOf x u := engOf_caveCorrects ..
    rw [← corrected]
    exact countLines_sameTask ..
  split <;> exact emitted

/-- Forming the result leaves the task of the engine. -/
theorem opResult_sameTask (x : Wheel) (u : UnitId) (ctx : Nat) (i : OpIn) (w : PWork) :
    SameTask (engOf x u) (engOf (opResult x u ctx i w).x u) := by
  unfold opResult
  extract_lets e d ss late outs
  split
  · have steps := stepsOn_sameTask u ctx i ss (fun k => nth false late k) 0 i.rows ss.zipIdx x outs
    generalize stepsOn u ctx i ss (fun k => nth false late k) 0 i.rows ss.zipIdx x outs = res at steps ⊢
    obtain ⟨z, _ | _⟩ := res <;> exact steps
  · split
    · exact countPairs_sameTask ..
    · exact .refl _
  · exact .refl _
  · exact runAggEmit_sameTask ..
  · exact .refl _
  · exact .refl _

end Sys2Proof.Machine
end

section
/-!
SUPPORT. The end of a press operator (R209, R223, R253–R263): its last group, its result and the delivery of its output.
-/

namespace Sys2Proof.Machine

open Sys2Proof Sys2Proof.Safety

@[simp] theorem onEng_cave (x : Wheel) (u : UnitId) (f : Eng → Eng) : (onEng x u f).cave = x.cave := by
  unfold onEng setEng
  split <;> rfl

/-- With the input of every port complete nothing is taken. -/
theorem pullAll_done {x : Wheel} {u : UnitId} {ps : List (Nat × Nat)} (kIn : Nat)
    (h : ∀ q ∈ ps, portDone (engOf x u) q.1 q.2 = true) : pullAll u kIn ps x = x := by
  refine List.foldlRecOn (motive := fun y => y = x) _ _ rfl fun y hy q hq => ?_
  subst hy
  split
  · rfl
  · rw [pullPort, if_pos (h q hq)]

/-- An engine with no output to deliver ends at once, and writes no Cave byte. -/
theorem deliverOuts_nothing {x : Wheel} {u : UnitId} (kOut : Nat) (f : Ended) (h : (engOf x u).outs = []) :
    (deliverOuts x u kOut f).cave = x.cave := by
  have advance : outAdvance x u kOut = x := by
    simp [outAdvance, eagerPut, obtainAll, h]
  simp [deliverOuts, putAll, outsReady, outsHeld, advance, h]

/-! ## The groups -/

section Run

variable {x y : Wheel} {u : UnitId} {i : OpIn} {w : PWork} (ctx n : Nat) (hw : (engOf x u).work = some w)
  (hc : (engOf x u).cancel = none)
include hw hc

/-- A group whose credits are there runs (R209). -/
theorem opGroupsRun_group {x1 x2 : Wheel} {w' : PWork} (ho : (engOf x u).outs = []) (hg : w.group < cdiv i.rows 64)
    (hl : w.group < w.limit)
    (hcred : (if 0 < w.group then outObtain x u (opLens i (engOf x u).desc w) else .ok (x, true)) = .ok (x1, true))
    (hrun : opGroup x1 u ctx i w = (x2, w', none)) : opGroupsRun u ctx i (n + 1) x =
      opGroupsRun u ctx i n (onEng x2 u fun e => { e with st := .run, work := some w' }) := by
  simp only [opGroupsRun, hw, ho, List.isEmpty_nil, Bool.not_true, Bool.false_eq_true, cancelDue_none hc, hg, and_true, hcred,
    hl, hrun, if_true, if_false]

/-- After the last group, once the full buffers are put, the operator ends (R209, R256). -/
theorem opGroupsRun_finish (hy : (if (engOf x u).outs.isEmpty then x else outAdvance x u 4) = y) (ho : (engOf y u).outs = [])
    (hg : w.group = cdiv i.rows 64) (hl : w.limit = cdiv i.rows 64) (hm : w.more = false) (hf : w.fail = none) :
    opGroupsRun u ctx i (n + 1) x = opFinish y u ctx i w := by
  simp only [opGroupsRun, hw, hy, ho, List.isEmpty_nil, Bool.not_true, Bool.false_eq_true, cancelDue_none hc, hg, hl, hm, hf,
    Nat.lt_irrefl, and_false, if_false]

end Run

section Last

variable {x y : Wheel} {u : UnitId} {ctx : Nat} {i : OpIn} {w w' : PWork} (hlast : OpLast x u ctx i w y w')
include hlast

/-- What is left of the last group runs, and the operator ends. -/
theorem opGroupsRun_last (ho : (engOf x u).outs = []) (hc : (engOf x u).cancel = none) (hl : w.limit = cdiv i.rows 64)
    (hm : w.more = false) (hf : w.fail = none) : opGroupsRun u ctx i (w.limit - w.group + 2)
      (onEng x u fun e => { e with work := some w, col := 0 }) = opFinish y u ctx i w' := by
  rcases hlast with ⟨hg, rfl, rfl⟩ | ⟨hg, x1, x2, hcred, hrun, hc2, hy, ho2⟩
  · exact opGroupsRun_finish ctx _ (by simp) (by simp [hc]) (by simp [ho]) (by simp [ho]) hg hl hm hf
  · obtain ⟨-, group, limit, more, fail⟩ := opGroup_done hrun
    rw [opGroupsRun_group ctx _ (w := w) (by simp) (by simp [hc]) (by simp [ho]) (by omega) (by omega) hcred hrun,
      show w.limit - w.group + 1 = 1 + 1 by omega]
    exact opGroupsRun_finish ctx _ (by simp) (by simp [hc2]) hy.symm ho2 (group.trans hg) (limit.trans hl) (more.trans hm)
      (fail.trans hf)

/-- The operator keeps its descriptor and its output ports through its groups. -/
theorem opLast_eng : (engOf y u).desc = (engOf x u).desc ∧ (engOf y u).outP = (engOf x u).outP := by
  rcases hlast with ⟨-, rfl, -⟩ | ⟨-, x1, x2, hcred, hrun, -, hy, -⟩
  · simp
  · have obtained : Obtained u (onEng x u fun e => { e with work := some w, col := 0 }) x1 := by
      split at hcred
      · exact outObtain_obtained hcred
      · obtain ⟨rfl, -⟩ := Prod.mk.inj (Except.ok.inj hcred)
        exact .refl ..
    obtain ⟨held, eng⟩ := obtained.eng
    have ran := (opGroup_done hrun).1
    have advanced : SameTask (engOf (onEng x2 u fun e => { e with st := .run, work := some w' }) u) (engOf y u) := by
      rw [hy]
      split
      · exact .refl _
      · exact (outAdvance_delivered ..).task
    rw [advanced.desc, advanced.outP, engOf_onEng_self]
    simp [ran.desc, ran.outP, eng]

end Last

/-! ## The result -/

/-- The wheel with the output streams of a result formed. -/
def opFormed (u : UnitId) (r : OpRes) : Wheel := onEng r.x u fun e => { e with outs := r.outs.map (·.2) }

@[simp] theorem engOf_opFormed (u : UnitId) (r : OpRes) :
    engOf (opFormed u r) u = { engOf r.x u with outs := r.outs.map (·.2) } := engOf_onEng_self ..

theorem putsOf_opFormed (u : UnitId) (r : OpRes) (h : Nat) : putsOf (opFormed u r) h = putsOf r.x h := by
  rw [opFormed, putsOf, hoopOf_onEng, putsOf]

theorem opFinish_delivers {x : Wheel} {u : UnitId} {ctx : Nat} {i : OpIn} {w : PWork} {r : OpRes}
    (hr : opResult x u ctx i w = r) (hcode : r.done.code = 0)
    (hlong : r.outs.find? (fun o => !o.2.eager && outTooLong r.x (engOf r.x u) o.2) = none) :
    opFinish x u ctx i w = deliverOuts (opFormed u r) u 4 r.done := by
  simp only [opFinish, opFormed, hr, hcode, hlong, ne_eq, not_true_eq_false, if_false]

/-- BUILD and AGG leave the next row number in the header of their table, and put nothing (R253). -/
theorem opResult_table {x : Wheel} {u : UnitId} (ctx : Nat) (i : OpIn) (w : PWork)
    (h : opKind (engOf x u).desc = 2 ∨ opKind (engOf x u).desc = 5) :
    opResult x u ctx i w = ⟨tblSetNext x (opTable (engOf x u).desc) (i.base + i.rows), [], ended 0 0⟩ := by
  rcases h with h | h <;> simp only [opResult, h]

/-- HLL puts nothing (R263). -/
theorem opResult_hll {x : Wheel} {u : UnitId} (ctx : Nat) (i : OpIn) (w : PWork) (h : opKind (engOf x u).desc = 7) :
    opResult x u ctx i w = ⟨x, [], ended 0 0⟩ := by
  simp only [opResult, h]

theorem leBytes_getD (n x k : Nat) (h : k < n) : (leBytes n x).getD k 0 = BitVec.ofNat 8 (x / 256 ^ k) := by
  induction n generalizing x k with
  | zero => exact absurd h (Nat.not_lt_zero k)
  | succ n ih =>
    cases k with
    | zero => simp [leBytes]
    | succ k =>
      rw [leBytes, List.getD_cons_succ, ih _ _ (Nat.lt_of_succ_lt_succ h), Nat.div_div_eq_div_mul, Nat.pow_succ']

/-- The 8 bytes at 0x18 of a table's header hold the next row number; no other Cave byte differs. -/
theorem tblSetNext_cave (x : Wheel) (a n : Nat) :
    (∀ k, k < 8 → rdByte 0 (tblSetNext x a n).cave (a + 0x18 + k) = BitVec.ofNat 8 (n / 256 ^ k)) ∧
    ∀ b, b < a + 0x18 ∨ a + 0x20 ≤ b → rdByte 0 (tblSetNext x a n).cave b = rdByte 0 x.cave b := by
  have cave : (tblSetNext x a n).cave = wrMem 0 x.cave (a + 0x18) (leBytes 8 n) := rfl
  rw [cave]
  refine ⟨fun k hk => ?_, fun b hb => rdByte_wrMem_out 0 _ _ _ b (by rw [leBytes_length]; omega)⟩
  rw [rdByte_wrMem_getD 0 _ _ _ (by rwa [leBytes_length]), leBytes_getD 8 n k hk]

/-! ## The command -/

/-- An operator's command on a press that runs one of its kind goes on with it. -/
theorem opCmd_runs {x : Wheel} {p kind : Nat} {op : OpRef} (seed : Nat) (hop : (pressOf x p).op = some op)
    (hsub : (pressOf x p).sub = 1) (hfin : (pressOf x p).fin = none) (hst : (pressOf x p).st = .run ∨ (pressOf x p).st = .inWait)
    (hkind : opKind (pressOf x p).desc = kind) : opCmd x p kind seed = opRun x (pressUnit p) op.ctx := by
  have he : engOf x (pressUnit p) = pressOf x p := rfl
  rcases hst with hst | hst <;> simp [opCmd, he, hop, hsub, hfin, hst, hkind]

/-- With its whole input there the operator runs its groups to the last row. -/
theorem opRun_groups {x x0 : Wheel} {u : UnitId} {i : OpIn} {w : PWork} (ctx : Nat)
    (hst : (engOf x u).st = .run ∨ (engOf x u).st = .inWait) (hstore : (engOf x u).store ≠ 2) (hpend : (engOf x u).pend = none)
    (hdone : ∀ q ∈ opNeeds (engOf x u), portDone (engOf x u) q.1 q.2 = true) (hin : opInput (engOf x u) = .ok (some i))
    (hstop : i.stop = none)
    (hstart : OpStarts (storeClean x u) u i x0 w) :
    opRun x u ctx = opGroupsRun u ctx i (w.limit - w.group + 2) (onEng x0 u fun e => { e with work := some w, col := 0 }) := by
  have clean : engOf (storeClean x u) u = { engOf x u with store := 0 } := engOf_onEng_self ..
  have pulled : pullAll u 3 (opNeeds (engOf x u)) (storeClean x u) = storeClean x u :=
    pullAll_done 3 fun q hq => by rw [clean]; exact hdone q hq
  have needs : opNeeds (engOf (storeClean x u) u) = opNeeds (engOf x u) := by rw [clean]; rfl
  have input : opInput (engOf (storeClean x u) u) = .ok (some i) := by rw [clean]; exact hin
  obtain ⟨begun, work, -⟩ := hstart
  simp only [Option.isNone_iff_eq_none] at begun
  have limit : opLimit i ((engOf (storeClean x u) u).work.getD {}) = w := by simp only [opLimit, hstop, work]
  rcases hst with hst | hst <;>
    simp [opRun, hst, storeBad, hstore, hpend, pulled, needs, input, begun, limit, hstop]

/-- An operator's command with at most one group left delivers its result, formed from a wheel in which the press has its
descriptor and its output ports as before. -/
theorem opCmd_delivers {s : State} {w p kind : Nat} {op : OpRef} {i : OpIn} {x0 y : Wheel} {k k' : PWork} {r : OpRes}
    (hready : OpReady s w p kind op i) (hstart : OpStarts (storeClean (wheelOf s w) (pressUnit p)) (pressUnit p) i x0 k)
    (hlast : OpLast x0 (pressUnit p) op.ctx i k y k') (hr : opResult y (pressUnit p) op.ctx i k' = r) (hcode : r.done.code = 0)
    (hlong : r.outs.find? (fun o => !o.2.eager && outTooLong r.x (engOf r.x (pressUnit p)) o.2) = none) :
    opCmd (wheelOf s w) p kind s.free = deliverOuts (opFormed (pressUnit p) r) (pressUnit p) 4 r.done ∧
    (engOf y (pressUnit p)).desc = (pressOf (wheelOf s w) p).desc ∧
    (engOf y (pressUnit p)).outP = (pressOf (wheelOf s w) p).outP ∧ opKind (engOf y (pressUnit p)).desc = kind := by
  obtain ⟨hop, hsub, hfin, hst, hpend, houts, hcancel, hstore, hkind, hdone, hin, hstop⟩ := hready
  have start : engOf x0 (pressUnit p) = { pressOf (wheelOf s w) p with store := 0 } := by
    have begun := congrArg (fun q => engOf q.1 (pressUnit p)) hstart.1
    dsimp only at begun
    rw [← begun, apply_ite Prod.fst, apply_ite (engOf · _), engOf_opBegin, ite_self]
    exact engOf_onEng_self ..
  have groups := opRun_groups (x := wheelOf s w) (u := pressUnit p) op.ctx hst hstore hpend hdone hin hstop hstart
  obtain ⟨-, rfl, fail⟩ := hstart
  obtain ⟨desc, outP⟩ := opLast_eng hlast
  rw [start] at desc outP
  refine ⟨?_, desc, outP, by rw [desc, hkind]⟩
  rw [opCmd_runs s.free hop hsub hfin hst hkind, groups,
    opGroupsRun_last hlast (by rw [start]; exact houts) (by rw [start]; exact hcancel) rfl rfl fail,
    opFinish_delivers hr hcode hlong]

/-- What the delivery of an operator's result `r` leaves in the state `t`: its streams are put, and without a stream the
Cave is as the result has it. -/
structure ResultLeft (s t : State) (w p : Nat) (r : OpRes) : Prop where
  puts : PutsFrom r.x t w (pressUnit p) (pressOf (wheelOf s w) p).outP (r.outs.map (·.2))
  cave : r.outs = [] → (wheelOf t w).cave = r.x.cave

/-- An operator's command ends the operator (`OpEnds`) with every property that the delivery of its result gives. -/
theorem opEnds_of_delivery {s : State} {w p kind : Nat} {c : Instr} {op : OpRef} {i : OpIn} {P : Wheel → OpRes → State → Prop}
    (hexec : exec c s = .next { onWheel s w (fun x => opCmd x p kind s.free) with free := s.free + 1 })
    (hP : ∀ y k t, opKind (engOf y (pressUnit p)).desc = kind →
      (engOf y (pressUnit p)).desc = (pressOf (wheelOf s w) p).desc →
      ResultLeft s t w p (opResult y (pressUnit p) op.ctx i k) → P y (opResult y (pressUnit p) op.ctx i k) t) :
    OpEnds s w p kind c op i P := by
  intro x0 k y k' hready hstart hlast r hcode hlong hdeliver
  obtain ⟨runs, desc, outP, hkind⟩ := opCmd_delivers hready hstart hlast rfl hcode hlong
  obtain ⟨fin, -, empty, puts⟩ := deliverOuts_ready (x := opFormed (pressUnit p) r) r.done hdeliver
  refine ⟨_, hexec, ?_⟩
  generalize ht : ({ onWheel s w (fun x => opCmd x p kind s.free) with free := s.free + 1 } : State) = t
  have wheel : wheelOf t w = deliverOuts (opFormed (pressUnit p) r) (pressUnit p) 4 r.done := by
    rw [← ht, wheelOf_free, wheelOf_onWheel_self, runs]
  have left : ResultLeft s t w p r := by
    refine ⟨(putsFrom_iff ..).mpr fun h => ?_, fun empty => ?_⟩
    · rw [wheel, puts h, engOf_opFormed, putsOf_opFormed, ← outP, ← (opResult_sameTask y (pressUnit p) op.ctx i k').outP]
    · rw [wheel, deliverOuts_nothing _ _ (by simp [empty]), opFormed, onEng_cave]
  refine ⟨by rw [wheel]; exact fin, by rw [wheel]; exact empty, fun j hj => ?_, hP y k' t hkind desc left⟩
  rw [← ht, wheelOf_free, wheelOf_onWheel_ne _ _ _ _ hj]

/-- Settles O20: every operator command goes through its last group to the delivery of its result (`opEnds_of_delivery`);
BUILD and AGG put nothing and write the next row number (`opResult_table`), HLL puts nothing (`opResult_hll`). -/
theorem pressOperators : Obligations.PressOperators := by
  intro s w p op i u e streams table cave
  have ofStreams : ∀ {kind : Nat} {c : Instr},
      exec c s = .next { onWheel s w (fun x => opCmd x p kind s.free) with free := s.free + 1 } →
      OpEnds s w p kind c op i streams :=
    fun hexec => opEnds_of_delivery hexec fun _ _ _ _ _ left => left.puts
  have ofTable : ∀ {kind : Nat} {c : Instr}, kind = 2 ∨ kind = 5 →
      exec c s = .next { onWheel s w (fun x => opCmd x p kind s.free) with free := s.free + 1 } →
      OpEnds s w p kind c op i table := fun hk hexec => opEnds_of_delivery hexec fun y k t kind desc left => by
    rw [opResult_table op.ctx i k (by rwa [kind])] at left ⊢
    rw [desc] at left
    simp only [table, left.cave rfl]
    exact tblSetNext_cave ..
  have ofHll : OpEnds s w p 7 (.hll w p) op i cave := opEnds_of_delivery rfl fun y k t kind _ left => by
    rw [opResult_hll op.ctx i k kind] at left ⊢
    exact left.cave rfl
  exact ⟨ofStreams rfl, ofTable (.inl rfl) rfl, ofStreams rfl, ofStreams rfl, ofTable (.inr rfl) rfl, ofStreams rfl, ofHll⟩

end Sys2Proof.Machine
end

section
/-!
SUPPORT. The Mould's state operations (R271, R281–R289): what each leaves of the entries, the waiting updates and the pointers.
-/

namespace Sys2Proof.Machine

open Sys2Proof

/-! ## Entries, errors and statistics -/

@[simp] theorem mEntry_setEntry_self (m : Mould) (i : Nat) (e : MEntry) : mEntry (setEntry m i e) i = e := tget_tset_self ..

theorem mEntry_setEntry_ne (m : Mould) {i k : Nat} (e : MEntry) (h : k ≠ i) : mEntry (setEntry m i e) k = mEntry m k :=
  tget_tset_ne _ _ _ h

@[simp] theorem setEntry_scrub (m : Mould) (i : Nat) (e : MEntry) : (setEntry m i e).scrub = m.scrub := rfl
@[simp] theorem mEntry_mldBump (m : Mould) (n k : Nat) : mEntry (mldBump m n) k = mEntry m k := rfl
@[simp] theorem mldBump_scrub (m : Mould) (n : Nat) : (mldBump m n).scrub = m.scrub := rfl
@[simp] theorem mEntry_mldErr (m : Mould) (mask share i code k : Nat) : mEntry (mldErr m mask share i code) k = mEntry m k := rfl
@[simp] theorem mldErr_scrub (m : Mould) (mask share i code : Nat) : (mldErr m mask share i code).scrub = m.scrub := rfl

/-! ## Whole writes and installs -/

/-- The entry that a whole write leaves: compare array, copy and list values hold one key, mask and result (R271, R285). -/
def wholeEntry (key mask : BitVec 128) (res : DWord) : MEntry :=
  { key := key &&& mask, mask := mask, valid := true, ckey := key &&& mask, cmask := mask, cvalid := true, cres := res
    lkey := key &&& mask, lmask := mask, lres := res }

theorem mldWrite_eq (m : Mould) (i : Nat) (key mask : BitVec 128) (res : DWord) :
    mldWrite m i key mask res = mldBump (setEntry m i (wholeEntry key mask res)) 10 := rfl

@[simp] theorem mEntry_mldWrite_self (m : Mould) (i : Nat) (key mask : BitVec 128) (res : DWord) :
    mEntry (mldWrite m i key mask res) i = wholeEntry key mask res := by
  simp [mldWrite_eq]

theorem mEntry_mldWrite_ne (m : Mould) {i k : Nat} (key mask : BitVec 128) (res : DWord) (h : k ≠ i) :
    mEntry (mldWrite m i key mask res) k = mEntry m k := by
  simp [mldWrite_eq, mEntry_setEntry_ne _ _ h]

/-- An install at the round-robin pointer writes the entry there and no other, and the pointer advances (R278). -/
theorem mldInstall_rr {m : Mould} (key mask : BitVec 128) (res : DWord) (h : 0 < shareSize m 0) :
    let i := m.rr % shareSize m 0
    let m' := mldInstall m key mask res none
    m'.upds = m.upds ∧ m'.rr = (m.rr + 1) % shareSize m 0 ∧ mEntry m' i = wholeEntry key mask res ∧
      ∀ k, k ≠ i → mEntry m' k = mEntry m k := by
  simp only [mldInstall, Nat.ne_of_gt h, if_false, Option.getD_none, Option.isNone_none, if_true]
  refine ⟨?_, ?_, mEntry_mldWrite_self .., fun k hk => (mEntry_mldWrite_ne _ _ _ _ hk).trans ?_⟩ <;> split <;> rfl

/-! ## Updates -/

theorem mldUpdate_unpoison {m : Mould} {i : Nat} {r : List MUpd} (h : m.upds = .unpoison i :: r) :
    mldUpdate m = mldWrite { m with upds := r } i (mEntry m i).lkey (mEntry m i).lmask (mEntry m i).lres := by
  simp [mldUpdate, h]

/-- An install whose walk no sweep has overtaken is carried out (R289). -/
theorem mldUpdate_install {m : Mould} {key mask : BitVec 128} {res : DWord} {at_ : Option Nat} {r : List MUpd}
    (h : m.upds = .install key mask res m.swept at_ :: r) (idle : ∀ sw ∈ m.sweeps, sw.share ≠ 0) :
    mldUpdate m = mldInstall { m with upds := r } key mask res at_ := by
  have noSweep : m.sweeps.any (fun s => s.share == 0) = false := by simpa using idle
  simp [mldUpdate, h, noSweep]

/-! ## Sweeps -/

/-- A sweep keeps the entries outside its share or its range, the invalid ones and those whose copy key differs from its key
on the care mask (R288; that a sweep may have a range is the model's choice, log 78). -/
theorem mem_sweepEntries (m : Mould) (sw : MSweep) (p : Nat × MEntry) :
    p ∈ (sweepEntries m sw).entries ↔ p ∈ m.entries ∧
      ¬ ((∀ q, sw.range = some q → q.1 ≤ p.1 ∧ p.1 < q.1 + q.2) ∧ shareLo m sw.share ≤ p.1 ∧
        p.1 < shareLo m sw.share + shareSize m sw.share ∧ p.2.valid = true ∧ (p.2.ckey ^^^ sw.key) &&& sw.care = 0) := by
  simp only [sweepEntries, List.mem_filter, Bool.not_eq_true', ← Bool.not_eq_true]
  refine and_congr_right fun _ => not_congr ?_
  cases sw.range with
  | none => simp [and_assoc]
  | some q =>
    simp only [Bool.and_eq_true, decide_eq_true_eq, beq_iff_eq, Option.some.injEq, forall_eq']
    exact ⟨fun ⟨⟨⟨⟨lo, hi⟩, range⟩, valid⟩, agrees⟩ => ⟨range, lo, hi, valid, agrees⟩,
      fun ⟨range, lo, hi, valid, agrees⟩ => ⟨⟨⟨⟨lo, hi⟩, range⟩, valid⟩, agrees⟩⟩

theorem mldSweep_cons {m : Mould} {sw : MSweep} {r : List MSweep} (h : m.sweeps = sw :: r) :
    mldSweep m = sweepEntries { m with sweeps := r } sw := by
  simp [mldSweep, h]

/-! ## The scrub -/

/-- An entry with its compare array rewritten from its verification copy (R284). -/
def fromCopy (e : MEntry) : MEntry :=
  { e with key := e.ckey, mask := e.cmask, valid := e.cvalid, parityBad := false, copyBad := 0 }

/-- From a copy free of errors the scrub rewrites the compare array and does nothing else to the entries (R284). -/
theorem scrubFix_good {m : Mould} {i : Nat} (h : (mEntry m i).copyBad = 0) :
    scrubFix m i =
      mldErr (mldBump (mldBump (setEntry m i (fromCopy (mEntry m i))) 10) 12) 0x10 (shareOf m i) i 0 := by
  simp [scrubFix, mldRewrite, h, fromCopy]

/-- The Mould with its scrub pointer one further (R284). -/
def scrubAdvanced (m : Mould) : Mould := { m with scrub := (m.scrub + 1) % 2048 }

@[simp] theorem mEntry_scrubAdvanced (m : Mould) (k : Nat) : mEntry (scrubAdvanced m) k = mEntry m k := rfl
@[simp] theorem scrubAdvanced_upds (m : Mould) : (scrubAdvanced m).upds = m.upds := rfl
@[simp] theorem scrubAdvanced_scrub (m : Mould) : (scrubAdvanced m).scrub = (m.scrub + 1) % 2048 := rfl

/-- The scrub of an entry whose copy is free of errors, with no update waiting: where the compare array agrees with the copy
the pointer advances, and otherwise the array is rewritten too (R284). -/
theorem mldScrub_good {m : Mould} (hu : m.upds = []) (h : (mEntry m m.scrub).copyBad = 0) :
    let e := mEntry m m.scrub
    mldScrub m = if e.key = e.ckey ∧ e.mask = e.cmask ∧ e.valid = e.cvalid then scrubAdvanced m
      else scrubFix (scrubAdvanced m) m.scrub := by
  unfold mldScrub
  dsimp only
  have fold : { m with scrub := (m.scrub + 1) % 2048 } = scrubAdvanced m := rfl
  simp only [fold]
  simp [hu, h]

/-- What that scrub leaves: the pointer is one further, the entry's compare array is its copy, and no other entry changes. -/
theorem mldScrub_agrees {m : Mould} (hu : m.upds = []) (h : (mEntry m m.scrub).copyBad = 0) :
    let e := mEntry m m.scrub
    let e' := mEntry (mldScrub m) m.scrub
    (mldScrub m).scrub = (m.scrub + 1) % 2048 ∧ e'.key = e.ckey ∧ e'.mask = e.cmask ∧ e'.cres = e.cres ∧
      e'.valid = e.cvalid ∧ ∀ k, k ≠ m.scrub → mEntry (mldScrub m) k = mEntry m k := by
  rw [mldScrub_good hu h]
  split
  case isTrue agrees =>
    obtain ⟨key, mask, valid⟩ := agrees
    exact ⟨rfl, key, mask, rfl, valid, fun _ _ => rfl⟩
  case isFalse =>
    rw [scrubFix_good (by simpa using h)]
    simp +contextual [fromCopy, mEntry_setEntry_ne]

end Sys2Proof.Machine
end

section
/-!
SUPPORT. The Mould's searches (R272–R274, R281): which entry wins, and a pass over entries free of errors.
-/

namespace Sys2Proof.Machine

open Sys2Proof Sys2Proof.Safety

/-! ## The winner -/

section Winner

variable {key : BitVec 128} {es : List (Nat × MEntry)} {p q : Nat × MEntry} {best : Option (Nat × MEntry)}

/-- The better of the best entry so far and the next one: the next where it matches and has more ones (R273). -/
def better (key : BitVec 128) (best : Option (Nat × MEntry)) (p : Nat × MEntry) : Option (Nat × MEntry) :=
  if entryMatches key p.2 && best.all (fun q => decide (onesOf q.2.mask < onesOf p.2.mask)) then some p else best

theorem winnerOf_eq_foldl (key : BitVec 128) (es : List (Nat × MEntry)) : winnerOf key es = es.foldl (better key) none := by
  unfold winnerOf
  congr 1
  funext best p
  cases hit : entryMatches key p.2 <;> cases best <;> simp [better, hit]

theorem better_eq_or : better key best p = best ∨ entryMatches key p.2 = true ∧ better key best p = some p := by
  unfold better
  split
  case isTrue h => exact .inr ⟨(Bool.and_eq_true_iff.mp h).1, rfl⟩
  case isFalse => exact .inl rfl

/-- An entry with no more ones than the best one leaves it. -/
theorem better_keep (h : entryMatches key p.2 = true → onesOf p.2.mask ≤ onesOf q.2.mask) :
    better key (some q) p = some q := by
  refine if_neg fun more => ?_
  simp only [Option.all_some, Bool.and_eq_true, decide_eq_true_eq] at more
  exact Nat.not_lt.mpr (h more.1) more.2

/-- An entry that matches with more ones than the best one takes its place. -/
theorem better_take (hit : entryMatches key p.2 = true) (h : ∀ q, best = some q → onesOf q.2.mask < onesOf p.2.mask) :
    better key best p = some p := by
  refine if_pos ?_
  simpa only [hit, Bool.true_and, Option.all_eq_true, decide_eq_true_eq] using h

/-- The winner is one of the entries, and it matches. -/
theorem winnerOf_some (h : winnerOf key es = some q) : q ∈ es ∧ entryMatches key q.2 = true := by
  rw [winnerOf_eq_foldl] at h
  refine List.foldlRecOn (motive := fun best => ∀ q, best = some q → q ∈ es ∧ entryMatches key q.2 = true)
    es (better key) (fun q hq => by cases hq) (fun best ih p hp q hq => ?_) q h
  rcases better_eq_or (key := key) (best := best) (p := p) with same | ⟨hit, taken⟩
  · exact ih q (same.symm.trans hq)
  · cases taken.symm.trans hq
    exact ⟨hp, hit⟩

/-- Where no entry matches there is no winner (R274). -/
theorem winnerOf_none (h : ∀ p ∈ es, entryMatches key p.2 = false) : winnerOf key es = none := by
  cases found : winnerOf key es with
  | none => rfl
  | some q =>
    obtain ⟨mem, hit⟩ := winnerOf_some found
    rw [h q mem] at hit
    cases hit

/-- Among entries in rising order of index the one that matches with the most ones, the lowest of equals, wins (R273). -/
theorem winnerOf_eq_some (sorted : (es.map (·.1)).Pairwise (· < ·)) (mem : q ∈ es) (hit : entryMatches key q.2 = true)
    (best : ∀ p ∈ es, entryMatches key p.2 = true →
      onesOf p.2.mask < onesOf q.2.mask ∨ (onesOf p.2.mask = onesOf q.2.mask ∧ q.1 ≤ p.1)) :
    winnerOf key es = some q := by
  obtain ⟨before, later, rfl⟩ := List.append_of_mem mem
  have lower : ∀ p ∈ before, p.1 < q.1 := by
    rw [List.map_append, List.pairwise_append] at sorted
    obtain ⟨-, -, cross⟩ := sorted
    exact fun p hp => cross _ (List.mem_map_of_mem hp) _ (List.mem_map_of_mem List.mem_cons_self)
  have taken : better key (winnerOf key before) q = some q := better_take hit fun b hb => by
    obtain ⟨hmem, hmatch⟩ := winnerOf_some hb
    have notBetter := best b (List.mem_append_left _ hmem) hmatch
    have earlier := lower b hmem
    omega
  rw [winnerOf_eq_foldl, List.foldl_append, List.foldl_cons, ← winnerOf_eq_foldl, taken]
  refine List.foldlRecOn (motive := fun b => b = some q) later (better key) rfl fun b hb p hp => ?_
  rw [hb]
  refine better_keep fun hmatch => ?_
  have notBetter := best p (List.mem_append_right _ (List.mem_cons_of_mem _ hp)) hmatch
  omega

end Winner

/-! ## A search among entries free of errors -/

section Clean

variable {m : Mould} {share ctx : Nat} {key : BitVec 128}

/-- The entries that a search of the share for the context covers (R277, R278). -/
def searched (m : Mould) (share ctx : Nat) : List (Nat × MEntry) :=
  m.entries.filter fun p => inRanges (searchRanges m share ctx) p.1

theorem mem_searched {p : Nat × MEntry} :
    p ∈ searched m share ctx ↔ p ∈ m.entries ∧ inRanges (searchRanges m share ctx) p.1 = true := List.mem_filter

theorem searched_sorted (h : (m.entries.map (·.1)).Pairwise (· < ·)) :
    ((searched m share ctx).map (·.1)).Pairwise (· < ·) := h.sublist (List.filter_sublist.map _)

theorem winnerOf_searched {i : Nat} {e : MEntry} (sorted : (m.entries.map (·.1)).Pairwise (· < ·))
    (h : Wins m share ctx key i e) : winnerOf key (searched m share ctx) = some (i, e) := by
  obtain ⟨mem, covered, hit, best⟩ := h
  refine winnerOf_eq_some (searched_sorted sorted) (mem_searched.mpr ⟨mem, covered⟩) hit fun p hp => ?_
  obtain ⟨hmem, hcov⟩ := mem_searched.mp hp
  exact best p hmem hcov

theorem find?_parityBad_searched (clean : CleanEntries m share ctx) :
    (searched m share ctx).find? (fun p => p.2.parityBad) = none := by
  refine List.find?_eq_none.mpr fun p hp => ?_
  obtain ⟨mem, covered⟩ := mem_searched.mp hp
  obtain ⟨parity, -⟩ := clean p mem covered
  simp [parity]

theorem mldPass_miss (clean : CleanEntries m share ctx) (h : winnerOf key (searched m share ctx) = none) :
    mldPass m share ctx key = .done m .miss := by
  have parity := find?_parityBad_searched clean
  unfold searched at h parity
  simp [mldPass, h, parity]

/-- A winner whose copy equals its compare array is confirmed, and its result is the answer (R274, R281). -/
theorem mldPass_hit {i : Nat} {e : MEntry} (clean : CleanEntries m share ctx)
    (h : winnerOf key (searched m share ctx) = some (i, e)) :
    mldPass m share ctx key = .done (mldBump m (2 * share + 1)) (.hit i e.cres) := by
  obtain ⟨found, hit⟩ := winnerOf_some h
  obtain ⟨mem, covered⟩ := mem_searched.mp found
  obtain ⟨-, poison, copy, ckey, cmask⟩ := clean _ mem covered
  dsimp only at poison copy ckey cmask
  have confirmed : copyConfirms key e = true := by
    rw [copyConfirms, ckey, cmask]
    exact (Bool.and_eq_true_iff.mp hit).2
  have parity := find?_parityBad_searched clean
  unfold searched at h parity
  simp [mldPass, h, parity, poison, copy, confirmed]

theorem mldSearch_of_pass {m' : Mould} {r : MResp} (h : mldPass (mldBump m (2 * share)) share ctx key = .done m' r) :
    mldSearch m share ctx key = (m', r) := by
  simp [mldSearch, h]

/-- A search that an entry wins answers its result and counts a search and a hit (R273, R274). -/
theorem mldSearch_hit {i : Nat} {e : MEntry} (clean : CleanEntries m share ctx)
    (sorted : (m.entries.map (·.1)).Pairwise (· < ·)) (h : Wins m share ctx key i e) :
    mldSearch m share ctx key = (mldBump (mldBump m (2 * share)) (2 * share + 1), .hit i e.cres) :=
  mldSearch_of_pass (mldPass_hit clean (winnerOf_searched sorted h))

/-- A search that no entry matches answers a miss and counts a search (R274). -/
theorem mldSearch_miss (clean : CleanEntries m share ctx)
    (h : ∀ p ∈ m.entries, inRanges (searchRanges m share ctx) p.1 = true → entryMatches key p.2 = false) :
    mldSearch m share ctx key = (mldBump m (2 * share), .miss) := by
  refine mldSearch_of_pass (mldPass_miss clean (winnerOf_none fun p hp => ?_))
  obtain ⟨mem, covered⟩ := mem_searched.mp hp
  exact h p mem covered

end Clean

end Sys2Proof.Machine
end

section
/-!
SUPPORT. The Mould's commands (R271–R289).
-/

namespace Sys2Proof.Machine

open Sys2Proof Sys2Proof.Safety

/-- A command that works on one wheel's Mould completes with it, and every other wheel is as before. -/
theorem completes_onMld {s : State} {w : Fin 8} {c : Instr} {f : Mould → Mould} {P : State → Prop}
    (hc : exec c s = .next (onWheel s w fun x => onMld x f))
    (hP : ∀ t, (wheelOf t w).mld = f (wheelOf s w).mld → (∀ j, j ≠ w.val → wheelOf t j = wheelOf s j) → P t) :
    Completes c s P :=
  ⟨_, hc, hP _ (by rw [wheelOf_onWheel_self]; rfl) fun j hj => wheelOf_onWheel_ne s w j _ hj⟩

/-- Settles O32: each command is one operation on the wheel's Mould (`completes_onMld`), and the laws of that operation give
what it answers and leaves. -/
theorem mouldCommands : Obligations.MouldCommands := by
  intro s w m others
  refine ⟨fun share ctx key clean sorted => ⟨fun i e wins => ?_, fun noMatch => ?_⟩, fun i r hu => ?_,
    fun key mask res r hu idle size => ?_, fun sw r hs => ?_, fun hu copy => ?_⟩
  · -- MOULD_SEARCH that hits
    refine completes_onMld rfl fun t mld frame => ?_
    rw [mld, mldSearch_hit clean sorted wins]
    exact ⟨rfl, rfl, frame⟩
  · -- MOULD_SEARCH that misses
    refine completes_onMld rfl fun t mld frame => ?_
    rw [mld, mldSearch_miss clean noMatch]
    exact ⟨rfl, rfl, frame⟩
  · -- MOULD_UPDATE of a poisoned entry
    refine completes_onMld rfl fun t mld frame => ?_
    rw [mld, mldUpdate_unpoison hu, mEntry_mldWrite_self]
    exact ⟨rfl, rfl, rfl, rfl, rfl, rfl, fun k hk => mEntry_mldWrite_ne _ _ _ _ hk, frame⟩
  · -- MOULD_UPDATE with a translation install
    refine completes_onMld rfl fun t mld frame => ?_
    obtain ⟨upds, rr, entry, rest⟩ := mldInstall_rr (m := { m with upds := r }) key mask res size
    rw [mld, mldUpdate_install hu idle]
    exact ⟨upds, rr, congrArg MEntry.key entry, congrArg MEntry.mask entry, congrArg MEntry.cres entry,
      congrArg MEntry.valid entry, rest, frame⟩
  · -- MOULD_SWEEP
    refine completes_onMld rfl fun t mld frame => ?_
    rw [mld, mldSweep_cons hs]
    exact ⟨rfl, frame, mem_sweepEntries _ sw⟩
  · -- MOULD_SCRUB
    refine completes_onMld rfl fun t mld frame => ?_
    rw [mld]
    obtain ⟨pointer, key, mask, res, valid, rest⟩ := mldScrub_agrees hu copy
    exact ⟨pointer, key, mask, res, valid, rest, frame⟩

end Sys2Proof.Machine
end

section
/-!
SUPPORT. Eager output with room (R196, R382): where the pool holds a free buffer for each buffer of an eager stream, one
command puts them all.
-/

namespace Sys2Proof.Machine

/-! ## Free buffers -/

theorem hoopObtain_free (x : Wheel) (h k : Nat) : (hoopOf (hoopObtain x h k) h).free = (hoopOf x h).free.drop k := by
  rw [hoopObtain, hoopOf_onHoop_self]

theorem hoopPut_free (x : Wheel) (h : Nat) (u : UnitId) (hd : Handle) (j : Nat) :
    (hoopOf (hoopPut x h u hd) j).free = (hoopOf x j).free := by
  unfold hoopPut
  by_cases hj : j = h
  · subst hj; rw [hoopOf_onHoop_self]
  · rw [hoopOf_onHoop_ne _ _ _ _ hj]

/-- A put takes a buffer that was obtained before, none of the pool. -/
theorem putBuffer_free (x : Wheel) (u : UnitId) (kOut port : Nat) (bs : List Byte) (last err fill : Bool) (j : Nat) :
    (hoopOf (putBuffer x u kOut port bs last err fill) j).free = (hoopOf x j).free := by
  simp only [putBuffer]
  split
  · rw [hoopOf_onEng, hoopPut_free, hoopOf_caveWrite]
  · rfl

/-- With a free buffer in the pool the engine holds one more on the port. -/
theorem engObtain_room {x : Wheel} {u : UnitId} {port h : Nat} (hp : portHoop (engOf x u).outP port = some h)
    (hf : (hoopOf x h).free ≠ []) : 0 < heldOn (engOf (engObtain x u port) u) port ∧
    (hoopOf (engObtain x u port) h).free = (hoopOf x h).free.drop 1 := by
  obtain ⟨i, r, hf⟩ := List.exists_cons_of_ne_nil hf
  have obtain_eq : engObtain x u port = onEng (hoopObtain x h 1) u fun e => { e with held := e.held ++ [(port, i)] } := by
    simp only [engObtain, hp, hf]
  rw [obtain_eq]
  exact ⟨by simp [heldOn], by rw [hoopOf_onEng, hoopObtain_free]⟩

/-! ## One eager stream -/

/-- The engine's output is one eager stream, and the pool of its hoop has a free buffer for each of its buffers. -/
structure EagerRoom (x : Wheel) (u : UnitId) (o : OutStream) (h : Nat) : Prop where
  outs : (engOf x u).outs = [o]
  eager : o.eager = true
  hoop : portHoop (engOf x u).outP o.port = some h
  room : o.bufs.length ≤ (hoopOf x h).free.length

/-- The wheel with the first buffer `b` of an eager stream put and the buffers `bs` to come. -/
def eagerStep (x : Wheel) (u : UnitId) (kOut : Nat) (o : OutStream) (b : List Byte) (bs : List (List Byte)) : Wheel :=
  onEng (putBuffer (engObtain x u o.port) u kOut o.port b (bs.isEmpty && o.last) (bs.isEmpty && o.err) o.fill) u
    fun e => { e with outs := [{ o with bufs := bs }] }

section Step

variable {x : Wheel} {u : UnitId} {o : OutStream} {h : Nat} {b : List Byte} {bs : List (List Byte)}
  (r : EagerRoom x u o h) (hb : o.bufs = b :: bs)
include r hb

/-- The first buffer is obtained. -/
theorem EagerRoom.obtains : 0 < heldOn (engOf (engObtain x u o.port) u) o.port ∧
    (hoopOf (engObtain x u o.port) h).free = (hoopOf x h).free.drop 1 := by
  refine engObtain_room r.hoop fun none_free => ?_
  have room := r.room
  simp [hb, none_free] at room

/-- With room the first buffer is put. -/
theorem EagerRoom.eagerPut_succ (kOut n : Nat) :
    eagerPut u kOut (n + 1) x = eagerPut u kOut n (eagerStep x u kOut o b bs) := by
  obtain ⟨p, mem⟩ := List.exists_mem_of_length_pos (r.obtains hb).1
  have found : (engOf (engObtain x u o.port) u).held.any (fun p => p.1 == o.port) = true :=
    List.any_eq_true.mpr ⟨p, List.mem_filter.mp mem⟩
  simp only [eagerPut, r.outs, r.eager, hb, found, Bool.not_true, Bool.false_eq_true, if_false, if_true, eagerStep]

/-- What is left has room. -/
theorem EagerRoom.step (kOut : Nat) : EagerRoom (eagerStep x u kOut o b bs) u { o with bufs := bs } h := by
  obtain ⟨holds, rest⟩ := r.obtains hb
  obtain ⟨⟨held, eng⟩, -⟩ := engObtain_obtained x u o.port
  have task := (putBuffer_putOn kOut b (bs.isEmpty && o.last) (bs.isEmpty && o.err) o.fill holds).task
  refine ⟨?outs, r.eager, ?hoop, ?room⟩
  case outs => rw [eagerStep, engOf_onEng_self]
  case hoop =>
    rw [eagerStep, engOf_onEng_self]
    simp only [task.outP, eng, r.hoop]
  case room =>
    have room := r.room
    rw [hb, List.length_cons] at room
    rw [eagerStep, hoopOf_onEng, putBuffer_free, rest, List.length_drop]
    exact Nat.le_sub_of_add_le room

end Step

/-- With room for it an eager stream is put to its end. -/
theorem EagerRoom.eagerPut_outs {x : Wheel} {u : UnitId} {o : OutStream} {h : Nat} (r : EagerRoom x u o h) (kOut n : Nat)
    (hn : o.bufs.length < n) : (engOf (eagerPut u kOut n x) u).outs = [] := by
  induction n generalizing x o with
  | zero => exact absurd hn (Nat.not_lt_zero _)
  | succ n ih =>
    cases hb : o.bufs with
    | nil =>
      have last : eagerPut u kOut (n + 1) x = eagerPut u kOut n (onEng x u fun e => { e with outs := [] }) := by
        simp only [eagerPut, r.outs, r.eager, hb, Bool.not_true, Bool.false_eq_true, if_false]
      rw [last]
      cases n <;> simp [eagerPut]
    | cons b bs =>
      rw [hb, List.length_cons] at hn
      rw [r.eagerPut_succ hb]
      exact ih (r.step hb kOut) (Nat.lt_of_succ_lt_succ hn)

/-- An eager stream with room leaves nothing to wait for. -/
theorem EagerRoom.ready {x : Wheel} {u : UnitId} {o : OutStream} {h : Nat} (r : EagerRoom x u o h) (kOut : Nat) :
    outsReady (engOf (outAdvance x u kOut) u) = true := by
  have count : o.bufs.length < outCount (engOf x u) + 1 := by
    simp only [outCount, r.outs, List.foldl_cons, List.foldl_nil]
    omega
  have done := r.eagerPut_outs kOut _ count
  simp [outAdvance, obtainAll, outsReady, outsHeld, done]

end Sys2Proof.Machine
end

section
/-!
SUPPORT. The grader operations (R347–R369): a whole input is turned into the list and put; a cancellation drains.
-/

namespace Sys2Proof.Machine

open Sys2Proof Sys2Proof.Safety

theorem engOf_graderUnit (x : Wheel) (g : Nat) : engOf x (graderUnit g) = graderOf x g := rfl

/-! ## The input of a grader -/

/-- Of a port whose input is complete nothing is taken. -/
theorem gPull_done {x : Wheel} {u : UnitId} {port : Nat} (n : Nat)
    (h : portDone (engOf x u) port (gNeed (engOf x u) port) = true) : gPull u port n x = x := by
  cases n with
  | zero => rfl
  | succ n =>
    simp only [gPull, h, if_true]
    split
    · rfl
    · split <;> rfl

theorem gPullAll_done {x : Wheel} {u : UnitId} (h : ∀ q ∈ gNeeds (engOf x u), portDone (engOf x u) q.1 q.2 = true) :
    gPullAll u x = x := by
  refine List.foldlRecOn (motive := fun y => y = x) _ _ rfl fun y hy p hp => ?_
  subst hy
  split
  · rfl
  · exact gPull_done _ (h _ (List.mem_map_of_mem hp))

theorem gPull_sameTask (u : UnitId) (port n : Nat) (x : Wheel) : SameTask (engOf x u) (engOf (gPull u port n x) u) := by
  induction n generalizing x with
  | zero => exact .refl _
  | succ n ih =>
    unfold gPull
    dsimp only
    split
    · exact .refl _
    · split
      · exact .refl _
      · split
        · exact .refl _
        · exact (engTake_sameTask ..).trans ((sameTask_onEng ⟨_, _, _, _, _, rfl⟩).trans (ih _))

theorem gPullAll_sameTask (u : UnitId) (x : Wheel) : SameTask (engOf x u) (engOf (gPullAll u x) u) := by
  refine List.foldlRecOn (motive := fun y => SameTask (engOf x u) (engOf y u)) _ _ (.refl _) fun y hy p _ => ?_
  split
  · exact hy
  · exact hy.trans (gPull_sameTask ..)

/-! ## Failures (R369) -/

/-- A failing grader operation ends with the failure at once, or drains its input before. -/
theorem gFailTo_ends (x : Wheel) (u : UnitId) (f : Ended) : FailsWith (engOf (gFailTo x u f) u) f := by
  obtain ⟨pend, work⟩ := startDrain_eng x u f (gErrOuts (engOf x u).desc)
  have pulled := gPullAll_sameTask u (startDrain x u f (gErrOuts (engOf x u).desc))
  exact (drainStep_ends 16 16 _ (pulled.pend.trans pend) (pulled.work.trans work)).2

/-- A cancelled operation past its checks fails with 0x0701. -/
theorem graderStop_fails {x : Wheel} {g : Nat} {op : OpRef} (hop : (graderOf x g).op = some op) (hfin : (graderOf x g).fin = none)
    (hc : (graderOf x g).st ≠ .check) (hd : (graderOf x g).st ≠ .drain) (hf : (graderOf x g).st ≠ .fenced)
    (ho : (graderOf x g).st ≠ .outOfService) : graderStop x g = gFailTo x (graderUnit g) ⟨0x0701, 0, 0xFFFFFFF⟩ := by
  simp [graderStop, engOf_graderUnit, hop, hfin, hc, hd, hf, ho]

/-! ## The output -/

/-- Where every buffer can be had, the grader puts its whole output and ends. -/
theorem gDeliver_ready {x : Wheel} {u : UnitId} (f : Ended) (hr : outsReady (engOf (outAdvance x u 16) u) = true) :
    let y := gDeliver x u f
    (engOf y u).fin = some f ∧ (engOf y u).outs = [] ∧
      ∀ h, putsOf y h = putsOf x h ++ streamPuts u (engOf x u).outP h (engOf x u).outs := by
  obtain ⟨fin, -, empty, puts⟩ := deliverOuts_ready f hr
  simp only [gDeliver, engOf_onEng_self, putsOf, hoopOf_onEng]
  exact ⟨fin, empty, puts⟩

/-- A stream depends on the wheel's hoops and the output ports alone. -/
theorem outStream_onEng (x : Wheel) (u : UnitId) (f : Eng → Eng) {e e' : Eng} (hp : e'.outP = e.outP) (port : Nat)
    (bs : List Byte) : outStream (onEng x u f) e' port bs = outStream x e port bs := by
  simp only [outStream, outBytes_onEng x u f hp]

/-- The stream of a grader's result. -/
def gStream (x : Wheel) (e : Eng) (all : List GEnt) : OutStream :=
  outStream x e (gOut e.desc) (gOutBytes e.desc (gResult e.desc all))

/-- The end of a grader operation that succeeds. -/
def gEnd (d : List Byte) (all : List GEnt) : Ended :=
  ⟨0, 0, if gMode d = 3 ∧ gDistinct d then (gResult d all).distinct else 0⟩

/-- Forming the output sets the statistics and the one stream, which is eager (R364), and then delivers it. -/
theorem gFinish_eq (x : Wheel) (u : UnitId) (all : List GEnt) :
    ∃ f : Eng → Eng, gFinish x u all = gDeliver (onEng x u f) u (gEnd (engOf x u).desc all) ∧
      ∀ e, (f e).outP = e.outP ∧ (f e).outs = [{ gStream x (engOf x u) all with eager := true }] :=
  ⟨_, rfl, fun _ => ⟨rfl, rfl⟩⟩

/-- With room for its list the operation puts it and ends. -/
theorem gFinish_room {x : Wheel} {u : UnitId} {all : List GEnt} (hr : RoomFor x (engOf x u) (gStream x (engOf x u) all)) :
    let y := gFinish x u all
    (engOf y u).fin = some (gEnd (engOf x u).desc all) ∧ (engOf y u).outs = [] ∧
      ∀ h, putsOf y h = putsOf x h ++ streamPuts u (engOf x u).outP h [gStream x (engOf x u) all] := by
  obtain ⟨h, hoop, room⟩ := hr
  obtain ⟨f, finish, formed⟩ := gFinish_eq x u all
  obtain ⟨outP, outs⟩ := formed (engOf x u)
  have eager : EagerRoom (onEng x u f) u { gStream x (engOf x u) all with eager := true } h :=
    ⟨by rw [engOf_onEng_self, outs], rfl, by rw [engOf_onEng_self, outP, hoop], by rw [hoopOf_onEng]; exact room⟩
  obtain ⟨fin, empty, puts⟩ := gDeliver_ready (gEnd (engOf x u).desc all) (eager.ready 16)
  rw [finish]
  refine ⟨fin, empty, fun j => ?_⟩
  rw [puts, engOf_onEng_self, outP, outs, putsOf, hoopOf_onEng]
  rfl

/-! ## The commands -/

/-- The wheel with grader `g` in RUN. -/
def gRunning (x : Wheel) (g : Nat) : Wheel := onEng x (graderUnit g) fun e => { e with st := .run }

theorem engOf_gRunning (x : Wheel) (g : Nat) : engOf (gRunning x g) (graderUnit g) = { graderOf x g with st := .run } :=
  engOf_onEng_self ..

theorem hoopOf_gRunning (x : Wheel) (g h : Nat) : hoopOf (gRunning x g) h = hoopOf x h := hoopOf_onEng ..

theorem gStream_gRunning (x : Wheel) (g : Nat) (all : List GEnt) :
    gStream (gRunning x g) { graderOf x g with st := .run } all = gStream x (graderOf x g) all :=
  outStream_onEng x _ _ (e := graderOf x g) rfl ..

/-- Without an error of the working store nothing is corrected. -/
theorem gStoreCorr_gRunning {x : Wheel} {g : Nat} (h : (graderOf x g).store = 0) :
    gStoreCorr (gRunning x g) (graderUnit g) = gRunning x g := by
  rw [gStoreCorr, gRunning, onEng_onEng]
  exact onEng_congr (by simp [engOf_graderUnit, h])

/-- A grader with its whole input, free of failures, forms its output. -/
theorem graderRun_fed {x : Wheel} {g : Nat} {op : OpRef} (hfed : EngFed (graderOf x g) op (gNeeds (graderOf x g)))
    (hin : firstFail (gInput (graderOf x g)).2 = none) :
    graderRun x g = gFinish (gRunning x g) (graderUnit g) (gInput (graderOf x g)).1 := by
  obtain ⟨-, -, hst, hpend, -, -, hstore, needs⟩ := hfed
  have drain : (graderOf x g).st ≠ .drain := by rcases hst with h | h <;> simp [h]
  have pulled : gPullAll (graderUnit g) x = x := gPullAll_done needs
  have full : (gNeeds (graderOf x g)).any (fun p => !(portDone (graderOf x g) p.1 p.2)) = false := by
    simpa using needs
  have run : onEng x (graderUnit g) (fun e => { e with st := .run }) = gRunning x g := rfl
  simp [graderRun, drain, hpend, pulled, engOf_graderUnit x g, full, hin, run, gStoreCorr_gRunning hstore, engOf_gRunning, hstore]

/-- The command of the operation's own mode runs it. -/
theorem graderCmd_fed {x : Wheel} {g : Nat} {op : OpRef} {needs : List (Nat × Nat)} (hfed : EngFed (graderOf x g) op needs) :
    graderCmd x g (gMode (graderOf x g).desc) = graderRun x g := by
  obtain ⟨hop, hfin, hst, -⟩ := hfed
  rcases hst with hst | hst <;> simp [graderCmd, hop, hfin, hst]

/-- A mode's command puts the list of an operation whose whole input is there, and ends it. -/
theorem graderCmd_lists {x : Wheel} {g : Nat} {op : OpRef} (hfed : EngFed (graderOf x g) op (gNeeds (graderOf x g)))
    (hin : firstFail (gInput (graderOf x g)).2 = none)
    (hr : RoomFor x (graderOf x g) (gStream x (graderOf x g) (gInput (graderOf x g)).1)) :
    let e := graderOf x g
    let y := graderCmd x g (gMode e.desc)
    (graderOf y g).fin = some (gEnd e.desc (gInput e).1) ∧ (graderOf y g).outs = [] ∧
      ∀ h, putsOf y h = putsOf x h ++ streamPuts (graderUnit g) e.outP h [gStream x e (gInput e).1] := by
  have runs := (graderCmd_fed hfed).trans (graderRun_fed hfed hin)
  obtain ⟨h, hoop, room⟩ := hr
  have finished := gFinish_room (x := gRunning x g) (u := graderUnit g) (all := (gInput (graderOf x g)).1)
  rw [engOf_gRunning, gStream_gRunning] at finished
  obtain ⟨fin, empty, puts⟩ := finished ⟨h, hoop, by rw [hoopOf_gRunning]; exact room⟩
  dsimp only
  rw [runs]
  exact ⟨fin, empty, fun j => (puts j).trans (by rw [putsOf, hoopOf_gRunning, putsOf])⟩

/-- Settles O24: SORT, SELECT and MERGE are one command of the operation's mode, which puts the list (`graderCmd_lists`); a
cancellation drains (`graderStop_fails`, `gFailTo_ends`). -/
theorem graderOperations : Obligations.GraderOperations := by
  intro s w g op x e es r o others ends ready
  have lists : ∀ m c, exec c s = .next (onWheel s w fun x => graderCmd x g m) → ready m → Completes c s ends := by
    rintro m c hc ⟨rfl, fed, clean, room⟩
    obtain ⟨fin, empty, puts⟩ := graderCmd_lists fed clean room
    refine ⟨_, hc, ?_, ?_, ?_, fun j hj => wheelOf_onWheel_ne _ _ _ _ hj⟩
    · rw [wheelOf_onWheel_self]; exact fin
    · rw [wheelOf_onWheel_self]; exact empty
    · rw [PutsStreams, putsFrom_iff, wheelOf_onWheel_self]; exact puts
  refine ⟨lists 1 (.sort w g) rfl, lists 2 (.select w g) rfl, lists 3 (.merge w g) rfl, ?cancel⟩
  intro hcan hop hfin hcheck hdrain hfenced hout
  have exec_eq : exec (.graderCancel w g) s = .next (onWheel s w fun x => graderStop x g) := by
    change execGraderCancel w g s = _
    rw [execGraderCancel, if_pos hcan]
  refine ⟨_, exec_eq, fun j hj => wheelOf_onWheel_ne _ _ _ _ hj, ?_⟩
  rw [wheelOf_onWheel_self, graderStop_fails hop hfin hcheck hdrain hfenced hout]
  exact gFailTo_ends x (graderUnit g) _

end Sys2Proof.Machine
end

section
/-!
SUPPORT. What leaves Rennet: the records of its failed flows and saturated counters (R531–R536) leave the wheels alone, and
the trace ring (R437, R438) no more than memory, statistics and the trace itself.
-/

namespace Sys2Proof.Machine

/-! ## Records -/

/-- The wheels and the mesh are the same in both states. -/
def WheelsKept (s t : State) : Prop := t.wheels = s.wheels ∧ t.mesh = s.mesh

theorem WheelsKept.refl (s : State) : WheelsKept s s := ⟨rfl, rfl⟩

theorem WheelsKept.trans {a b c : State} (h : WheelsKept a b) (h' : WheelsKept b c) : WheelsKept a c :=
  ⟨h'.1.trans h.1, h'.2.trans h.2⟩

theorem WheelsKept.wheelOf {s t : State} (h : WheelsKept s t) (w : Nat) : wheelOf t w = wheelOf s w := by
  rw [Machine.wheelOf, h.1, Machine.wheelOf]

theorem wheelsKept_msixSend (s : State) (p vec : Nat) : WheelsKept s (msixSend s p vec) := by
  unfold msixSend
  split <;> exact ⟨rfl, rfl⟩

theorem wheelsKept_hostErr (s : State) (p mask ctx code seq : Nat) : WheelsKept s (hostErr s p mask ctx code seq) := by
  unfold hostErr
  dsimp only
  split
  · exact WheelsKept.trans ⟨rfl, rfl⟩ (wheelsKept_msixSend ..)
  · exact ⟨rfl, rfl⟩

theorem wheelsKept_hostWrite {s t : State} {p a : Nat} {bs : List Byte} (h : hostWrite s p a bs = some t) : WheelsKept s t := by
  unfold hostWrite at h
  split at h
  · cases h; exact ⟨rfl, rfl⟩
  · cases h

theorem wheelsKept_writeRec {s t : State} {ctx : Nat} (h : writeRec s ctx = some t) : WheelsKept s t := by
  unfold writeRec at h
  dsimp only at h
  split at h
  · cases h
  · split at h
    · obtain ⟨s1, written, rfl⟩ := Option.map_eq_some_iff.mp h
      refine (wheelsKept_hostWrite written).trans ?_
      split
      · exact WheelsKept.trans ⟨rfl, rfl⟩ (wheelsKept_msixSend ..)
      · exact ⟨rfl, rfl⟩
    · cases h

theorem wheelsKept_flushGo (ctx n : Nat) (s : State) : WheelsKept s (flushGo ctx n s) := by
  induction n generalizing s with
  | zero => exact .refl s
  | succ n ih =>
    simp only [flushGo]
    split
    · exact .refl s
    · exact (wheelsKept_writeRec ‹_›).trans (ih _)

theorem wheelsKept_emitRec (s : State) (ctx : Nat) (c : Cpl) : WheelsKept s (emitRec s ctx c) := by
  unfold emitRec
  split
  · exact .refl s
  · have flushed : WheelsKept s (flushRing (onCtx s ctx fun x => { x with held := x.held ++ [c] }) ctx) :=
      WheelsKept.trans ⟨rfl, rfl⟩ (wheelsKept_flushGo ..)
    dsimp only
    split
    · exact flushed
    · exact flushed.trans (WheelsKept.trans ⟨rfl, rfl⟩ (wheelsKept_hostErr ..))

/-! ## The trace -/

/-- `y` is `x` after reports: only memory, the statistics of the whey engine, and Rennet's trace and registers differ. -/
def Reported (x y : Wheel) : Prop :=
  ∃ mem whey trace lost burst regs, y = { x with
    mem := mem, whey := { x.whey with regs := whey }
    rnt := { x.rnt with trace := trace, lost := lost, burst := burst, regs := regs } }

theorem Reported.refl (x : Wheel) : Reported x x := ⟨_, _, _, _, _, _, rfl⟩

theorem Reported.trans {x y z : Wheel} (h : Reported x y) (h' : Reported y z) : Reported x z := by
  obtain ⟨_, _, _, _, _, _, rfl⟩ := h
  obtain ⟨_, _, _, _, _, _, rfl⟩ := h'
  exact ⟨_, _, _, _, _, _, rfl⟩

/-- From `s` to `t` wheel `w` has only reported, and the mesh and the contexts are the same. -/
structure OnlyReports (w : Nat) (s t : State) : Prop where
  wheel : Reported (wheelOf s w) (wheelOf t w)
  mesh : t.mesh = s.mesh
  ctxs : t.ctxs = s.ctxs

theorem Reported.passes {x y : Wheel} (h : Reported x y) : y.rnt.passes = x.rnt.passes := by
  obtain ⟨_, _, _, _, _, _, rfl⟩ := h; rfl

theorem Reported.insts {x y : Wheel} (h : Reported x y) : y.rnt.insts = x.rnt.insts := by
  obtain ⟨_, _, _, _, _, _, rfl⟩ := h; rfl

theorem OnlyReports.trans {w : Nat} {a b c : State} (h : OnlyReports w a b) (h' : OnlyReports w b c) : OnlyReports w a c :=
  ⟨h.wheel.trans h'.wheel, h'.mesh.trans h.mesh, h'.ctxs.trans h.ctxs⟩

theorem onlyReports_onWheel {w : Nat} (s : State) (u : Nat) {f : Wheel → Wheel} (h : ∀ x, Reported x (f x)) :
    OnlyReports w s (onWheel s u f) := by
  refine ⟨?_, rfl, rfl⟩
  by_cases e : w = u
  · subst e; rw [wheelOf_onWheel_self]; exact h _
  · rw [wheelOf_onWheel_ne _ _ _ _ e]; exact .refl _

theorem onlyReports_devWrite (w : Nat) (s : State) (u pa : Nat) (bs : List Byte) : OnlyReports w s (devWrite s u pa bs).1 := by
  unfold devWrite
  dsimp only
  split
  · exact ⟨.refl _, rfl, rfl⟩
  · exact onlyReports_onWheel s _ fun _ => ⟨_, _, _, _, _, _, rfl⟩

theorem onlyReports_traceWrite (w : Nat) (s : State) (u : Nat) (r : BitVec 128) : OnlyReports w s (traceWrite s u r) := by
  unfold traceWrite
  dsimp only
  split
  · exact onlyReports_onWheel s u fun _ => ⟨_, _, _, _, _, _, rfl⟩
  · split
    · exact onlyReports_onWheel s u fun _ => ⟨_, _, _, _, _, _, rfl⟩
    · exact (onlyReports_devWrite w s u _ _).trans (onlyReports_onWheel _ u fun _ => ⟨_, _, _, _, _, _, rfl⟩)

theorem onlyReports_flushTrace (w : Nat) (s : State) (u : Nat) : OnlyReports w s (flushTrace s u) :=
  List.foldlRecOn (motive := OnlyReports w s) _ _ (onlyReports_onWheel s u fun _ => ⟨_, _, _, _, _, _, rfl⟩)
    fun t ht r _ => ht.trans (onlyReports_traceWrite w t u r)

theorem onlyReports_wheyBump (w : Nat) (s : State) (u k n : Nat) : OnlyReports w s (wheyBump s u k n) :=
  onlyReports_onWheel s u fun _ => ⟨_, _, _, _, _, _, rfl⟩

/-! ## Running Rennet -/

section Run

variable {s : State} {w : Nat} {f : RCtx → RCtx} {c : RCtx} (hc : f { x := wheelOf s w, w := w } = c)

include hc

/-- Rennet has acted on wheel `w` and has traced it; its records are not out yet. -/
theorem rRun_eq : ∃ s2, rRun s w f = c.sats.foldl (fun s t => satEvent s t.1 t.2.1 t.2.2)
      (c.fails.foldl (fun s r => emitRec s r.ctx (failRecord w r)) s2) ∧
    OnlyReports w (setWheel { s with mesh := s.mesh ++ c.mesh } w c.x) s2 := by
  subst hc
  exact ⟨_, rfl, (onlyReports_wheyBump ..).trans (onlyReports_flushTrace ..)⟩

/-- What Rennet's work leaves of its wheel and of the mesh, once it is reported. -/
theorem rRun_leaves : Reported c.x (wheelOf (rRun s w f) w) ∧ (rRun s w f).mesh = s.mesh ++ c.mesh := by
  obtain ⟨s2, run, ⟨wheel, mesh, -⟩⟩ := rRun_eq hc
  have failed := List.foldlRecOn (motive := WheelsKept s2) c.fails
    (fun s r => emitRec s r.ctx (failRecord w r)) (.refl s2) fun t ht r _ => ht.trans (wheelsKept_emitRec ..)
  have kept : WheelsKept s2 (rRun s w f) := run ▸ List.foldlRecOn (motive := WheelsKept s2) _ _ failed
    fun t ht r _ => ht.trans (wheelsKept_emitRec ..)
  rw [wheelOf_setWheel_self] at wheel
  exact ⟨kept.wheelOf w ▸ wheel, kept.2.trans mesh⟩

/-- Where no flow fails and no counter saturates, the contexts stay as they are. -/
theorem rRun_ctxs (hf : c.fails = []) (hs : c.sats = []) : (rRun s w f).ctxs = s.ctxs := by
  obtain ⟨s2, run, reports⟩ := rRun_eq hc
  rw [run, hf, hs]
  exact reports.ctxs

end Run

end Sys2Proof.Machine
end

section
/-!
SUPPORT. Rennet's state operations on one wheel (R415–R439): passes, flows and instances read back after a change, and the
bookkeeping (counters, registers, trace events, work interrupts) that leaves the instances and the passes alone.
-/

namespace Sys2Proof.Machine

open Sys2Proof Sys2Proof.Safety

/-! ## Passes -/

/-- Where the sought elements of a list are replaced by one that is sought too, the search finds it. -/
theorem find?_map_replace {α : Type} {p : α → Bool} {l : List α} {a b : α} (h : l.find? p = some a) (hb : p b = true) :
    (l.map fun x => if p x then b else x).find? p = some b := by
  have same : (p ∘ fun x => if p x then b else x) = p := by
    funext x
    by_cases e : p x = true <;> simp [e, hb]
  rw [List.find?_map, same, h, Option.map_some, if_pos (List.find?_some h)]

theorem findPass_setPass_self {r : Rennet} {ctx iter : Nat} {p q : Pass} (h : findPass r ctx iter = some p)
    (hc : q.ctx = p.ctx) (hi : q.iter = p.iter) : findPass (setPass r q) ctx iter = some q := by
  have key := List.find?_some h
  obtain ⟨rfl, rfl⟩ : q.ctx = ctx ∧ q.iter = iter := by simpa [hc, hi] using key
  exact find?_map_replace (p := fun p : Pass => p.ctx == q.ctx && p.iter == q.iter) h (by simp)

theorem findPass_congr {r r' : Rennet} (h : r'.passes = r.passes) (ctx iter : Nat) : findPass r' ctx iter = findPass r ctx iter := by
  rw [findPass, findPass, h]

/-- The completions that a pass counts by layer (R431). -/
def passCounts (r : Rennet) (ctx iter : Nat) : Option (List (Nat × Nat)) := (findPass r ctx iter).map (·.counts)

/-- A change of the passes one by one that keeps contexts, iterations and counts. -/
theorem passCounts_map (r : Rennet) {f : Pass → Pass} (hc : ∀ p, (f p).ctx = p.ctx) (hi : ∀ p, (f p).iter = p.iter)
    (hn : ∀ p, (f p).counts = p.counts) : passCounts { r with passes := r.passes.map f } = passCounts r := by
  funext ctx iter
  simp [passCounts, findPass, List.find?_map, Function.comp_def, hc, hi, hn]

theorem passCounts_openedInst (r : Rennet) (ctx opid iter : Nat) : passCounts (openedInst r ctx opid iter) = passCounts r := by
  refine passCounts_map r (fun p => ?_) (fun p => ?_) fun p => ?_ <;> split <;> rfl

theorem passCounts_layerCount (c : RCtx) (ctx iter layer : Nat) : passCounts (layerCount c ctx iter layer).x.rnt ctx iter =
    (findPass c.x.rnt ctx iter).map fun p => tmod 0 p.counts layer (· + 1) := by
  unfold layerCount
  split
  case h_1 p hp =>
    rw [hp]
    exact congrArg (Option.map (·.counts))
      (findPass_setPass_self (q := { p with counts := tmod 0 p.counts layer (· + 1) }) hp rfl rfl)
  case h_2 hp => rw [hp, passCounts, hp]; rfl

/-! ## Flows -/

@[simp] theorem flowOf_setFlow_self (r : Rennet) (f : Nat) (y : Flow) : flowOf (setFlow r f y) f = y := tget_tset_self ..

/-- A flow's state, the code it failed with and the operation that failed it (R433). -/
def flowEnd (r : Rennet) (f : Nat) : FlowSt × Nat × Nat :=
  ((flowOf r f).st, (flowOf r f).failCode, (flowOf r f).failOpid)

theorem flowEnd_setFlow (r : Rennet) (f : Nat) {y : Flow} (h : (y.st, y.failCode, y.failOpid) = flowEnd r f) :
    flowEnd (setFlow r f y) = flowEnd r := by
  funext g
  unfold flowEnd flowOf setFlow
  rw [tget_tset]
  split
  case isTrue e => rw [e]; exact h
  case isFalse => rfl

/-! ## Rennet alone, and its bookkeeping -/

/-- Of the wheel only Rennet differs. -/
structure RennetOnly (c c' : RCtx) : Prop where
  w : c'.w = c.w
  wheel : ∃ r, c'.x = { c.x with rnt := r }

theorem RennetOnly.refl (c : RCtx) : RennetOnly c c := ⟨rfl, _, rfl⟩

theorem RennetOnly.trans {a b c : RCtx} (h : RennetOnly a b) (h' : RennetOnly b c) : RennetOnly a c := by
  obtain ⟨r, e⟩ := h.wheel
  obtain ⟨r', e'⟩ := h'.wheel
  exact ⟨h'.w.trans h.w, r', by rw [e', e]⟩

theorem rennetOnly_rOn (c : RCtx) (f : Rennet → Rennet) : RennetOnly c (rOn c f) := ⟨rfl, _, rfl⟩

/-- Of Rennet only counters, registers, the trace and the work interrupts differ. -/
structure Noted (c c' : RCtx) : Prop where
  only : RennetOnly c c'
  insts : c'.x.rnt.insts = c.x.rnt.insts
  passes : c'.x.rnt.passes = c.x.rnt.passes
  flows : flowEnd c'.x.rnt = flowEnd c.x.rnt

theorem Noted.refl (c : RCtx) : Noted c c := ⟨.refl c, rfl, rfl, rfl⟩

theorem Noted.trans {a b c : RCtx} (h : Noted a b) (h' : Noted b c) : Noted a c :=
  ⟨h.only.trans h'.only, h'.insts.trans h.insts, h'.passes.trans h.passes, h'.flows.trans h.flows⟩

theorem Noted.passCounts {c c' : RCtx} (h : Noted c c') : passCounts c'.x.rnt = passCounts c.x.rnt := by
  funext ctx iter
  rw [Machine.passCounts, Machine.passCounts, findPass_congr h.passes]

theorem noted_rRegs (c : RCtx) (f : Regs → Regs) : Noted c (rRegs c f) := ⟨rennetOnly_rOn _ _, rfl, rfl, rfl⟩

theorem noted_rErr (c : RCtx) (mask flow code opid : Nat) : Noted c (rErr c mask flow code opid) := noted_rRegs _ _

theorem noted_dropOperand (c : RCtx) : Noted c (dropOperand c) := noted_rRegs _ _

theorem noted_traceEv (c : RCtx) (event prio cls engine flow iter opid code : Nat) :
    Noted c (traceEv c event prio cls engine flow iter opid code) := by
  unfold traceEv
  dsimp only
  split
  · exact ⟨rennetOnly_rOn _ _, rfl, rfl, rfl⟩
  · exact .refl c

theorem traceEv_mesh (c : RCtx) (event prio cls engine flow iter opid code : Nat) :
    (traceEv c event prio cls engine flow iter opid code).mesh = c.mesh := by
  unfold traceEv
  dsimp only
  split <;> rfl

theorem noted_sats (c : RCtx) (l : List (Nat × Nat × Nat)) : Noted c { c with sats := l } := ⟨⟨rfl, _, rfl⟩, rfl, rfl, rfl⟩

/-- A flow's counters change, and one that saturates is reported (R439). -/
theorem noted_counters (c : RCtx) {flow : Nat} {y : Flow} (h : (y.st, y.failCode, y.failOpid) = flowEnd c.x.rnt flow) (sat : Bool)
    (g : Regs → Regs) (mask : Nat) (l : List (Nat × Nat × Nat)) :
    Noted c (if sat then { rErr (rRegs (rOn c fun r => setFlow r flow y) g) mask flow 0 0 with sats := l }
      else rOn c fun r => setFlow r flow y) := by
  have counted : Noted c (rOn c fun r => setFlow r flow y) := ⟨rennetOnly_rOn _ _, rfl, rfl, flowEnd_setFlow _ _ h⟩
  split
  · exact counted.trans ((noted_rRegs _ g).trans ((noted_rErr _ mask flow 0 0).trans (noted_sats _ l)))
  · exact counted

theorem noted_flowCount (c : RCtx) (flow k : Nat) : Noted c (flowCount c flow k) := by
  unfold flowCount
  dsimp only
  split <;> refine noted_counters c ?_ _ _ _ _ <;> rfl

end Sys2Proof.Machine
end

section
/-!
SUPPORT. Layers across a part (R431, R432, R461) and the registers that Rennet acts on (R439, R444).
-/

namespace Sys2Proof.Machine

open Sys2Proof Sys2Proof.Safety

/-! ## The report of a wheel's part of a layer (R461) -/

/-- A plan with one more report. -/
def withReport (p : Plan) (iter n w : Nat) : Plan := { p with reports := p.reports ++ [(iter, n, w)] }

/-- Rennet's part of a report: it marks the layer closed and traces that. -/
def layerClosed (c : RCtx) (q : Pass) (iter n : Nat) : RCtx :=
  traceEv (rOn c fun r => setPass r { q with closed := n + 1 }) 6 0 0 0 0 iter n 0

section Closure

variable {s : State} {w ctx iter n : Nat} {p : Plan} {q : Pass} (hp : planOf s ctx = some p)
  (hd : layerDone s p w ctx iter n = true) (hq : findPass (wheelOf s w).rnt ctx iter = some q)

include hp hd hq

theorem closureReport_runs : ∃ f, f { x := wheelOf s w, w := w } = layerClosed { x := wheelOf s w, w := w } q iter n ∧
    closureReport s w ctx iter n = setPlan (wheyBump (rRun s w f) w 3 1) ctx (withReport p iter n w) := by
  simp only [closureReport, hp, hd, Bool.not_true, Bool.false_eq_true, if_false]
  refine ⟨_, ?_, rfl⟩
  simp only [hq, layerClosed]

/-- What the report leaves: the report in the plan, the layer closed on the wheel, and the rest of the context and the mesh
as they were. -/
theorem closureReport_leaves : let t := closureReport s w ctx iter n
    ctxOf t ctx = { ctxOf s ctx with plan := some (withReport p iter n w) } ∧ t.mesh = s.mesh ∧
      findPass (wheelOf t w).rnt ctx iter = some { q with closed := n + 1 } := by
  obtain ⟨f, hf, runs⟩ := closureReport_runs hp hd hq
  obtain ⟨wheel, mesh⟩ := rRun_leaves hf
  obtain ⟨fails, sats, -, -⟩ := traceEv_frame (rOn { x := wheelOf s w, w := w } fun r => setPass r { q with closed := n + 1 })
    6 0 0 0 0 iter n 0
  dsimp only
  rw [runs]
  refine ⟨?ctx, ?mesh, ?pass⟩
  case ctx =>
    rw [setPlan, ctxOf_onCtx_self, ctxOf, show (wheyBump (rRun s w f) w 3 1).ctxs = s.ctxs from rRun_ctxs hf fails sats]
    rfl
  case mesh =>
    refine Eq.trans (b := (rRun s w f).mesh) rfl (mesh.trans ?_)
    rw [layerClosed, traceEv_mesh]
    exact List.append_nil _
  case pass =>
    have bumped := (onlyReports_wheyBump w (rRun s w f) w 3 1).wheel
    refine Eq.trans (findPass_congr (bumped.passes.trans (wheel.passes.trans (noted_traceEv ..).passes)) ..) ?_
    exact findPass_setPass_self hq rfl rfl

end Closure

/-- Some wheel of the part has still to report: nothing follows the report. -/
theorem closureCmd_waits {s : State} {w ctx iter n v : Nat} {p : Plan} {q : Pass} (hp : planOf s ctx = some p)
    (hd : layerDone s p w ctx iter n = true) (hq : findPass (wheelOf s w).rnt ctx iter = some q) (hv : v ∈ partWheels p)
    (hw : v ≠ w) (hr : (iter, n, v) ∉ p.reports) : closureCmd s w ctx iter n = closureReport s w ctx iter n := by
  obtain ⟨card, -, -⟩ := closureReport_leaves hp hd hq
  have plan : planOf (closureReport s w ctx iter n) ctx = some (withReport p iter n w) := by rw [planOf, card]
  have missing : (partWheels (withReport p iter n w)).all
      (fun v => (withReport p iter n w).reports.contains (iter, n, v)) = false := by
    refine List.all_eq_false.mpr ⟨v, hv, ?_⟩
    simp [withReport, hr, hw]
  simp only [closureCmd, hp, hd, plan, missing, Bool.not_true, Bool.false_eq_true, if_false]

/-- An agreed layer with room for its record, which asks for no restart record and is not the last, is followed by the releases
of the next (R461). -/
theorem releaseNext_releases {s : State} {ctx iter n : Nat} {p : Plan} (hp : planOf s ctx = some p)
    (agreed : layerAgreed p iter n = true) (room : recRoom s ctx = true) (hs : (layerOf p n).restart = false)
    (next : n + 1 < p.layers.length) : ∃ p', releaseNext s ctx iter n = wheyBump { setPlan s ctx p' with
      mesh := s.mesh ++ (partWheels p).map fun w => .release w (anchorOf p) ctx iter (n + 1) } (anchorOf p) 3
        (partWheels p).length := by
  simp only [releaseNext, hp, agreed, room, hs, next, Bool.not_true, Bool.or_false, Bool.false_eq_true, if_false, if_true]
  exact ⟨_, rfl⟩

theorem sendNotices_alone {s : State} {ctx : Nat} {p : Plan} (hp : planOf s ctx = some p) (hm : p.nmod = 1) (hl : p.lmod = 0)
    (iter n : Nat) : sendNotices s ctx iter n = s := by
  simp [sendNotices, hp, hm, hl, upto, List.range_succ]

/-- The only wheel of a single-module part has reported: no notice goes out, and the next layer is released to it. -/
theorem closureCmd_alone {s : State} {w ctx iter n : Nat} {p : Plan} {q : Pass} (hp : planOf s ctx = some p)
    (hd : layerDone s p w ctx iter n = true) (hq : findPass (wheelOf s w).rnt ctx iter = some q) (hw : partWheels p = [w])
    (hm : p.nmod = 1) (hl : p.lmod = 0) (hr : p.reports = []) (room : recRoom s ctx = true)
    (hs : (layerOf p n).restart = false) (next : n + 1 < p.layers.length) :
    let t := closureReport s w ctx iter n
    ∃ p', closureCmd s w ctx iter n =
      wheyBump { setPlan t ctx p' with mesh := t.mesh ++ [.release w w ctx iter (n + 1)] } w 3 1 := by
  obtain ⟨card, -, -⟩ := closureReport_leaves hp hd hq
  have plan : planOf (closureReport s w ctx iter n) ctx = some (withReport p iter n w) := by rw [planOf, card]
  have wheels : partWheels (withReport p iter n w) = [w] := hw
  have reports : (withReport p iter n w).reports = [(iter, n, w)] := by rw [withReport, hr]; rfl
  have reported : (partWheels (withReport p iter n w)).all
      (fun v => (withReport p iter n w).reports.contains (iter, n, v)) = true := by
    simp [wheels, reports]
  have agreed : layerAgreed (withReport p iter n w) iter n = true := by
    rw [layerAgreed, reported, Bool.true_and, decide_eq_true_eq]
    exact Nat.le_trans (Nat.le_of_eq hm) (Nat.le_add_left ..)
  obtain ⟨p', released⟩ := releaseNext_releases plan agreed (by rw [recRoom, card]; exact room) hs next
  rw [wheels, show anchorOf (withReport p iter n w) = w by rw [anchorOf, wheels]; rfl] at released
  refine ⟨p', Eq.trans ?_ released⟩
  simp only [closureCmd, hp, hd, plan, reported, sendNotices_alone plan hm hl, Bool.not_true, Bool.false_eq_true, if_false, if_true]

/-! ## Releases (R432) -/

/-- A release that arrives raises the released layer of the open pass. -/
theorem layerRelease_raises {s : State} {w ctx iter n : Nat} {m : MeshMsg} {q : Pass}
    (hm : s.mesh.find? (releaseFor s w ctx iter n) = some m) (hq : findPass (wheelOf s w).rnt ctx iter = some q) :
    layerRelease s w ctx iter n = onWheel { s with mesh := s.mesh.erase m } w fun x =>
      { x with rnt := setPass x.rnt { q with released := max q.released n } } := by
  have pass : findPass (wheelOf { s with mesh := s.mesh.erase m } w).rnt ctx iter = some q := hq
  simp only [layerRelease, hm, onWheel, pass]

/-! ## The registers (R439, R444) -/

/-- The selected flow of RNT_FLOW_SEL, and its counters cleared. -/
def flowSelected (r : Rennet) (e : Nat) (clear : Bool) : Rennet :=
  let r' := { r with flowSel := e }
  if clear then setFlow r' e { flowOf r e with dispatched := 0, completed := 0, cancelled := 0, failed := 0 } else r'

theorem flowSelWrite_visible {s : State} {port w : Nat} (hv : wheelVisible s port w = true) (word : Nat) :
    flowSelWrite s port w word =
      onWheel s w fun x => { x with rnt := flowSelected x.rnt (bits word 10 0) (bitAt word 31) } := by
  simp only [flowSelWrite, hv, Bool.not_true, Bool.false_eq_true, if_false]
  rfl

/-- The value that a write leaves in RNT_TRACE_CTRL: the event mask, the size, and the enable of a valid ring. -/
def traceCtrl (word base : Nat) : Nat :=
  let lg := bits word 4 0
  bits word 15 8 * 256 + lg +
    (if decide (12 ≤ lg) && decide (lg ≤ 30) && decide (base % 2 ^ lg = 0) && bitAt word 31 then 2 ^ 31 else 0)

theorem traceCtrlWrite_accepted {s : State} {port w : Nat} (hv : wheelVisible s port w = true)
    (ha : bitAt (portOf s port).accept 3 = true) (word : Nat) :
    traceCtrlWrite s port w word = onWheel s w fun x =>
      { x with rnt := { x.rnt with regs := regSet x.rnt.regs 0x028 (traceCtrl word (regGet x.rnt.regs 0x030)) } } := by
  simp only [traceCtrlWrite, hv, ha, Bool.not_true, Bool.or_false, Bool.false_eq_true, if_false]
  rfl

@[simp] theorem regGet_regSet_self (r : Regs) (o x : Nat) : regGet (regSet r o x) o = x % 2 ^ 64 := by
  simp [regGet, regSet]

theorem traceCtrl_packed {b lg : Nat} (hb : b < 256) (hl : lg < 32) (on : Bool) :
    let v := (b * 256 + lg + if on then 2 ^ 31 else 0) % 2 ^ 64
    bits v 15 8 = b ∧ bits v 4 0 = lg ∧ bitAt v 31 = on := by
  cases on <;> simp [bits, bitAt] <;> omega

/-- The fields of RNT_TRACE_CTRL after a write. -/
theorem traceCtrl_fields (word base : Nat) :
    let lg := bits word 4 0
    let v := traceCtrl word base % 2 ^ 64
    bits v 15 8 = bits word 15 8 ∧ bits v 4 0 = lg ∧
      (bitAt v 31 = true ↔ bitAt word 31 = true ∧ 12 ≤ lg ∧ lg ≤ 30 ∧ base % 2 ^ lg = 0) := by
  have mask : bits word 15 8 < 256 := Nat.mod_lt _ (by decide)
  have size : bits word 4 0 < 32 := Nat.mod_lt _ (by decide)
  obtain ⟨events, lg, enable⟩ := traceCtrl_packed mask size (decide (12 ≤ bits word 4 0) && decide (bits word 4 0 ≤ 30) &&
    decide (base % 2 ^ bits word 4 0 = 0) && bitAt word 31)
  refine ⟨events, lg, ?_⟩
  rw [traceCtrl, enable]
  simp only [Bool.and_eq_true, decide_eq_true_eq]
  exact ⟨fun ⟨⟨⟨low, high⟩, aligned⟩, on⟩ => ⟨on, low, high, aligned⟩,
    fun ⟨on, low, high, aligned⟩ => ⟨⟨⟨low, high⟩, aligned⟩, on⟩⟩

/-- What a command does, where its meaning is equal to a state that has the property. -/
theorem completes_of_eq {c : Instr} {s t t' : State} {P : State → Prop} (hc : exec c s = .next t) (e : t = t') (h : P t') :
    Completes c s P := ⟨t, hc, e ▸ h⟩

/-- Settles O31: a report leaves what `closureReport_leaves` says, after which the wheel waits for the others
(`closureCmd_waits`) or, alone, is sent the next layer (`closureCmd_alone`); a release raises the pass's layer; and the
registers are read back. -/
theorem layersAndRennetRegisters : Obligations.LayersAndRennetRegisters := by
  intro s w x iter layer port word n
  refine ⟨?report, ?alone, ?release, ?flowSel, ?traceCtrl⟩
  case report =>
    intro p q v hp hd hq hv hw hr
    obtain ⟨card, -, pass⟩ := closureReport_leaves hp hd hq
    exact completes_of_eq rfl (closureCmd_waits hp hd hq hv hw hr) ⟨congrArg Ctx.plan card, pass⟩
  case alone =>
    intro p q hp hd hq hw hm hl hr _ room hs next
    obtain ⟨-, mesh, pass⟩ := closureReport_leaves hp hd hq
    obtain ⟨p', runs⟩ := closureCmd_alone hp hd hq hw hm hl hr room hs next
    refine completes_of_eq rfl runs ⟨congrArg (· ++ [MeshMsg.release w w x iter (n + 1)]) mesh, ?_⟩
    exact (findPass_congr (onlyReports_wheyBump w _ w 3 1).wheel.passes ..).trans pass
  case release =>
    intro q m hm hq
    refine completes_of_eq rfl (layerRelease_raises hm hq) ⟨rfl, ?_, fun j hj => wheelOf_onWheel_ne _ _ _ _ hj⟩
    rw [rnt, wheelOf_onWheel_self]
    exact findPass_setPass_self hq rfl rfl
  case flowSel =>
    intro hv
    refine completes_of_eq rfl (flowSelWrite_visible hv word.toNat) ?_
    rw [rnt, wheelOf_onWheel_self]
    refine ⟨?_, fun clear => ?_, fun keep => ?_, ?_⟩
    · unfold flowSelected; split <;> rfl
    · rw [flowSelected, if_pos clear]; exact flowOf_setFlow_self ..
    · rw [keep]; rfl
    · unfold flowSelected; split <;> rfl
  case traceCtrl =>
    intro hv ha
    refine completes_of_eq rfl (traceCtrlWrite_accepted hv ha word.toNat) ?_
    rw [rnt, wheelOf_onWheel_self]
    simp only [regGet_regSet_self]
    exact traceCtrl_fields ..

end Sys2Proof.Machine
end

section
/-!
SUPPORT. Operands stored and instances dispatched (R418–R425, R434).
-/

namespace Sys2Proof.Machine

open Sys2Proof Sys2Proof.Safety

/-! ## Storing an operand -/

theorem findInst_congr {r r' : Rennet} (h : r'.insts = r.insts) (ctx opid iter : Nat) :
    findInst r' ctx opid iter = findInst r ctx opid iter := by
  rw [findInst, findInst, h]

theorem findOp_key {r : Rennet} {ctx opid : Nat} {o : OpRec} (h : findOp r ctx opid = some o) : o.ctx = ctx ∧ o.opid = opid := by
  simpa using List.find?_some h

/-- The entry of the matching store that an operand belongs to, once the operand is stored. -/
def filledInst (r : Rennet) (o : OpRec) (slot iter : Nat) : Inst :=
  { openInst r o iter with filled := insertNat slot (openInst r o iter).filled }

theorem filledInst_same (r : Rennet) (o : OpRec) (slot iter : Nat) :
    sameInst (filledInst r o slot iter) o.ctx o.opid iter = true := by
  unfold filledInst openInst
  split
  case h_1 i hi => exact (findInst_same hi : sameInst i o.ctx o.opid iter = true)
  case h_2 => simp [sameInst]

/-- Rennet with an operand stored in its entry, the one there or a new one. -/
def withOperand (r : Rennet) (o : OpRec) (slot iter : Nat) : Rennet :=
  if (findInst r o.ctx o.opid iter).isNone then
    openedInst { r with insts := r.insts ++ [filledInst r o slot iter] } o.ctx o.opid iter
  else setInst r (filledInst r o slot iter)

theorem findInst_withOperand (r : Rennet) (o : OpRec) (slot iter : Nat) :
    findInst (withOperand r o slot iter) o.ctx o.opid iter = some (filledInst r o slot iter) := by
  unfold withOperand
  cases hi : findInst r o.ctx o.opid iter with
  | none =>
    refine Eq.trans (findInst_congr rfl ..) (?_ : findInst { r with insts := r.insts ++ [filledInst r o slot iter] } .. = _)
    rw [findInst] at hi ⊢
    simp [List.find?_append, hi, filledInst_same]
  | some i => exact findInst_setInst_self hi (filledInst_same ..)

theorem withOperand_tokq (r : Rennet) (q : List Token) (o : OpRec) (slot iter : Nat) :
    withOperand { r with tokq := q } o slot iter = { withOperand r o slot iter with tokq := q } := by
  by_cases h : (findInst r o.ctx o.opid iter).isNone = true
  · rw [withOperand, withOperand, if_pos h, if_pos (by exact h)]; rfl
  · rw [withOperand, withOperand, if_neg h, if_neg (by exact h)]; rfl

theorem storeOperand_fits {c : RCtx} {o : OpRec} {ctx opid slot iter : Nat} (h : TokenFits c.x.rnt o ctx opid slot iter) :
    storeOperand c 0 ctx opid slot iter =
      .stored (rRegs (rOn c fun r => withOperand r o slot iter) fun g => bump g 2 1) := by
  obtain ⟨hop, kind, opened, resumed, empty, room⟩ := h
  obtain ⟨rfl, rfl⟩ := findOp_key hop
  have unfilled : (openInst c.x.rnt o iter).filled.contains slot = false := by simpa using empty
  have roomy : ((findInst c.x.rnt o.ctx o.opid iter).isNone && !(instRoom c.x.rnt o)) = false := by
    cases hi : findInst c.x.rnt o.ctx o.opid iter with
    | none => simp [room hi]
    | some i => rfl
  cases hp : findPass c.x.rnt o.ctx iter with
  | none =>
    simp only [storeOperand, hop, hp, kind, opened, unfilled, roomy, ne_eq, not_true_eq_false, reduceCtorEq, or_self, if_false,
      Bool.false_eq_true]
    rfl
  | some p =>
    simp only [storeOperand, hop, hp, resumed p hp, kind, opened, unfilled, roomy, ne_eq, not_true_eq_false, reduceCtorEq,
      or_self, if_false, Bool.false_eq_true]
    rfl

/-! ## OPERAND_STORE_RESUME -/

theorem tget_mem {V : Type} (d : V) (t : List (Nat × V)) (k : Nat) : tget d t k = d ∨ (k, tget d t k) ∈ t := by
  induction t with
  | nil => exact .inl rfl
  | cons c l ih =>
    obtain ⟨a, v⟩ := c
    by_cases h : a = k
    · subst h; simp [tget]
    · simp only [tget, if_neg h]
      exact ih.imp_right (List.mem_cons_of_mem _)

theorem retrySubmits_idle {s : State} {w : Nat} (h : submitWaits s w = false) (c : Nat) :
    retrySubmits s c (fun h => h.info.head? == some w) = s := by
  have none_waits : (ctxOf s c).cmds.filter (fun h => h.started && !h.taken && cmdOp h == 0x05 && h.info.head? == some w) = [] := by
    rcases tget_mem {} s.ctxs c with e | mem
    · rw [ctxOf, e]; rfl
    · have idle := List.any_eq_false.mp (Bool.eq_false_iff.mpr (List.any_eq_false.mp h _ mem))
      refine List.filter_eq_nil_iff.mpr fun k hk => ?_
      have quiet := idle k hk
      simp only [Bool.and_eq_true] at quiet ⊢
      exact fun ⟨⟨started, _⟩, waits⟩ => quiet ⟨started, waits⟩
  rw [retrySubmits, none_waits]
  rfl

theorem openGiven_none {c : RCtx} (h : ∀ p ∈ c.x.rnt.passes, p.toOpen = []) : openGiven c = c :=
  List.foldlRecOn (motive := (· = c)) _ _ rfl fun c' hc p hp => by rw [hc, h p hp]; rfl

theorem resumeTokens_one {c : RCtx} {o : OpRec} {tk : Token} (hq : c.x.rnt.tokq = [tk]) (hp : ∀ p ∈ c.x.rnt.passes, p.toOpen = [])
    (hf : TokenFits c.x.rnt o tk.ctx tk.opid tk.slot tk.iter) :
    resumeTokens c =
      rRegs (rOn c fun r => { withOperand r o tk.slot tk.iter with tokq := [] }) fun g => bump g 2 1 := by
  have fits : TokenFits (rOn c fun r => { r with tokq := [] }).x.rnt o tk.ctx tk.opid tk.slot tk.iter := hf
  simp only [resumeTokens, hq]
  rw [openGiven_none (by exact hp)]
  simp only [drainTokens, storeOperand_fits fits]
  simp only [rOn, withOperand_tokq]

/-- The store of a wheel whose only waiting token fits, with no SUBMIT waiting for it (R434). -/
theorem operandResume_stores {s : State} {w : Nat} {o : OpRec} {tk : Token} (hst : (wheelOf s w).rnt.st = 0)
    (hq : (wheelOf s w).rnt.tokq = [tk]) (hp : ∀ p ∈ (wheelOf s w).rnt.passes, p.toOpen = []) (hw : submitWaits s w = false)
    (hf : TokenFits (wheelOf s w).rnt o tk.ctx tk.opid tk.slot tk.iter) : operandResume s w = rRun s w resumeTokens := by
  have resumed := resumeTokens_one (c := { x := wheelOf s w, w := w }) hq hp hf
  have waits : submitWaits (rRun s w resumeTokens) w = false := by
    rw [submitWaits, rRun_ctxs resumed rfl rfl]; exact hw
  rw [operandResume, if_pos hst]
  exact List.foldlRecOn (motive := (· = rRun s w resumeTokens)) _ _ rfl fun t ht c _ => by
    rw [ht]; exact retrySubmits_idle waits c

/-! ## TOKEN_ARRIVAL -/

theorem tokenArrival_stores {s : State} {w ctx opid slot iter : Nat} {o : OpRec} {m : MeshMsg}
    (hm : s.mesh.find? (tokenFor s w ctx opid slot iter) = some m) (hst : (wheelOf s w).rnt.st = 0)
    (hf : TokenFits (wheelOf s w).rnt o ctx opid slot iter) :
    ∃ f, f { x := wheelOf s w, w := w } =
        rRegs (rOn { x := wheelOf s w, w := w } fun r => withOperand r o slot iter) (fun g => bump g 2 1) ∧
      tokenArrival s w ctx opid slot iter = rRun { s with mesh := s.mesh.erase m } w f := by
  have fits := storeOperand_fits (c := { x := wheelOf s w, w := w }) hf
  simp only [tokenArrival, hm, hst, fits, ne_eq, not_true_eq_false, if_false]
  refine ⟨_, ?_, rfl⟩
  simp only [fits]

/-! ## Dispatch (R424, R425) -/

theorem rennetOnly_markReady (c : RCtx) : RennetOnly c (markReady c) :=
  List.foldlRecOn (motive := RennetOnly c) _ _ (.refl c) fun c' hc i _ => by
    split
    · have ready := hc.trans (rennetOnly_rOn c' fun r => setInst r { i with ready := some (rNow c') })
      dsimp only
      split
      · exact ready.trans (noted_traceEv ..).only
      · exact ready
    · exact hc

theorem storeFail_none {c : RCtx} (h : c.x.rnt.storeBad = []) : storeFail c = rOn c fun r => { r with storeBad := [] } := by
  rw [storeFail, h]
  rfl

theorem noted_raiseIntrs (c : RCtx) : Noted c (raiseIntrs c) :=
  List.foldlRecOn (motive := Noted c) _ _ (.refl c) fun c' hc cls _ => by
    split
    · exact hc
    · split
      · exact hc
      · split
        · exact hc
        · split
          · exact hc
          · have raised : ∀ l : Rennet → List (UnitId × Nat × Nat × Nat), Noted c' (rOn c' fun r => { r with intr := l r }) :=
              fun l => ⟨rennetOnly_rOn _ _, rfl, rfl, rfl⟩
            exact hc.trans ((raised _).trans ((noted_rRegs ..).trans (noted_traceEv ..)))

theorem dispatchClock_runs {s : State} {w : Nat} (hst : (wheelOf s w).rnt.st = 0) :
    let c0 : RCtx := { x := wheelOf s w, w := w }
    ∃ f, f c0 = rennetClock (if operandWaits s w then rRegs c0 (fun g => bump g 5 1) else c0) ∧
      dispatchClock s w = rRun s w f := by
  refine ⟨_, ?_, rfl⟩
  simp only [hst, true_and]

/-- The clock of Rennet when a single entry is ranked and has a unit: it is dispatched, and interrupts are raised. -/
theorem rennetClock_dispatches {c c3 : RCtx} {o : OpRec} {i : Inst} {u : UnitId} (hst : c.x.rnt.st = 0)
    (hc : markReady (storeFail (rRegs c fun g => bump g 7 1)) = c3) (hr : ranked c3.x = [(o, i)])
    (hi : findInst c3.x.rnt i.ctx i.opid i.iter = some i) (hu : pickUnit c3.x c3.w false o i = some u) :
    rennetClock c = raiseIntrs (dispatchTo c3 u o i) := by
  simp only [rennetClock, hst, ne_eq, not_true_eq_false, if_false, hc, hr, dispatchLoop, hi, hu]

/-- A waiting entry gets a unit of its operation's class. -/
theorem pickUnit_cls {x : Wheel} {w : Nat} {b : Bool} {o : OpRec} {i : Inst} {u : UnitId} (hw : i.st = .waiting)
    (h : pickUnit x w b o i = some u) : u.cls = o.cls := by
  simp only [pickUnit, hw] at h
  split at h
  · cases h
  split at h
  · cases h
  split at h
  · split at h <;> cases h
    rfl
  split at h
  case isTrue rennet =>
    split at h <;> cases h
    exact rennet.symm
  split at h
  · obtain ⟨k, -, rfl⟩ := Option.map_eq_some_iff.mp h
    rfl
  · split at h <;> cases h
    rfl

/-- Operation `o` has been given to unit `u`: a vat, press, ladle or grader has taken it, a stream waits to be armed, or a drip
has joined the drip operations (R418, R434). The wheel was `x` and is `y`. -/
def UnitGiven (x y : Wheel) (u : UnitId) (o : OpRec) (op : OpRef) : Prop :=
  (o.cls = 1 → (vatOf y u.idx).op = some op ∧ (vatOf y u.idx).record = o.addr ∧ (vatOf y u.idx).started = false ∧
    (vatOf y u.idx).prog = (vatOf x u.idx).prog) ∧
  (2 ≤ o.cls → o.cls ≤ 4 → engOf y u = startEng x (engOf x u) o op) ∧
  (o.cls = 5 → y.whey.arms =
    x.whey.arms ++ [(.inst op, o.target, bits (leNat (caveRead x (o.addr + 64) 4)) 26 0, o.flow)]) ∧
  (o.cls = 6 → y.whey.drips = x.whey.drips ++ [⟨.inst op, op.ctx, op.flow, caveRead x (o.addr + 64) 32⟩])

theorem UnitGiven.of_rennetOnly {x : Wheel} {c c' : RCtx} {u : UnitId} {o : OpRec} {op : OpRef} (h : UnitGiven x c.x u o op)
    (only : RennetOnly c c') : UnitGiven x c'.x u o op := by
  obtain ⟨r, e⟩ := only.wheel
  rw [e]
  exact h

theorem UnitGiven.before {y : Wheel} {c c' : RCtx} {u : UnitId} {o : OpRec} {op : OpRef} (h : UnitGiven c'.x y u o op)
    (only : RennetOnly c c') : UnitGiven c.x y u o op := by
  obtain ⟨r, e⟩ := only.wheel
  rw [e] at h
  exact h

theorem unitGiven_setEng (x : Wheel) (u : UnitId) {o : OpRec} (op : OpRef) (h2 : 2 ≤ o.cls) (h4 : o.cls ≤ 4) :
    UnitGiven x (setEng x u (startEng x (engOf x u) o op)) u o op :=
  ⟨by omega, fun _ _ => engOf_setEng_self .., by omega, by omega⟩

theorem UnitGiven.reported {x y z : Wheel} {u : UnitId} {o : OpRec} {op : OpRef} (h : UnitGiven x y u o op)
    (reported : Reported y z) : UnitGiven x z u o op := by
  obtain ⟨_, _, _, _, _, _, rfl⟩ := reported
  exact h

/-- What the dispatch of a waiting entry with a good record leaves: the entry in service, and the unit given the operation. -/
theorem dispatchTo_waiting {c : RCtx} {u : UnitId} {o : OpRec} {i : Inst} (hst : i.st = .waiting) (hrec : recordOk c.x o = true)
    (h1 : 1 ≤ o.cls) (h6 : o.cls ≤ 6) (hu : u.cls = o.cls) :
    let d := c.x.rnt.nextDisp
    (dispatchTo c u o i).x.rnt.insts = (setInst c.x.rnt { i with st := .service u d }).insts ∧
    UnitGiven c.x (dispatchTo c u o i).x u o (opRefOf o i d) := by
  intro d
  have served : RennetOnly c (rOn c fun r => setInst { r with nextDisp := d + 1 } { i with st := .service u d }) :=
    rennetOnly_rOn _ _
  have noted := (noted_rRegs (rOn c fun r => setInst { r with nextDisp := d + 1 } { i with st := .service u d })
    fun g => bump g 0 1).trans ((noted_traceEv _ 1 o.prio o.cls u.idx o.flow i.iter i.opid 0).trans (noted_flowCount _ o.flow 0))
  simp only [dispatchTo, hst, hrec, Bool.not_true, Bool.false_eq_true, if_false]
  generalize flowCount _ o.flow 0 = c4 at *
  have insts : c4.x.rnt.insts = (setInst c.x.rnt { i with st := .service u d }).insts := noted.insts
  have given : ∀ {y}, UnitGiven c4.x y u o (opRefOf o i d) → UnitGiven c.x y u o (opRefOf o i d) :=
    fun h => h.before (served.trans noted.only)
  obtain ⟨ucls, uidx⟩ := u
  obtain hcls | hcls | hcls | hcls | hcls | hcls :
    o.cls = 1 ∨ o.cls = 2 ∨ o.cls = 3 ∨ o.cls = 4 ∨ o.cls = 5 ∨ o.cls = 6 := by omega
  all_goals
    obtain rfl := hu.trans hcls
    simp only [hcls]
  · refine ⟨insts, given ⟨fun _ => ?_, by omega, by omega, by omega⟩⟩
    rw [vatOf_onVat_self]
    exact ⟨rfl, rfl, rfl, rfl⟩
  · exact ⟨insts, given (unitGiven_setEng c4.x ⟨2, uidx⟩ _ (by omega) (by omega))⟩
  · exact ⟨insts, given (unitGiven_setEng c4.x ⟨3, uidx⟩ _ (by omega) (by omega))⟩
  · exact ⟨insts, given (unitGiven_setEng c4.x ⟨4, uidx⟩ _ (by omega) (by omega))⟩
  · exact ⟨insts, given ⟨by omega, by omega, fun _ => rfl, by omega⟩⟩
  · exact ⟨insts, given ⟨by omega, by omega, by omega, fun _ => rfl⟩⟩

/-- Rennet's clock up to the ready times, with no slot of the matching store in error, changes nothing but Rennet. -/
theorem rennetOnly_readied {c : RCtx} (h : c.x.rnt.storeBad = []) :
    RennetOnly c (markReady (storeFail (rRegs c fun g => bump g 7 1))) := by
  rw [storeFail_none (c := rRegs c fun g => bump g 7 1) h]
  exact (noted_rRegs ..).only.trans ((rennetOnly_rOn ..).trans (rennetOnly_markReady _))

/-- The clock that dispatches a single entry: the entry is in service, and its unit is given the operation. -/
theorem rennetClock_gives {c c3 : RCtx} {o : OpRec} {i : Inst} {u : UnitId} (hst : c.x.rnt.st = 0)
    (hc : markReady (storeFail (rRegs c fun g => bump g 7 1)) = c3) (hr : ranked c3.x = [(o, i)])
    (hi : findInst c3.x.rnt i.ctx i.opid i.iter = some i) (hw : i.st = .waiting) (h1 : 1 ≤ o.cls) (h6 : o.cls ≤ 6)
    (hu : pickUnit c3.x c3.w false o i = some u) (hrec : recordOk c3.x o = true) :
    let d := c3.x.rnt.nextDisp
    findInst (rennetClock c).x.rnt i.ctx i.opid i.iter = some { i with st := .service u d } ∧
    UnitGiven c3.x (rennetClock c).x u o (opRefOf o i d) := by
  intro d
  rw [rennetClock_dispatches hst hc hr hi hu]
  have raised := noted_raiseIntrs (dispatchTo c3 u o i)
  obtain ⟨insts, given⟩ := dispatchTo_waiting hw hrec h1 h6 (pickUnit_cls hw hu)
  refine ⟨?_, given.of_rennetOnly raised.only⟩
  rw [findInst_congr (raised.insts.trans insts)]
  exact findInst_setInst_self hi (by simp [sameInst])

/-- Settles O29: an operand is stored by `storeOperand_fits`, from the mesh (`tokenArrival_stores`) or from the token queue
(`operandResume_stores`); a single ranked entry is dispatched (`rennetClock_gives`). What Rennet reports changes none of it
(`rRun_leaves`). -/
theorem operandsAndDispatch : Obligations.OperandsAndDispatch := by
  intro s w x opid slot iter o r tk
  have stored : ∀ {y : Wheel}, y.rnt.insts = (withOperand r o slot iter).insts → TokenFits r o x opid slot iter →
      OperandStored r y.rnt o x opid slot iter := by
    rintro y insts ⟨hop, -⟩
    obtain ⟨hx, hopid⟩ := findOp_key hop
    rw [OperandStored, findInst_congr insts, ← hx, ← hopid]
    exact findInst_withOperand ..
  refine ⟨?arrival, ?resume, ?dispatch⟩
  case arrival =>
    intro m hm hst fits
    obtain ⟨f, hf, runs⟩ := tokenArrival_stores hm hst fits
    obtain ⟨wheel, mesh⟩ := rRun_leaves (s := { s with mesh := s.mesh.erase m }) hf
    refine completes_of_eq rfl runs ⟨mesh.trans (List.append_nil _), stored wheel.insts fits, ?_⟩
    obtain ⟨_, _, _, _, _, _, e⟩ := wheel
    rw [e]
    rfl
  case resume =>
    intro hst hq hp hw fits
    obtain ⟨wheel, -⟩ := rRun_leaves (resumeTokens_one (c := { x := wheelOf s w, w := w }) hq hp fits)
    refine completes_of_eq rfl (operandResume_stores hst hq hp hw fits) ⟨?_, stored wheel.insts fits⟩
    obtain ⟨_, _, _, _, _, _, e⟩ := wheel
    rw [rnt, e]
    rfl
  case dispatch =>
    intro i u hst hbad c0 c1 c op a hr hi hwait h1 h6 hu hrec
    have clock : c1.x.rnt.st = 0 ∧ c1.x.rnt.storeBad = [] ∧ RennetOnly c0 c1 := by
      unfold c1
      split
      · exact ⟨hst, hbad, rennetOnly_rOn ..⟩
      · exact ⟨hst, hbad, .refl _⟩
    obtain ⟨st, bad, only⟩ := clock
    have kept : RennetOnly c0 c := only.trans (rennetOnly_readied bad)
    have record : recordOk c.x o = true := by
      obtain ⟨_, e⟩ := kept.wheel
      rw [e]; exact hrec
    obtain ⟨inst, given⟩ := rennetClock_gives (c3 := c) st rfl hr hi hwait h1 h6 (by rw [kept.w]; exact hu) record
    obtain ⟨f, hf, runs⟩ := dispatchClock_runs (w := w) hst
    obtain ⟨wheel, -⟩ := rRun_leaves hf
    exact completes_of_eq rfl runs ⟨(findInst_congr wheel.insts ..).trans inst, (given.before kept).reported wheel⟩

end Sys2Proof.Machine
end

section
/-!
SUPPORT. The end of an operation in service (R431, R433, R436): what its completion counts, the flow it fails, and what it
leaves of the units of its wheel.
-/

namespace Sys2Proof.Machine

open Sys2Proof Sys2Proof.Safety

/-! ## Of the units only the slices of vats change -/

/-- Of wheel `y` only Rennet and the slices that the vats hold differ from `x`. -/
structure UnitsHold (x y : Wheel) : Prop where
  wheel : ∃ r l, y = { x with rnt := r, vats := l }
  vats : ∀ v, ∃ l, vatOf y v = { vatOf x v with slices := l }

theorem UnitsHold.trans {x y z : Wheel} (h : UnitsHold x y) (h' : UnitsHold y z) : UnitsHold x z := by
  obtain ⟨_, _, e⟩ := h.wheel
  obtain ⟨_, _, e'⟩ := h'.wheel
  refine ⟨⟨_, _, e'.trans (by rw [e])⟩, fun v => ?_⟩
  obtain ⟨_, ev⟩ := h.vats v
  obtain ⟨l, ev'⟩ := h'.vats v
  exact ⟨l, by rw [ev', ev]⟩

theorem RennetOnly.unitsHold {c c' : RCtx} (h : RennetOnly c c') : UnitsHold c.x c'.x := by
  obtain ⟨r, e⟩ := h.wheel
  rw [e]
  exact ⟨⟨r, _, rfl⟩, fun v => ⟨_, rfl⟩⟩

/-- A change of the listed vats that keeps their numbers and all of them but their slices. -/
theorem tget_map_slices {f : Nat × Vat → Nat × Vat} (h : ∀ p, ∃ l, f p = (p.1, { p.2 with slices := l }))
    (t : List (Nat × Vat)) (v : Nat) : ∃ l, tget ({} : Vat) (t.map f) v = { tget ({} : Vat) t v with slices := l } := by
  induction t with
  | nil => exact ⟨_, rfl⟩
  | cons p t ih =>
    obtain ⟨k, y⟩ := p
    obtain ⟨l, e⟩ := h (k, y)
    simp only [List.map_cons, e, tget]
    split
    · exact ⟨l, rfl⟩
    · exact ih

theorem slicesDropped_rnt (x : Wheel) (o : OpRec) : (slicesDropped x o).rnt = x.rnt := by
  unfold slicesDropped
  split <;> rfl

theorem unitsHold_slicesDropped (x : Wheel) (o : OpRec) : UnitsHold x (slicesDropped x o) := by
  unfold slicesDropped
  split
  · refine ⟨⟨x.rnt, _, rfl⟩, tget_map_slices (fun p => ?_) x.vats⟩
    split
    · exact ⟨_, rfl⟩
    · exact ⟨_, rfl⟩
  · exact ⟨⟨_, _, rfl⟩, fun v => ⟨_, rfl⟩⟩

/-! ## A flow that fails (R433) -/

/-- The units hold and no flow changes its state. -/
structure FlowsHold (c c' : RCtx) : Prop where
  units : UnitsHold c.x c'.x
  flows : flowEnd c'.x.rnt = flowEnd c.x.rnt

theorem FlowsHold.trans {a b c : RCtx} (h : FlowsHold a b) (h' : FlowsHold b c) : FlowsHold a c :=
  ⟨h.units.trans h'.units, h'.flows.trans h.flows⟩

theorem Noted.flowsHold {c c' : RCtx} (h : Noted c c') : FlowsHold c c' := ⟨h.only.unitsHold, h.flows⟩

theorem flowsHold_delInst (c : RCtx) (ctx opid iter : Nat) : FlowsHold c (rOn c fun r => delInst r ctx opid iter) :=
  ⟨(rennetOnly_rOn ..).unitsHold, rfl⟩

theorem flowsHold_layerCount (c : RCtx) (ctx iter layer : Nat) : FlowsHold c (layerCount c ctx iter layer) := by
  unfold layerCount
  split
  · exact ⟨(rennetOnly_rOn ..).unitsHold, rfl⟩
  · exact (Noted.refl c).flowsHold

theorem flowsHold_dropInst (c : RCtx) (o : OpRec) (i : Inst) (code : Nat) : FlowsHold c (dropInst c o i code) := by
  have slices : FlowsHold c { c with x := slicesDropped c.x o } :=
    ⟨unitsHold_slicesDropped c.x o, congrArg flowEnd (slicesDropped_rnt c.x o)⟩
  exact slices.trans ((flowsHold_delInst ..).trans ((noted_rRegs ..).flowsHold.trans ((noted_flowCount ..).flowsHold.trans
    ((flowsHold_layerCount ..).trans (noted_traceEv ..).flowsHold))))

theorem flowsHold_dropWaiting (c : RCtx) (flow code : Nat) : FlowsHold c (dropWaiting c flow code) :=
  List.foldlRecOn (motive := FlowsHold c) _ _ (Noted.refl c).flowsHold fun c' hc i _ => by
    split
    · split
      · exact hc
      · split
        · exact hc.trans (flowsHold_dropInst ..)
        · exact hc
    · exact hc

/-- The flow has entered FAILED, with the record of its failure; its waiting instances are still there. -/
def flowFailed (c : RCtx) (r : FailRec) : RCtx :=
  { rErr (rOn c fun y => setFlow y r.flow
      { flowOf c.x.rnt r.flow with st := .failed, failCode := r.code, failOpid := r.opid }) 0x1 r.flow r.code r.opid with
    fails := c.fails ++ [r] }

theorem flowEnd_flowFailed (c : RCtx) (r : FailRec) : flowEnd (flowFailed c r).x.rnt r.flow = (.failed, r.code, r.opid) := by
  refine Eq.trans (b := flowEnd (setFlow c.x.rnt r.flow
    { flowOf c.x.rnt r.flow with st := .failed, failCode := r.code, failOpid := r.opid }) r.flow) rfl ?_
  rw [flowEnd, flowOf_setFlow_self]

theorem failFlow_open {c : RCtx} {r : FailRec} (h : (flowOf c.x.rnt r.flow).st = .openF) :
    failFlow c r = dropWaiting (flowFailed c r) r.flow 0x0702 := by
  simp only [failFlow, h, ne_eq, not_true_eq_false, if_false]
  rfl

theorem failFlow_closed {c : RCtx} {r : FailRec} (h : (flowOf c.x.rnt r.flow).st ≠ .openF) : failFlow c r = c := by
  simp only [failFlow, h, ne_eq, not_false_eq_true, if_true]

theorem failFlow_fails {c : RCtx} {r : FailRec} (h : (flowOf c.x.rnt r.flow).st = .openF) :
    flowEnd (failFlow c r).x.rnt r.flow = (.failed, r.code, r.opid) := by
  rw [failFlow_open h, (flowsHold_dropWaiting ..).flows, flowEnd_flowFailed]

theorem unitsHold_failFlow (c : RCtx) (r : FailRec) : UnitsHold c.x (failFlow c r).x := by
  by_cases h : (flowOf c.x.rnt r.flow).st = .openF
  · have failed : RennetOnly c (flowFailed c r) := ⟨rfl, _, rfl⟩
    rw [failFlow_open h]
    exact failed.unitsHold.trans (flowsHold_dropWaiting ..).units
  · rw [failFlow_closed h]
    exact (RennetOnly.refl c).unitsHold

/-! ## Tokens (R421) -/

/-- The units hold and no completion is counted. -/
structure CountsHold (c c' : RCtx) : Prop where
  units : UnitsHold c.x c'.x
  counts : passCounts c'.x.rnt = passCounts c.x.rnt

theorem CountsHold.trans {a b c : RCtx} (h : CountsHold a b) (h' : CountsHold b c) : CountsHold a c :=
  ⟨h.units.trans h'.units, h'.counts.trans h.counts⟩

theorem Noted.countsHold {c c' : RCtx} (h : Noted c c') : CountsHold c c' := ⟨h.only.unitsHold, h.passCounts⟩

theorem countsHold_rOn (c : RCtx) {f : Rennet → Rennet} (h : passCounts (f c.x.rnt) = passCounts c.x.rnt) :
    CountsHold c (rOn c f) := ⟨(rennetOnly_rOn ..).unitsHold, h⟩

theorem countsHold_dropped (c : RCtx) (mask flow code event prio cls engine flow' iter opid code' : Nat) :
    CountsHold c (traceEv (rErr (dropOperand c) mask flow code opid) event prio cls engine flow' iter opid code') :=
  ((noted_dropOperand c).trans ((noted_rErr ..).trans (noted_traceEv ..))).countsHold

theorem stored_of_ite {p : Prop} [Decidable p] {a b : StoreRes} {c : RCtx} (h : (if p then a else b) = .stored c) :
    a = .stored c ∨ b = .stored c := by
  by_cases hp : p
  · exact .inl ((if_pos hp).symm.trans h)
  · exact .inr ((if_neg hp).symm.trans h)

/-- Storing an operand, or dropping it, counts no completion. -/
theorem countsHold_storeOperand {c c' : RCtx} {kind ctx opid slot iter : Nat}
    (h : storeOperand c kind ctx opid slot iter = .stored c') : CountsHold c c' := by
  unfold storeOperand at h
  dsimp only at h
  split at h
  · cases h; exact countsHold_dropped ..
  · rcases stored_of_ite h with h | h
    · cases h; exact countsHold_dropped ..
    rcases stored_of_ite h with h | h
    · cases h; exact ((noted_dropOperand c).trans (noted_traceEv ..)).countsHold
    rcases stored_of_ite h with h | h
    · cases h; exact countsHold_dropped ..
    rcases stored_of_ite h with h | h
    · cases h
    cases h
    refine (countsHold_rOn c ?_).trans (noted_rRegs ..).countsHold
    split
    · exact passCounts_openedInst ..
    · rfl

theorem countsHold_localToken (c : RCtx) (t : Token) : CountsHold c (localToken c t) := by
  unfold localToken
  split
  · exact countsHold_storeOperand ‹_›
  · exact countsHold_rOn c rfl

theorem countsHold_sendTokens (c : RCtx) (o : OpRec) (iter : Nat) : CountsHold c (sendTokens c o iter) :=
  List.foldlRecOn (motive := CountsHold c) _ _ (Noted.refl c).countsHold fun c' hc e _ => by
    dsimp only
    split
    · exact hc.trans (countsHold_localToken ..)
    · exact ⟨hc.units, hc.counts⟩

/-! ## Completion (R431, R433, R436) -/

/-- The entry is gone and its completion counted; its tokens are not sent, nor its flow failed. -/
def instEnded (c : RCtx) (op : OpRef) (o : OpRec) (u : UnitId) (code : Nat) : RCtx :=
  let c2 := rRegs (rOn c fun r => delInst r op.ctx op.opid op.iter) fun g => bump g 1 1
  let c4 := layerCount (flowCount c2 o.flow (if code = 0 then 1 else if code = 0x0701 ∨ code = 0x0702 then 2 else 3))
    op.ctx op.iter o.layer
  rOn (traceEv c4 2 o.prio u.cls u.idx o.flow op.iter op.opid code) fun r =>
    { r with intr := r.intr.filter fun e => e.1 ≠ u || u.cls = 0 || u.cls > 4 }

/-- A completion: with code 0 the tokens are sent, with the code of a failure the flow fails. -/
theorem completeInst_eq {c : RCtx} {op : OpRef} {i : Inst} {o : OpRec} (h : InService c.x.rnt op i o) (code aux d1 : Nat) :
    ∃ u, completeInst c op code aux d1 =
      if code = 0 then
        if (flowOf c.x.rnt o.flow).st = .openF ∨ (flowOf c.x.rnt o.flow).st = .failed then
          sendTokens (instEnded c op o u code) o op.iter
        else instEnded c op o u code
      else if code ≠ 0x0701 then
        failFlow (instEnded c op o u code) ⟨op.ctx, o.flow, op.iter, op.opid, code, u, aux, d1⟩
      else instEnded c op o u code := by
  obtain ⟨hi, ho⟩ := h
  simp only [completeInst, hi, ho]
  exact ⟨_, rfl⟩

section Ended

variable (c : RCtx) (op : OpRef) (o : OpRec) (u : UnitId) (code : Nat)

theorem flowsHold_instEnded : FlowsHold c (instEnded c op o u code) :=
  (flowsHold_delInst ..).trans ((noted_rRegs ..).flowsHold.trans ((noted_flowCount ..).flowsHold.trans
    ((flowsHold_layerCount ..).trans ((noted_traceEv ..).flowsHold.trans ⟨(rennetOnly_rOn ..).unitsHold, rfl⟩))))

theorem passCounts_instEnded : passCounts (instEnded c op o u code).x.rnt op.ctx op.iter =
    (findPass c.x.rnt op.ctx op.iter).map fun p => tmod 0 p.counts o.layer (· + 1) := by
  have counted := noted_flowCount (rRegs (rOn c fun r => delInst r op.ctx op.opid op.iter) fun g => bump g 1 1) o.flow
    (if code = 0 then 1 else if code = 0x0701 ∨ code = 0x0702 then 2 else 3)
  refine Eq.trans (congrFun (congrFun (noted_traceEv ..).passCounts op.ctx) op.iter) ?_
  rw [passCounts_layerCount, findPass_congr counted.passes]
  rfl

end Ended

theorem unitsHold_completeInst {c : RCtx} {op : OpRef} {i : Inst} {o : OpRec} (h : InService c.x.rnt op i o)
    (code aux d1 : Nat) : UnitsHold c.x (completeInst c op code aux d1).x := by
  obtain ⟨u, runs⟩ := completeInst_eq h code aux d1
  have ended := (flowsHold_instEnded c op o u code).units
  rw [runs]
  split
  · split
    · exact ended.trans (countsHold_sendTokens ..).units
    · exact ended
  · split
    · exact ended.trans (unitsHold_failFlow ..)
    · exact ended

theorem completeInst_counted {c : RCtx} {op : OpRef} {i : Inst} {o : OpRec} (h : InService c.x.rnt op i o)
    (code aux d1 : Nat) : Counted c.x.rnt (completeInst c op code aux d1).x.rnt op o code := by
  obtain ⟨u, runs⟩ := completeInst_eq h code aux d1
  have counted := passCounts_instEnded c op o u code
  have flows := congrFun (flowsHold_instEnded c op o u code).flows o.flow
  rw [runs]
  constructor
  · intro done
    rw [if_pos done]
    split
    · exact (congrFun (congrFun (countsHold_sendTokens ..).counts op.ctx) op.iter).trans counted
    · exact counted
  · intro failed uncancelled isOpen
    rw [if_neg failed, if_pos uncancelled]
    have still : (flowOf (instEnded c op o u code).x.rnt o.flow).st = .openF := (congrArg Prod.fst flows).trans isOpen
    have ends := failFlow_fails (r := ⟨op.ctx, o.flow, op.iter, op.opid, code, u, aux, d1⟩) still
    simpa only [flowEnd, Prod.mk.injEq] using ends

end Sys2Proof.Machine
end

section
/-!
SUPPORT. ENGINE_COMPLETION (R433, R434): the end of each class of engine, taken by Rennet.
-/

namespace Sys2Proof.Machine

open Sys2Proof Sys2Proof.Safety

/-- Rennet has taken the end of an operation and reported it, from wheel `x` to wheel `y`: the completion is counted, and the
units are as they were but for the slices of the vats. -/
structure Completed (x y : Wheel) (op : OpRef) (o : OpRec) (code : Nat) : Prop where
  vats : ∀ v, ∃ l, vatOf y v = { vatOf x v with slices := l }
  engines : ∀ u, engOf y u = engOf x u
  dones : y.whey.dones = x.whey.dones
  counted : Counted x.rnt y.rnt op o code

theorem rRun_completes {s : State} {w : Nat} {f : RCtx → RCtx} {c : RCtx} {op : OpRef} {i : Inst} {o : OpRec}
    {code aux d1 : Nat} (hf : f { x := wheelOf s w, w := w } = completeInst c op code aux d1) (h : InService c.x.rnt op i o) :
    Completed c.x (wheelOf (rRun s w f) w) op o code := by
  have units := unitsHold_completeInst h code aux d1
  have counted := completeInst_counted h code aux d1
  obtain ⟨wheel, -⟩ := rRun_leaves hf
  generalize (completeInst c op code aux d1).x = y at *
  obtain ⟨_, _, _, _, _, _, reported⟩ := wheel
  rw [reported]
  obtain ⟨_, _, e⟩ := units.wheel
  exact ⟨units.vats, fun u => by rw [e]; rfl, by rw [e], counted⟩

/-! ## A vat -/

/-- A vat whose operation has ended: it is idle and its hoops are unbound. -/
def vatEnded (v : Nat) (x : Wheel) : Wheel :=
  onVat (unbindVat x v) v fun t =>
    { t with st := .idle, op := none, prog := {}, issue := none, wait := none, fin := none, closed := false, started := false }

theorem vatFinish_runs {s : State} {w v : Nat} {op : OpRef} {f : Ended} (ho : (vatOf (wheelOf s w) v).op = some op)
    (hf : (vatOf (wheelOf s w) v).fin = some f) (hc : (vatOf (wheelOf s w) v).closed = true)
    (hm : mayComplete s w op f.code = true) :
    ∃ d1, vatFinish s w v = rRun (onWheel s w (vatEnded v)) w fun c => completeInst c op f.code f.place d1 := by
  simp only [vatFinish, ho, hf, hc, hm, Bool.not_true, Bool.or_false, Bool.false_eq_true, if_false]
  exact ⟨_, rfl⟩

/-! ## A press, ladle or grader -/

@[simp] theorem setEng_rnt (x : Wheel) (u : UnitId) (e : Eng) : (setEng x u e).rnt = x.rnt := by
  unfold setEng
  split <;> rfl

@[simp] theorem returnHeld_rnt (x : Wheel) (u : UnitId) : (returnHeld x u).rnt = x.rnt := by
  rw [returnHeld, onEng, setEng_rnt]
  exact List.foldlRecOn (motive := fun y : Wheel => y.rnt = x.rnt) _ _ rfl fun y hy p _ => by
    split <;> exact hy

/-- An engine whose operation has ended: it is as new but for its registers, and its buffers and hoops are given back. -/
def engEnded (u : UnitId) (regs : Regs) (x : Wheel) : Wheel := setEng (unbindAll (returnHeld x u) u) u { regs := regs }

theorem engEnded_rnt (u : UnitId) (regs : Regs) (x : Wheel) : (engEnded u regs x).rnt = x.rnt := by
  rw [engEnded, setEng_rnt]
  exact returnHeld_rnt x u

theorem engFinish_runs {s : State} {w : Nat} {u : UnitId} {op : OpRef} {f : Ended} (ho : (engOf (wheelOf s w) u).op = some op)
    (hf : (engOf (wheelOf s w) u).fin = some f) (hp : putsOpen (wheelOf s w) u = false)
    (hout : (engOf (wheelOf s w) u).outs = []) (hst : (engOf (wheelOf s w) u).st ≠ .fenced)
    (hm : mayComplete s w op f.code = true) :
    ∃ regs value aux d1, engFinish s w u = rRun { onWheel s w (engEnded u regs) with free := s.free + 1 } w
      fun c => completeInst (doneValue c op value) op f.code aux d1 := by
  have unfenced : ((engOf (wheelOf s w) u).st == .fenced) = false := beq_eq_false_iff_ne.mpr hst
  simp only [engFinish, ho, hf, hp, hout, unfenced, hm, List.isEmpty_nil, Bool.not_true, Bool.or_false, Bool.false_eq_true, if_false]
  exact ⟨_, _, _, _, rfl⟩

/-- The value that a completion carries is all that it adds. -/
theorem doneValue_eq (c : RCtx) (op : OpRef) (v : Option Nat) :
    ∃ value, doneValue c op v = rOn c fun r => { r with value := value } := by
  cases v with
  | none => exact ⟨c.x.rnt.value, rfl⟩
  | some n => exact ⟨_, rfl⟩

theorem engineCompletion_eng (s : State) (w : Nat) {cls k : Nat} (h2 : 2 ≤ cls) (h4 : cls ≤ 4) (hk : k < 12)
    (h8 : cls = 3 → k < 8) (hg : cls = 4 → k < 4) : engineCompletion s w cls k = engFinish s w ⟨cls, k⟩ := by
  obtain rfl | rfl | rfl : cls = 2 ∨ cls = 3 ∨ cls = 4 := by omega
  · exact if_pos hk
  · exact if_pos (h8 rfl)
  · exact if_pos (hg rfl)

/-! ## A stream or drip -/

theorem wheyTake_runs {s : State} {w chan : Nat} {op : OpRef} {d : WheyDone} (hd : (wheelOf s w).whey.dones = [d])
    (hchan : d.chan = chan) (hown : d.own = .inst op) (hm : mayComplete s w op d.code = true) :
    ∃ d1, wheyTake s w chan = rRun (onWhey s w fun y => { y with dones := y.dones.erase d }) w
      fun c => completeInst c op d.code 0 d1 := by
  simp only [wheyTake, hd, hchan, BEq.rfl, hown, Bool.and_self, List.find?_cons_of_pos, hm, Bool.not_true, Bool.false_eq_true,
    if_false]
  exact ⟨_, rfl⟩

theorem engineCompletion_stream (s : State) (w k : Nat) : engineCompletion s w 5 k = wheyTake s w k := rfl

theorem engineCompletion_drip (s : State) (w k : Nat) : engineCompletion s w 6 k = wheyTake s w 0xFF := rfl

/-- Settles O30: each engine's end (`vatFinish_runs`, `engFinish_runs`, `wheyTake_runs`) is taken by Rennet, which counts it
and leaves the units alone (`rRun_completes`). The model's function has the name `engineCompletion`. -/
theorem engineCompletion_takesEnd : Obligations.EngineCompletion := by
  intro s w op i o f x hin hmay
  refine ⟨?vat, ?engine, ?whey⟩
  case vat =>
    intro v ho hf hc
    obtain ⟨d1, runs⟩ := vatFinish_runs ho hf hc hmay
    have done := rRun_completes (s := onWheel s w (vatEnded v)) (f := fun c => completeInst c op f.code f.place d1)
      (c := { x := vatEnded v x, w := w }) (by rw [wheelOf_onWheel_self]) hin
    refine completes_of_eq rfl ((if_pos v.isLt).trans runs) ?_
    obtain ⟨_, vat⟩ := done.vats v
    rw [vat, vatEnded, vatOf_onVat_self]
    exact ⟨rfl, rfl, rfl, done.counted⟩
  case engine =>
    intro cls k h2 h4 h8 hg u ho hf hp hout hst
    obtain ⟨regs, value, aux, d1, runs⟩ := engFinish_runs ho hf hp hout hst hmay
    obtain ⟨n, carried⟩ := doneValue_eq { x := engEnded u regs x, w := w } op value
    have served : InService (engEnded u regs x).rnt op i o := by rw [engEnded_rnt]; exact hin
    have done := rRun_completes (s := { onWheel s w (engEnded u regs) with free := s.free + 1 })
      (f := fun c => completeInst (doneValue c op value) op f.code aux d1)
      (c := rOn { x := engEnded u regs x, w := w } fun r => { r with value := n })
      (by rw [wheelOf_free, wheelOf_onWheel_self, ← carried]) served
    refine completes_of_eq rfl ((engineCompletion_eng s w h2 h4 k.isLt h8 hg).trans runs) ?_
    have counted : Counted (engEnded u regs x).rnt _ op o f.code := done.counted
    rw [engEnded_rnt] at counted
    have fresh := (done.engines u).trans (engOf_setEng_self (unbindAll (returnHeld x u) u) u { regs := regs })
    rw [fresh]
    exact ⟨rfl, rfl, rfl, counted⟩
  case whey =>
    intro k d hown hcode
    have taken : ∀ {chan cls : Nat}, d.chan = chan ∧ x.whey.dones = [d] → engineCompletion s w cls k = wheyTake s w chan →
        (wheelOf (engineCompletion s w cls k) w).whey.dones = [] ∧
          Counted x.rnt (rnt (engineCompletion s w cls k) w) op o f.code := by
      intro chan cls hd e
      obtain ⟨d1, runs⟩ := wheyTake_runs hd.2 hd.1 hown (hcode ▸ hmay)
      have done := rRun_completes (s := onWhey s w fun y => { y with dones := y.dones.erase d })
        (f := fun c => completeInst c op d.code 0 d1)
        (c := { x := { x with whey := { x.whey with dones := x.whey.dones.erase d } }, w := w })
        (by rw [onWhey, wheelOf_onWheel_self]) hin
      rw [e, runs]
      refine ⟨done.dones.trans ?_, hcode ▸ done.counted⟩
      simp [hd.2]
    exact ⟨fun h => ⟨_, rfl, taken h (engineCompletion_stream ..)⟩, fun h => ⟨_, rfl, taken h (engineCompletion_drip ..)⟩⟩

end Sys2Proof.Machine
end

section
/-!
SUPPORT. An UNLOAD that finds held Mould ranges to sweep (R467 step 3, R288): it starts their sweeps and stays, with its plan,
until they have completed. The statement about UNLOAD asks of the state only that nothing of the context runs.
-/

namespace Sys2Proof.Machine

open Sys2Proof Sys2Proof.Safety

/-! ## The start of a command -/

theorem clearRowless_idle {s : State} {ctx : Nat}
    (h : ∀ k ∈ (ctxOf s ctx).cmds, rowless k = true → startable s ctx k = false) : clearRowless s ctx = s := by
  have none_starts : (ctxOf s ctx).cmds.find? (fun k => rowless k && startable s ctx k) = none :=
    List.find?_eq_none.mpr fun k hk => by
      intro both
      obtain ⟨row, starts⟩ := Bool.and_eq_true_iff.mp both
      exact Bool.false_ne_true ((h k hk row).symm.trans starts)
  unfold clearRowless
  cases (ctxOf s ctx).cmds.length with
  | zero => rfl
  | succ n => rw [clearGo, none_starts]

/-- A command that is ready starts and does its work. -/
theorem hostRow_ready {s : State} {x seq op : Nat} {h : HCmd} (ready : CmdReady s x seq op h)
    (run more : State → Nat → HCmd → State) : hostRow s x seq (isOp op) run more = run (startCmd s x h) x h := by
  obtain ⟨rows, found, hop, fresh, -, turn, checks⟩ := ready
  have kind : isOp op h = true := beq_iff_eq.mpr hop
  simp [hostRow, clearRowless_idle rows, found, kind, fresh, turn, checks]

/-! ## UNLOAD before its sweeps -/

theorem sweepAway_ctxs (s : State) (ctx : Nat) (live : List Nat) : (sweepAway s ctx live).ctxs = s.ctxs := by
  unfold sweepAway
  refine List.foldlRecOn (motive := fun t : State => t.ctxs = s.ctxs) _ _ rfl fun t kept w _ => ?_
  split
  · exact kept
  · exact kept

theorem planOf_sweepAway (s : State) (ctx : Nat) (live : List Nat) : planOf (sweepAway s ctx live) ctx = planOf s ctx := by
  rw [planOf, ctxOf, sweepAway_ctxs, planOf, ctxOf]

/-- A context at rest whose held ranges still have entries: UNLOAD sweeps them and does no more yet. -/
theorem runUnload_unswept {s : State} {ctx : Nat} {p : Plan} (h : HCmd) (plan : planOf s ctx = some p)
    (quiet : ctxQuiet (cancelCtx s ctx) ctx = true) (unswept : ctxSwept (rowsHome (cancelCtx s ctx) ctx) ctx [] = false) :
    runUnload s ctx h = sweepAway (rowsHome (cancelCtx s ctx) ctx) ctx [] := by
  simp [runUnload, moreUnload, plan, quiet, unswept]

/-! ## A plan with a held range -/

/-- A loaded plan of one logical wheel, on wheel 0. -/
def heldPlan : Plan :=
  { image := 0, bytes := 0, hash := [], planId := 0, lmod := 0, nmod := 1, timeout := 0, features := 0, wmap := [(0, 0)]
    nodes := [0], layers := [] }

/-- An UNLOAD record (R524). -/
def unloadRecord : HCmd := { seq := 0, raw := leBytes 8 0x03 ++ leBytes 48 0 ++ leBytes 8 0xC5, order := 0 }

/-- The context's UNLOAD is next, nothing of its plan runs, and the plan holds a range of the Mould's share 1 with one entry. -/
def heldSt : State :=
  { ctxs := [(0, { st := .openC, nextSeq := 1, cmds := [unloadRecord], plan := some heldPlan })]
    wheels := [(0, { mld := { entries := [(768, { valid := true, cvalid := true })], ranges := [⟨1, 0, 768, 16⟩] } })] }

theorem heldSt_ready : CmdReady heldSt 0 0 0x03 unloadRecord := by
  unfold CmdReady
  decide +kernel

/-- At rest, the started UNLOAD has an entry to sweep, and the plan is there. -/
theorem heldSt_unswept :
    let s1 := startCmd heldSt 0 unloadRecord
    planOf s1 0 = some heldPlan ∧ ctxQuiet (cancelCtx s1 0) 0 = true ∧
      ctxSwept (rowsHome (cancelCtx s1 0) 0) 0 [] = false ∧ planOf (rowsHome (cancelCtx s1 0) 0) 0 = some heldPlan := by
  decide +kernel

/-- Refutes O35: the UNLOAD of a context at rest whose plan holds a Mould range with an entry starts the sweep that R467 asks for
and waits for it; the plan stays until then. -/
theorem not_planCommands : ¬ Obligations.PlanCommands := by
  intro h
  obtain ⟨-, unload, -⟩ := h heldSt 0 0 unloadRecord
  obtain ⟨plan, quiet, unswept, kept⟩ := heldSt_unswept
  obtain ⟨t, runs, -, unloaded, -⟩ := unload heldPlan heldSt_ready rfl quiet
  have sweeps : t = sweepAway (rowsHome (cancelCtx (startCmd heldSt 0 unloadRecord) 0) 0) 0 [] := calc
    t = hostRow heldSt 0 0 (isOp 0x03) runUnload moreUnload := (Host.Outcome.next.inj runs).symm
    _ = runUnload (startCmd heldSt 0 unloadRecord) 0 unloadRecord := hostRow_ready heldSt_ready ..
    _ = _ := runUnload_unswept unloadRecord plan quiet unswept
  have plan_stays : planOf t 0 = some heldPlan := by rw [sweeps, planOf_sweepAway, kept]
  exact Option.some_ne_none heldPlan (plan_stays.symm.trans unloaded)

end Sys2Proof.Machine
end
